-- ==== Sys2Proof/Word.lean ====
section
/-! DEFINITION. The word types of the device: bytes, part times and the identity of a device. -/

namespace Sys2Proof

/-- One byte of the shared area or of a link message (spec 12, intro). -/
abbrev Byte := BitVec 8

/-- A part time: a free-running 32-bit count of microseconds (spec 00, Times). -/
abbrev PartTime := BitVec 32

/-- A row generation, compared for equality only (spec 00, Generations). -/
abbrev Generation := BitVec 32

/-- The 6 listed bytes of a device's identity (spec 12; log 6). -/
abbrev Identity := Vector Byte 6

/-- The identity of six zero bytes (R25, R157). -/
def Identity.zero : Identity := #v[0, 0, 0, 0, 0, 0]

end Sys2Proof
end

