-- ==== Sys2Proof/Config.lean ====
section
/-! DEFINITION. What the part fixes (capacities and default values, each with its rule) and the free values. -/

namespace Sys2Proof

namespace Config

/-- FREE VALUE (log 3, log 5). Where the spec leaves the order of things open ("in either order"), the order is read
from this constant applied to `State.openCount`, which advances at each use. It has no body. -/
opaque openOrder : Nat → Nat

/-- FREE VALUE (log 47). R153 hands a row that passes its checks over at once; R124 says that in STARTING after
START_ADOPT no row is adopted before the first sweep ends; the two cannot both hold in that sweep, and the spec does not
say which gives way. Whether rows are handed over in that sweep is this constant. It has no body. -/
opaque adoptsInFirstSweep : Bool

/-- Lookups the lookup queue holds (R35). -/
def queueCapacity : Nat := 64
/-- Answers the answer lane holds (R35, R36). -/
def laneCapacity : Nat := 8
/-- Queue depth that pauses the pipeline (R37). -/
def pauseDepth : Nat := 48
/-- Queue depth that resumes the pipeline (R37). -/
def proceedDepth : Nat := 24
/-- Records the holding queue holds (R159). -/
def holdingCapacity : Nat := 16
/-- Items the fix queue holds (R85). -/
def fixCapacity : Nat := 64
/-- Member-index entries of all lists together, counting reservations (R107). -/
def indexCapacity : Nat := 16384
/-- Blocks of the bucket memory (R76). -/
def blockCount : Nat := 2048
/-- Buckets of one block (R76). -/
def blockSize : Nat := 64
/-- Torn reads that reject a row with TORN (R151). -/
def tornLimit : Nat := 8
/-- Microseconds an area access may take (R167). -/
def areaTimeout : PartTime := 10000
/-- The link version of this device (R31). -/
def linkVersion : Byte := 1

/-- Conduit hold after power-on and CLEAR, in ms (R43). -/
def defaultHold : Nat := 2000
/-- Intake weight after power-on and CLEAR (R123). -/
def defaultWeight : Nat := 4
/-- Scrub interval after power-on and CLEAR, in ms (R88). -/
def defaultScrubInterval : Nat := 10
/-- Scrub burst after power-on and CLEAR, in blocks (R88). -/
def defaultScrubBurst : Nat := 2
/-- SWEEP_PER after power-on and link reset (R169). -/
def defaultSweepPer : Nat := 10

end Config

end Sys2Proof
end

