-- ==== Sys2Proof/Syntax.lean ====
section
/-! DEFINITION. The commands of the device: one constructor for each row of spec/opcode_table.json. An operand is
what the command brings from outside; what the device already holds (the arguments of an order it has read, the lookup
at the head of its queue) is read from State. -/

namespace Sys2Proof

/-- Probe content (spec 12, §12.6): sender identity, sender uplink, seen flag and sequence. -/
structure ProbeContent where
  identity : Identity
  uplink   : Byte
  seen     : Bool
  sequence : BitVec 16
  deriving DecidableEq, Repr

/-- The two registers that REGISTER_WRITE writes (R164). -/
inductive AreaRegister
  | areaLo
  | areaHi
  deriving DecidableEq, Repr

/-- One command: one row of the table. -/
inductive Instr
  /-- POWER_ON_RESET (R169): power-on or the reset pin. -/
  | powerOnReset
  /-- LINK_RESET (R167): PCIe hot reset or link-down. -/
  | linkReset
  /-- DARK_SENSE_LINE_CHANGE (R3): the line of `uplink` takes the level `asserted`. -/
  | darkSenseLineChange (uplink : Fin 32) (asserted : Bool)
  /-- LIGHT_TIMER_EXPIRY (R3): part time reaches the light timer of `uplink`. -/
  | lightTimerExpiry (uplink : Fin 32)
  /-- WINDOW_END (R4): part time reaches the window end of `uplink`. -/
  | windowEnd (uplink : Fin 32)
  /-- PROBE_IN (R40): a PROBE_IN message with a good frame check arrives; `uplink` is its uplink field. -/
  | probeIn (uplink : Byte) (content : ProbeContent)
  /-- SETTLE_EXPIRY (R14): part time reaches the settle expiry of `uplink`. -/
  | settleExpiry (uplink : Fin 32)
  /-- FLAP_ENTRY_AGED (R17): the head of the flap history of `uplink` outlives the flap window. -/
  | flapEntryAged (uplink : Fin 32)
  /-- DRILL_END_TIME (R22): part time reaches the end time of the drill of `uplink`. -/
  | drillEndTime (uplink : Fin 32)
  /-- CONDUIT_EXPIRY (R45): part time reaches the expiry of `conduit`. -/
  | conduitExpiry (conduit : Fin 64)
  /-- LOSS_OF_LOCK (R33). -/
  | lossOfLock
  /-- LOCK_REGAINED (R30). -/
  | lockRegained
  /-- HELLO (R31): a HELLO with a good frame check arrives, carrying `version`. -/
  | hello (version : Byte)
  /-- LOOKUP (R35): a LOOKUP with a good frame check arrives. -/
  | lookup (tag : BitVec 6) (group : BitVec 16) (hash : BitVec 16)
  /-- MESSAGE_DISCARD (R34): a message arrives as the raw bytes `bytes`, and R34's tests are made on them. -/
  | messageDiscard (bytes : List Byte)
  /-- MESSAGE_SENT (R41): the message being sent has been sent in full. -/
  | messageSent
  /-- LOOKUP_TAKEN (R94): the Port takes the head lookup. -/
  | lookupTaken
  /-- LOOKUP_BUCKET_READ_DONE (R101): the first bucket read of the resolution completes. -/
  | lookupBucketReadDone
  /-- ESCAPE_READ_DONE (R104): the second bucket read of the resolution completes. -/
  | escapeReadDone
  /-- BUCKET_ACCESS_GRANT (R82): the arbiter grants the next waiting access. -/
  | bucketAccessGrant
  /-- PARITY_FAULT (R83): the bucket at `offset` of `block` is found corrupted. -/
  | parityFault (block : Fin 2048) (offset : Fin 64)
  /-- SCRUB_TIMER_EXPIRY (R88): part time reaches the scrub timer. -/
  | scrubTimerExpiry
  /-- SCRUB_READ_DONE (R89): the scrubber's read completes. -/
  | scrubReadDone
  /-- SCRUB_WRITE_DONE (R89): the scrubber's write of a free-block bucket completes. -/
  | scrubWriteDone
  /-- SNAPSHOT_READ_DONE (R91): the snapshot's bucket read completes. -/
  | snapshotReadDone
  /-- SNAPSHOT_ENTRY_WRITTEN (R91): the area write of a snapshot entry completes. -/
  | snapshotEntryWritten
  /-- WORK_SELECT (R121): the Walk Engine selects its next unit. -/
  | workSelect
  /-- WALK_STEP_ACCESS_DONE (R115): a bucket access of the walk step completes. -/
  | walkStepAccessDone
  /-- BLOCK_STEP_WRITE_DONE (R134): a bucket write of the block step completes. -/
  | blockStepWriteDone
  /-- SETTLE_PASS_ACCESS_DONE (R140): a bucket access of the settle pass completes. -/
  | settlePassAccessDone
  /-- FIX_ACCESS_DONE (R86): a bucket access of the fix completes. -/
  | fixAccessDone
  /-- SWEEP_TIMER_EXPIRY (R147): part time reaches the sweep timer. -/
  | sweepTimerExpiry
  /-- ROW_READ_DONE (R151): the plan row read completes and returns the 128 bytes `bytes`. -/
  | rowReadDone (bytes : List Byte)
  /-- ORDER_SLOT_READ_DONE (R155): the order slot read completes and returns the 64 bytes `bytes`. -/
  | orderSlotReadDone (bytes : List Byte)
  /-- DRILL_START (R20): the TAKEN write of a DRILL_START order completes and the order is handed over. -/
  | drillStart
  /-- DRILL_END (R24): the TAKEN write of a DRILL_END order completes and the order is handed over. -/
  | drillEnd
  /-- RELEASE (R19): the TAKEN write of a RELEASE order completes and the order is handed over. -/
  | release
  /-- PIN (R69): the TAKEN write of a PIN order completes and the order is handed over. -/
  | pin
  /-- UNPIN (R70): the TAKEN write of an UNPIN order completes and the order is handed over. -/
  | unpin
  /-- CONDUIT_CLEAR (R46): the TAKEN write of a CONDUIT_CLEAR order completes and the order is handed over. -/
  | conduitClear
  /-- SNAPSHOT (R90): the TAKEN write of a SNAPSHOT order completes and the order is handed over. -/
  | snapshot
  /-- SLOT_RESULT_WRITTEN (R156): the write of a completion's result fields completes. -/
  | slotResultWritten
  /-- SLOT_STATE_WRITTEN (R156): the write of a completion's slot state completes. -/
  | slotStateWritten
  /-- JOURNAL_KIND_READ_DONE (R158): the read of the slot kind at the write position returns `kind`. -/
  | journalKindReadDone (kind : Byte)
  /-- JOURNAL_BODY_WRITTEN (R158): the record body write completes. -/
  | journalBodyWritten
  /-- JOURNAL_KIND_WRITTEN (R158): the record kind write completes. -/
  | journalKindWritten
  /-- STATUS_PAGE_WRITE_DONE (R163): one write of the status page completes. -/
  | statusPageWriteDone
  /-- AREA_FAULT (R167): the area access in progress ends with a completion error or times out. -/
  | areaFault
  /-- HEADER_READ_DONE (R144): the header read completes and returns the 256 bytes `bytes`. -/
  | headerReadDone (bytes : List Byte)
  /-- START_FRESH (R165), RUN_CTRL value 1. -/
  | startFresh
  /-- START_ADOPT (R165), RUN_CTRL value 2. -/
  | startAdopt
  /-- STOP (R166), RUN_CTRL value 3. -/
  | stop
  /-- CLEAR (R165), RUN_CTRL value 4. -/
  | clear
  /-- NUDGE (R148), RUN_CTRL value 5. -/
  | nudge
  /-- HOLD_ON (R149), RUN_CTRL value 6. -/
  | holdOn
  /-- HOLD_OFF (R149), RUN_CTRL value 7. -/
  | holdOff
  /-- MODE_CONTINUOUS (R147), RUN_CTRL value 8. -/
  | modeContinuous
  /-- MODE_ON_DEMAND (R147), RUN_CTRL value 9. -/
  | modeOnDemand
  /-- UNKNOWN_COMMAND (R165): a write to RUN_CTRL of a value that names no command. -/
  | unknownCommand (value : BitVec 32)
  /-- CAUSE_READ (R161): the host reads CAUSE. -/
  | causeRead
  /-- CAUSE_EN_WRITE (R162): the host writes CAUSE_EN. -/
  | causeEnWrite (value : BitVec 32)
  /-- SWEEP_PER_WRITE (R164): the host writes SWEEP_PER. -/
  | sweepPerWrite (value : BitVec 32)
  /-- REGISTER_WRITE (R164): the host writes AREA_LO or AREA_HI. -/
  | registerWrite (register : AreaRegister) (value : BitVec 32)
  deriving DecidableEq, Repr

end Sys2Proof
end

