-- ==== Sys2Proof/WellFormed.lean ====
section
/-! DEFINITION. Which terms of `Instr` are commands of the device: the checks of `Instr.wellFormed`. -/

namespace Sys2Proof

/-- A RUN_CTRL value that names a command (spec 12, §12.7): 1 to 9. -/
def namesCommand (value : BitVec 32) : Bool := 1 ≤ value.toNat && value.toNat ≤ 9

/-- A command as the device can receive it. A row read returns 128 bytes, an order slot read 64 and the header read
256 (R144, R146); UNKNOWN_COMMAND carries a value that names no command (R165). Every other operand is in range by its
type. -/
def Instr.wellFormed : Instr → Bool
  | .powerOnReset => true
  | .linkReset => true
  | .darkSenseLineChange _ _ => true
  | .lightTimerExpiry _ => true
  | .windowEnd _ => true
  | .probeIn _ _ => true
  | .settleExpiry _ => true
  | .flapEntryAged _ => true
  | .drillEndTime _ => true
  | .conduitExpiry _ => true
  | .lossOfLock => true
  | .lockRegained => true
  | .hello _ => true
  | .lookup _ _ _ => true
  | .messageDiscard _ => true
  | .messageSent => true
  | .lookupTaken => true
  | .lookupBucketReadDone => true
  | .escapeReadDone => true
  | .bucketAccessGrant => true
  | .parityFault _ _ => true
  | .scrubTimerExpiry => true
  | .scrubReadDone => true
  | .scrubWriteDone => true
  | .snapshotReadDone => true
  | .snapshotEntryWritten => true
  | .workSelect => true
  | .walkStepAccessDone => true
  | .blockStepWriteDone => true
  | .settlePassAccessDone => true
  | .fixAccessDone => true
  | .sweepTimerExpiry => true
  | .rowReadDone bytes => bytes.length == 128
  | .orderSlotReadDone bytes => bytes.length == 64
  | .drillStart => true
  | .drillEnd => true
  | .release => true
  | .pin => true
  | .unpin => true
  | .conduitClear => true
  | .snapshot => true
  | .slotResultWritten => true
  | .slotStateWritten => true
  | .journalKindReadDone _ => true
  | .journalBodyWritten => true
  | .journalKindWritten => true
  | .statusPageWriteDone => true
  | .areaFault => true
  | .headerReadDone bytes => bytes.length == 256
  | .startFresh => true
  | .startAdopt => true
  | .stop => true
  | .clear => true
  | .nudge => true
  | .holdOn => true
  | .holdOff => true
  | .modeContinuous => true
  | .modeOnDemand => true
  | .unknownCommand value => !namesCommand value
  | .causeRead => true
  | .causeEnWrite _ => true
  | .sweepPerWrite _ => true
  | .registerWrite _ _ => true

end Sys2Proof
end

