-- ==== Sys2Proof/Decode.lean ====
section
/-! DEFINITION. Which command an access to the register window is (spec 12, §12.7), and the decoder over the rows of
spec/opcode_table.json that give bits: there are none, since the device's commands are events and not words of an
instruction memory (log 24). -/

namespace Sys2Proof

/-- The command that a value written to RUN_CTRL is: its code, or UNKNOWN_COMMAND for a value that names none (R164,
R165; spec 12, §12.7). -/
def Instr.ofRunCtrl (value : BitVec 32) : Instr :=
  match value.toNat with
  | 1 => .startFresh
  | 2 => .startAdopt
  | 3 => .stop
  | 4 => .clear
  | 5 => .nudge
  | 6 => .holdOn
  | 7 => .holdOff
  | 8 => .modeContinuous
  | 9 => .modeOnDemand
  | _ => .unknownCommand value

/-- The command that a write of the register window at `offset` is; none at an offset without a register that can be
written (R164; spec 12, §12.7). -/
def Instr.ofRegisterWrite (offset : Nat) (value : BitVec 32) : Option Instr :=
  match offset with
  | 0x00 => some (.registerWrite .areaLo value)
  | 0x04 => some (.registerWrite .areaHi value)
  | 0x08 => some (.ofRunCtrl value)
  | 0x14 => some (.causeEnWrite value)
  | 0x18 => some (.sweepPerWrite value)
  | _ => none

/-- The command that a read of the register window at `offset` is: CAUSE_READ at CAUSE; a read of another register
changes nothing and is no command (R161, R164). -/
def Instr.ofRegisterRead (offset : Nat) : Option Instr := if offset = 0x10 then some .causeRead else none

/-- The command that a word spells by the table's bits. No row of the table gives bits, so every word is refused. -/
def decodeTableWord (_nbits _w : Nat) : Option Instr := none

end Sys2Proof
end

