-- ==== Sys2Proof/Machine/State.lean ====
section
/-! DEFINITION. The state of the device as plain data, block by block (spec 00, Blocks), and its value after power-on
reset. -/

namespace Sys2Proof.Machine

/-! ### Uplink Monitor (spec 01) -/

/-- The states of an uplink (R1, R2). -/
inductive UplinkState
  | unconfigured | adminDown | proving | up | dark | settling | quarantined | drill
  deriving DecidableEq, Repr

/-- Why an uplink is not UP (R1). -/
inductive DarkCause
  | lightLost | probeSilent | farBlind | peerMismatch | admin | reconfig | drill | removed
  deriving DecidableEq, Repr

/-- The qualified light (R3). -/
inductive Light
  | present | lost
  deriving DecidableEq, Repr

/-- How an enabled uplink enters service (R1). -/
inductive InitialMode
  | prove | trust
  deriving DecidableEq, Repr

/-- The adopted fields of an uplink, from peer identity to initial mode (R1). -/
structure UplinkParams where
  peerIdentity  : Identity
  peerUplink    : Byte
  /-- Bit k stands for conduit k (spec 12, §12.3). -/
  conduitMask   : BitVec 64
  /-- In steps of 100 µs. -/
  probeInterval : Nat
  missLimit     : Nat
  restoreCount  : Nat
  /-- In ms. -/
  settleTime    : Nat
  /-- In µs. -/
  lightDebounce : Nat
  /-- In s. -/
  flapWindow    : Nat
  flapLimit     : Nat
  initialMode   : InitialMode
  deriving DecidableEq, Repr

/-- The defaults of R1, with the peer identity zero and the conduit mask empty (R25, R29). -/
def UplinkParams.default : UplinkParams where
  peerIdentity := Identity.zero
  peerUplink := 0
  conduitMask := 0
  probeInterval := 10
  missLimit := 3
  restoreCount := 16
  settleTime := 2000
  lightDebounce := 50
  flapWindow := 60
  flapLimit := 5
  initialMode := .prove

/-- A drill in progress (R1, R20). `slot` is absent once the slot has been forgotten; `walkResult` is buckets moved and
walk time. -/
structure DrillRecord where
  endTime    : PartTime
  slot       : Option (Fin 16)
  finding    : Option DarkCause
  walkResult : Option (Nat × PartTime)
  deriving DecidableEq, Repr

/-- The live uplink record (R1). `settleExpiry` is the expiry that R14 fixes at entry into SETTLING. -/
structure UplinkRecord where
  state         : UplinkState
  darkCause     : Option DarkCause
  light         : Light
  lightTimer    : Option PartTime
  generation    : Generation
  params        : UplinkParams
  txSequence    : BitVec 16
  peerSequence  : Option (BitVec 16)
  windowEnd     : Option PartTime
  goodSeen      : Bool
  affirmingSeen : Bool
  mismatchSeen  : Bool
  missCount     : Nat
  blindCount    : Nat
  runCount      : Nat
  mismatchMark  : Bool
  quietWindows  : Nat
  settleStart   : Option PartTime
  settleExpiry  : Option PartTime
  flaps         : List PartTime
  drill         : Option DrillRecord
  deriving DecidableEq, Repr

/-- The record of an uplink after power-on, with the dark-sense line asserted (R29; the line is log 4). -/
def UplinkRecord.reset : UplinkRecord where
  state := .unconfigured
  darkCause := some .removed
  light := .lost
  lightTimer := none
  generation := 0
  params := UplinkParams.default
  txSequence := 0
  peerSequence := none
  windowEnd := none
  goodSeen := false
  affirmingSeen := false
  mismatchSeen := false
  missCount := 0
  blindCount := 0
  runCount := 0
  mismatchMark := false
  quietWindows := 15
  settleStart := none
  settleExpiry := none
  flaps := []
  drill := none

/-- The Uplink Monitor: the 32 live records, and the levels of the dark-sense lines (true: asserted, no light). -/
structure Monitor where
  uplinks : Vector UplinkRecord 32
  lines   : Vector Bool 32
  deriving DecidableEq, Repr

/-! ### Conduit Table (spec 03) -/

/-- What a conduit record holds while RAISED (R43). -/
structure Alarm where
  expiry      : PartTime
  firstRaiser : Fin 32
  cause       : DarkCause
  raisedAt    : PartTime
  raiseCount  : Nat
  deriving DecidableEq, Repr

/-- The Conduit Table: for each conduit its alarm, `none` for CLEAR, and the conduit hold in ms (R43). -/
structure ConduitTable where
  alarms : Vector (Option Alarm) 64
  hold   : Nat
  deriving DecidableEq, Repr

/-! ### Group Table (spec 04, spec 08) -/

/-- The role of a member (R52). -/
inductive Role
  | primary | standby
  deriving DecidableEq, Repr

/-- A member; its slot is its position in the member list (R52). -/
structure Member where
  uplink : Fin 32
  weight : Nat
  role   : Role
  deriving DecidableEq, Repr

/-- The fields a run is built for: live fields or staged fields (R52, R128). -/
structure GroupFields where
  members    : List Member
  bucketSize : Nat
  revertive  : Bool
  escape     : Option Nat
  deriving DecidableEq, Repr

/-- The live fields together with the block map of the live run (R52). -/
structure LiveRun where
  fields : GroupFields
  blocks : List Nat
  deriving DecidableEq, Repr

/-- The progress of a rebuild (R128). -/
inductive Progress
  | step (position : Nat)
  | flip
  deriving DecidableEq, Repr

/-- The rebuild record (R128). -/
structure Rebuild where
  staged           : GroupFields
  generation       : Generation
  blocks           : List Nat
  indexReservation : Nat
  progress         : Progress
  recheck          : Bool
  adoptedAt        : PartTime
  deriving DecidableEq, Repr

/-- Strandedness as journalled (R52). -/
inductive Strandedness
  | active | stranded
  deriving DecidableEq, Repr

/-- The live group record (R52). The group state follows from `live` and `rebuild` (R53). -/
structure GroupRecord where
  adoptedGeneration : Generation
  liveGeneration    : Generation
  live              : Option LiveRun
  pin               : Option Nat
  reported          : Strandedness
  strandedSince     : Option PartTime
  rebuild           : Option Rebuild
  deriving DecidableEq, Repr

/-- A group record after reset (R73). -/
def GroupRecord.reset : GroupRecord where
  adoptedGeneration := 0
  liveGeneration := 0
  live := none
  pin := none
  reported := .active
  strandedSince := none
  rebuild := none

/-- The group states (R53). -/
inductive GroupState
  | unplanned | building | live
  deriving DecidableEq, Repr

/-! ### Bucket Store (spec 05) -/

/-- A bucket: the last-written home and current member slots and the faulted mark (R75). -/
structure Bucket where
  home    : Nat
  current : Nat
  faulted : Bool
  deriving DecidableEq, Repr

/-- A bucket after reset (R93). -/
def Bucket.reset : Bucket := { home := 0, current := 0, faulted := false }

/-- An entry of the owner table (R76). -/
inductive Owner
  | free
  | run (group position : Nat)
  | reserved (group position : Nat)
  deriving DecidableEq, Repr

/-- Which reader found a fault (R85, R87). -/
inductive FoundBy
  | lookup | scrubber | walkStep | settlePass
  deriving DecidableEq, Repr

/-- A fix item (R85). -/
structure FixItem where
  group   : Nat
  bucket  : Nat
  block   : Nat
  offset  : Nat
  foundBy : FoundBy
  deriving DecidableEq, Repr

/-- The accesses the arbiter grants (R82). -/
inductive Requester
  | lookup | escape | walkStep | settlePass | blockStep | fix | scrubRead | scrubWrite | snapshot
  deriving DecidableEq, Repr

/-- The bucket access in progress. `wanted` is clear once the result is to be discarded; `bucket` and `owner` are what a
read returned at its grant (R82, R100). -/
structure BucketAccess where
  requester : Requester
  wanted    : Bool
  bucket    : Bucket
  owner     : Owner
  deriving DecidableEq, Repr

/-- The two requesters of class 3 (R82). -/
inductive Background
  | scrubber | snapshot
  deriving DecidableEq, Repr

/-- Where the scrubber stands with the bucket it treats (R88, R89). -/
inductive ScrubPhase
  | wantRead | reading | wantWrite | writing
  deriving DecidableEq, Repr

/-- A burst in progress; its block is the one the cursor names (R88). -/
structure Burst where
  blocksLeft : Nat
  offset     : Nat
  phase      : ScrubPhase
  deriving DecidableEq, Repr

/-- The snapshot record (R90), with the order's buffer address and whether its bucket read has been granted. -/
structure SnapshotRecord where
  slot       : Fin 16
  group      : Nat
  blocks     : List Nat
  generation : Generation
  buffer     : BitVec 64
  next       : Nat
  faulted    : Nat
  start      : PartTime
  reading    : Bool
  deriving DecidableEq, Repr

/-- The Bucket Store. `memory` and `owners` are sparse tables in the canonical form of `Sparse.wf`: bucket 64k + o is
offset o of block k; an unlisted bucket is `Bucket.reset` and an unlisted block FREE. -/
structure BucketStore where
  memory         : List (Nat × Bucket)
  owners         : List (Nat × Owner)
  loads          : Vector Nat 32
  fixQueue       : List FixItem
  access         : Option BucketAccess
  lastBackground : Option Background
  scrubCursor    : Nat
  /-- In ms. -/
  scrubInterval  : Nat
  scrubBurst     : Nat
  scrubTimer     : PartTime
  burst          : Option Burst
  snapshot       : Option SnapshotRecord
  deriving DecidableEq, Repr

/-! ### Run states (spec 11), used by the taking view -/

/-- The run states (R165). -/
inductive RunState
  | off | starting | running | headless
  deriving DecidableEq, Repr

/-- Why the device last became HEADLESS (R160). -/
inductive HeadlessReason
  | stop | linkReset | areaFault
  deriving DecidableEq, Repr

/-- The sweep mode (R147). -/
inductive SweepMode
  | continuous | onDemand
  deriving DecidableEq, Repr

/-! ### Resolution Port (spec 02, spec 06) -/

/-- The link state (R30). -/
inductive LinkState
  | down | ready
  deriving DecidableEq, Repr

/-- The lock indication (R30). -/
inductive Lock
  | inLock | outOfLock
  deriving DecidableEq, Repr

/-- A lookup in the queue (R35). -/
structure Lookup where
  tag   : BitVec 6
  group : BitVec 16
  hash  : BitVec 16
  deriving DecidableEq, Repr

/-- The outcome of an answer (R95). -/
inductive AnswerOutcome
  | uplink | noRoute | notReady | badGroup | refused
  deriving DecidableEq, Repr

/-- An answer (R105); the uplink field is 0 in an answer that names none. -/
structure Answer where
  tag     : BitVec 6
  outcome : AnswerOutcome
  uplink  : Fin 32
  escaped : Bool
  deriving DecidableEq, Repr

/-- What the taking view holds of one group (R94). -/
structure GroupView where
  state : GroupState
  live  : Option LiveRun
  pin   : Option Nat
  deriving DecidableEq, Repr

/-- The taking view of the lookup being resolved (R94). `escape` is the record of the escape group, when the group is
stranded and has one. -/
structure TakingView where
  runState   : RunState
  groupCount : Nat
  planMark   : Bool
  group      : GroupView
  states     : Vector UplinkState 32
  shadowed   : Vector Bool 32
  escape     : Option GroupView
  deriving DecidableEq, Repr

/-- Where the resolution stands with its one or two bucket reads (R100, R104). -/
inductive ResolutionPhase
  | wantRead | reading | wantEscape | readingEscape
  deriving DecidableEq, Repr

/-- The resolution in progress (R36). -/
structure Resolution where
  lookup : Lookup
  view   : TakingView
  phase  : ResolutionPhase
  deriving DecidableEq, Repr

/-- The pending flow-control message (R37). -/
inductive Flow
  | none | pause | proceed
  deriving DecidableEq, Repr

/-- A PROBE_OUT (R5). -/
structure ProbeOut where
  uplink  : Fin 32
  content : ProbeContent
  deriving DecidableEq, Repr

/-- Which of the answer lane and the waiting probes the transmitter took last (R41). -/
inductive LastTaken
  | answer | probe
  deriving DecidableEq, Repr

/-- The message being sent (R41). -/
inductive Sending
  | hello
  | pause
  | proceed
  | answer (a : Answer)
  | probe (p : ProbeOut)
  deriving DecidableEq, Repr

/-- The Resolution Port. `answering` is the answering HELLO, pending with the version of the last HELLO received. -/
structure Port where
  link       : LinkState
  lock       : Lock
  answering  : Option Byte
  queue      : List Lookup
  resolution : Option Resolution
  lane       : List Answer
  paused     : Bool
  flow       : Flow
  probes     : List ProbeOut
  lastTaken  : LastTaken
  sending    : Option Sending
  deriving DecidableEq, Repr

/-! ### Walk Engine (spec 07) -/

/-- The class of a walk (R111); a walk's class is the queue it stands in. -/
inductive WalkClass
  | urgent | restore
  deriving DecidableEq, Repr

/-- A walk (R111). -/
structure Walk where
  uplink        : Fin 32
  cursor        : Option Nat
  groupsTouched : Nat
  bucketsMoved  : Nat
  conversions   : Nat
  start         : PartTime
  deriving DecidableEq, Repr

/-- An intake item (R119). A bucket fix names its fix item by group and bucket. -/
inductive IntakeItem
  | blockStep (group position : Nat)
  | flip (group : Nat)
  | settlePass (group : Nat)
  | fix (group bucket : Nat)
  deriving DecidableEq, Repr

/-- Where a unit of work stands with the bucket it treats. `found` says that the bucket was read faulted. -/
inductive AccessPhase
  | wantRead
  | reading
  | wantWrite (home current : Nat) (found : Bool)
  | writing
  deriving DecidableEq, Repr

/-- The unit in progress (R121). `converted` says that the walk was converted during the step (R117). -/
inductive Work
  | walkStep (uplink : Fin 32) (group bucket : Nat) (converted : Bool) (phase : AccessPhase)
  | settlePass (group bucket : Nat) (phase : AccessPhase)
  | blockStep (group position offset : Nat) (writing : Bool)
  | fix (item : FixItem) (phase : AccessPhase)
  deriving DecidableEq, Repr

/-- The Walk Engine. -/
structure WalkEngine where
  index           : Vector (List Nat) 32
  entriesInUse    : Nat
  entriesReserved : Nat
  urgent          : List Walk
  restore         : List Walk
  intake          : List IntakeItem
  tally           : Nat
  weight          : Nat
  work            : Option Work
  deriving DecidableEq, Repr

/-! ### Area Interface (spec 09, spec 10) -/

/-- A plan row: uplink row or group row, and its number. -/
inductive RowId
  | uplink (number : Fin 32)
  | group (number : Nat)
  deriving DecidableEq, Repr

/-- Row kinds (spec 12, §12.1). -/
inductive RowKind
  | empty | enabled | disabled | planned
  deriving DecidableEq, Repr

/-- Row reasons (spec 12, §12.1). -/
inductive RowReason
  | torn | badCheck | badField | dupMember | selfEscape | noBlocks | noIndex
  deriving DecidableEq, Repr

/-- Order kinds (spec 12, §12.1). -/
inductive OrderKind
  | drillStart | drillEnd | release | pin | unpin | conduitClear | snapshot
  deriving DecidableEq, Repr

/-- Order reasons (spec 12, §12.1). -/
inductive OrderReason
  | none | badCheck | badKind | badArg | badState | planChanged | runReplaced | abandoned
  deriving DecidableEq, Repr

/-- Results 1 to 4 of an order (spec 12, §12.3). -/
structure Results where
  r1 : BitVec 32
  r2 : BitVec 32
  r3 : BitVec 32
  r4 : BitVec 32
  deriving DecidableEq, Repr

/-- Zero result fields. -/
def Results.zero : Results := { r1 := 0, r2 := 0, r3 := 0, r4 := 0 }

/-- Why a conduit cleared (R45, R46). -/
inductive ClearReason
  | expiry | order
  deriving DecidableEq, Repr

/-- What a journal record says: its kind and the fields of that kind (spec 12, §12.4), in the table's order. -/
inductive Entry
  | uplinkChange (uplink : Fin 32) (previous new : UplinkState) (cause : Option DarkCause)
  | walkDone (uplink : Fin 32) (cls : WalkClass) (conversions groupsTouched bucketsMoved : Nat) (duration : PartTime)
  | groupStranded (group : Nat) (escape : Option Nat) (generation : Generation)
  | groupRecovered (group : Nat) (generation : Generation) (strandedMs : Nat)
  | rowAdopted (row : RowId) (kind : RowKind) (generation : Generation) (bucketSize blocks entries : Nat)
  | rowRejected (row : RowId) (reason : RowReason) (generation : Generation) (detail1 detail2 : BitVec 32)
  | rowSuperseded (group steps : Nat) (cancelled superseding : Generation)
  | rebuildDone (group bucketSize : Nat) (new previous : Generation) (duration : PartTime) (blocks : Nat)
      (recheck : Bool)
  | conduitAlarm (conduit : Fin 64) (uplink : Fin 32) (cause : DarkCause) (expiry : PartTime)
  | conduitCleared (conduit : Fin 64) (reason : ClearReason) (firstRaiser : Fin 32) (raiseCount raisedMs : Nat)
      (cause : DarkCause)
  | scrubFix (group bucket block offset : Nat) (foundBy : FoundBy) (previous home current : Nat)
  | pinLapsed (group slot : Nat) (uplink : Fin 32) (generation : Generation)
  | orderEnded (slot : Option (Fin 16)) (kind : Byte) (failed : Bool) (reason : OrderReason) (results : Results)
  | sweepDone (number : BitVec 32) (start duration : PartTime) (handedOver rejected torn deferred orders : Nat)
      (converged : Bool)
  | resumed (reason : Option HeadlessReason) (gapCount headlessMs : Nat)
  | stopped (number : BitVec 32)
  | gap (count : Nat) (first last : Option PartTime)
  deriving DecidableEq, Repr

/-- A journal record: its part time and what it says. -/
structure Record where
  time  : PartTime
  entry : Entry
  deriving DecidableEq, Repr

/-- Where a sweep stands (R146): at a row's or a slot's read, at the TAKEN write of a slot, waiting for a completion
made within the hand-over to be written, at the holding-queue flush, or at a write of the status page. -/
inductive SweepPhase
  | uplinkRow (number : Fin 32)
  | groupRow (number : Nat)
  | slotRead (slot : Fin 16)
  | slotTaken (slot : Fin 16)
  | slotWrite (slot : Fin 16)
  | flush
  | page (part : Nat)
  deriving DecidableEq, Repr

/-- The sweep record (R146), with its place and whether every row read so far was unchanged (R154). -/
structure SweepRecord where
  number       : BitVec 32
  start        : PartTime
  reporting    : Bool
  handedOver   : Nat
  rejected     : Nat
  torn         : Nat
  deferred     : Nat
  orders       : Nat
  allUnchanged : Bool
  phase        : SweepPhase
  deriving DecidableEq, Repr

/-- What the Area Interface holds for one row (spec 09, §9.3). -/
structure RowMemory where
  tornCount    : Nat
  lastRejected : Option Generation
  deriving DecidableEq, Repr

/-- A row's memory after reset (R157). -/
def RowMemory.reset : RowMemory := { tornCount := 0, lastRejected := none }

/-- The order whose TAKEN write is in progress (R155). -/
structure OrderInHand where
  slot   : Fin 16
  kind   : OrderKind
  argA   : BitVec 16
  argB   : BitVec 16
  buffer : BitVec 64
  length : BitVec 32
  deriving DecidableEq, Repr

/-- A completion being written to its slot (R156). `kind` is the order kind byte. -/
structure Completion where
  slot    : Fin 16
  kind    : Byte
  failed  : Bool
  reason  : OrderReason
  results : Results
  time    : PartTime
  deriving DecidableEq, Repr

/-- The area accesses (R145). -/
inductive AreaAccess
  | headerRead
  | rowRead (row : RowId)
  | slotRead (slot : Fin 16)
  | takenWrite (slot : Fin 16)
  | slotResult (slot : Fin 16)
  | slotState (slot : Fin 16)
  | journalKindRead
  | journalBody
  | journalKind
  | pageWrite (part : Nat)
  | snapshotEntry (slot : Fin 16) (address : BitVec 64) (entry : List Byte) (last : Bool)
  deriving DecidableEq, Repr

/-- The area access in progress: its address, the bytes it writes (none for a read) and when it was granted. -/
structure Flight where
  access  : AreaAccess
  address : BitVec 64
  data    : List Byte
  granted : PartTime
  deriving DecidableEq, Repr

/-- The journal access in progress (R158). -/
inductive WriterPhase
  | idle | kindRead | body | kind
  deriving DecidableEq, Repr

/-- The STOPPED record being tried (R166). `begun` says that the journal access in progress is its own. -/
structure StopTry where
  record : Record
  begun  : Bool
  deriving DecidableEq, Repr

/-- The START command whose header read is in flight (R165). START_ADOPT taken in OFF is held as `fresh`. -/
inductive StartCommand
  | fresh | adopt
  deriving DecidableEq, Repr

/-- The Area Interface. `groupRows` is a sparse table with default `RowMemory.reset`. `requested` holds the accesses
requested in the event being taken, and is empty between events. -/
structure AreaInterface where
  base          : BitVec 64
  identity      : Identity
  groupCount    : Nat
  journalLength : Nat
  planMark      : Bool
  sweepNumber   : BitVec 32
  sweep         : Option SweepRecord
  sweepTimer    : Option PartTime
  dueMark       : Bool
  uplinkRows    : Vector RowMemory 32
  groupRows     : List (Nat × RowMemory)
  slotHolds     : Vector (Option OrderKind) 16
  converged     : Bool
  taking        : Option OrderInHand
  completions   : List Completion
  position      : Nat
  blocked       : Bool
  holding       : List Record
  writer        : WriterPhase
  stopTry       : Option StopTry
  gapCount      : Nat
  firstDrop     : Option PartTime
  lastDrop      : Option PartTime
  newsMark      : Bool
  startCommand  : Option StartCommand
  adoptPage     : Bool
  flight        : Option Flight
  waiting       : List AreaAccess
  requested     : List AreaAccess
  deriving DecidableEq, Repr

/-! ### Run Control (spec 11) -/

/-- Run Control. `readData` is what the last CAUSE_READ returned and `interruptsSent` counts the attention interrupt
messages sent: the two outputs of the block (log 22). `lastRefused` is 0 for none, a command code, or Fh. -/
structure RunControl where
  areaLo         : BitVec 32
  areaHi         : BitVec 32
  cause          : BitVec 32
  causeEn        : BitVec 32
  sweepPer       : Nat
  mode           : SweepMode
  hold           : Bool
  lastRefused    : BitVec 4
  runState       : RunState
  headlessReason : Option HeadlessReason
  headlessSince  : Option PartTime
  now            : PartTime
  readData       : BitVec 32
  interruptsSent : Nat
  deriving DecidableEq, Repr

/-! ### The device -/

/-- The state of the device. `groups` is a sparse table with default `GroupRecord.reset`. `openCount` is the model's
counter for open orders (log 3); `pending` is the queue of commands. -/
structure State where
  control   : RunControl
  monitor   : Monitor
  conduits  : ConduitTable
  groups    : List (Nat × GroupRecord)
  store     : BucketStore
  port      : Port
  engine    : WalkEngine
  area      : AreaInterface
  openCount : Nat
  pending   : List Instr
  deriving DecidableEq, Repr

/-- Why the machine stops with a fault: never. Nothing in the spec stops the device; an area fault, a parity fault, a
failed order and a rejected row are effects on State. -/
inductive Fault
  deriving DecidableEq, Repr

/-- Why a command is refused. -/
inductive Refusal
  /-- Raised by an arm of `exec` that has no meaning yet. Safe: the machine stops. -/
  | notModelled (mnemonic : String)
  /-- Raised by a meaning whose operand is not one the device can receive (`Instr.wellFormed`; log 20): a read that
  returns another number of bytes than it asked for, or UNKNOWN_COMMAND with a value that names a command. Safe: the
  machine stops on a term that is not a command. -/
  | illFormed
  deriving DecidableEq, Repr

/-- Run Control after power-on (R169). -/
def RunControl.reset : RunControl where
  areaLo := 0
  areaHi := 0
  cause := 0
  causeEn := 0
  sweepPer := Config.defaultSweepPer
  mode := .continuous
  hold := false
  lastRefused := 0
  runState := .off
  headlessReason := none
  headlessSince := none
  now := 0
  readData := 0
  interruptsSent := 0

/-- The Uplink Monitor after power-on (R29), every line asserted (log 4). -/
def Monitor.reset : Monitor where
  uplinks := Vector.replicate 32 UplinkRecord.reset
  lines := Vector.replicate 32 true

/-- The Conduit Table after power-on (R51). -/
def ConduitTable.reset : ConduitTable where
  alarms := Vector.replicate 64 none
  hold := Config.defaultHold

/-- The Bucket Store after power-on (R93); the scrub timer is started at part time 0 with the default interval. A bucket
access and a burst in progress are cut off (log 51). -/
def BucketStore.reset : BucketStore where
  memory := []
  owners := []
  loads := Vector.replicate 32 0
  fixQueue := []
  access := none
  lastBackground := none
  scrubCursor := 0
  scrubInterval := Config.defaultScrubInterval
  scrubBurst := Config.defaultScrubBurst
  scrubTimer := 10000
  burst := none
  snapshot := none

/-- The Resolution Port after power-on (R42), the lanes not aligned (log 4) and no message being sent (log 39). -/
def Port.reset : Port where
  link := .down
  lock := .outOfLock
  answering := none
  queue := []
  resolution := none
  lane := []
  paused := false
  flow := .none
  probes := []
  lastTaken := .probe
  sending := none

/-- The Walk Engine after power-on (R125). -/
def WalkEngine.reset : WalkEngine where
  index := Vector.replicate 32 []
  entriesInUse := 0
  entriesReserved := 0
  urgent := []
  restore := []
  intake := []
  tally := 0
  weight := Config.defaultWeight
  work := none

/-- The Area Interface after power-on (R157, R160). -/
def AreaInterface.reset : AreaInterface where
  base := 0
  identity := Identity.zero
  groupCount := 0
  journalLength := 0
  planMark := false
  sweepNumber := 0
  sweep := none
  sweepTimer := none
  dueMark := false
  uplinkRows := Vector.replicate 32 RowMemory.reset
  groupRows := []
  slotHolds := Vector.replicate 16 none
  converged := false
  taking := none
  completions := []
  position := 0
  blocked := false
  holding := []
  writer := .idle
  stopTry := none
  gapCount := 0
  firstDrop := none
  lastDrop := none
  newsMark := false
  startCommand := none
  adoptPage := false
  flight := none
  waiting := []
  requested := []

/-- The device right after power-on reset. -/
def State.reset : State where
  control := RunControl.reset
  monitor := Monitor.reset
  conduits := ConduitTable.reset
  groups := []
  store := BucketStore.reset
  port := Port.reset
  engine := WalkEngine.reset
  area := AreaInterface.reset
  openCount := 0
  pending := []

end Sys2Proof.Machine
end

