-- ==== Sys2Proof/Machine/Flags.lean ====
section
/-! DEFINITION. The causes of CAUSE, the attention interrupt, and RUN_STAT (spec 10, §10.4; spec 11, §11.1). -/

namespace Sys2Proof.Machine

/-- The seven causes (R161). -/
inductive Cause
  | news | urgent | sweepDone | gap | areaFault | badCtrl | headerBad
  deriving DecidableEq, Repr

/-- The bit of CAUSE and CAUSE_EN that stands for a cause (spec 12, §12.7). -/
def Cause.bit : Cause → BitVec 32
  | .news => 0x01
  | .urgent => 0x02
  | .sweepDone => 0x04
  | .gap => 0x08
  | .areaFault => 0x10
  | .badCtrl => 0x20
  | .headerBad => 0x40

/-- The bits of CAUSE_EN that are stored (spec 12, §12.7). -/
def causeMask : BitVec 32 := 0x7F

/-- The interrupt message is sent when the causes both set and enabled go from none to at least one (R162). -/
def interruptRises (causeBefore enabledBefore causeAfter enabledAfter : BitVec 32) : Bool :=
  causeBefore &&& enabledBefore == 0 && causeAfter &&& enabledAfter != 0

/-- Sets the causes `bits` and sends the attention interrupt when R162 says so. -/
def RunControl.setCause (c : RunControl) (bits : BitVec 32) : RunControl :=
  { c with
    cause := c.cause ||| bits
    interruptsSent :=
      if interruptRises c.cause c.causeEn (c.cause ||| bits) c.causeEn then c.interruptsSent + 1
      else c.interruptsSent }

/-- Sets one cause (R161). -/
def State.setCause (s : State) (cause : Cause) : State :=
  { s with control := s.control.setCause cause.bit }

/-- The code of a run state (spec 12, §12.1). -/
def RunState.code : RunState → Nat
  | .off => 0
  | .starting => 1
  | .running => 2
  | .headless => 3

/-- RUN_STAT: run state, mode, HOLD, CONVERGED, sweep active, last refused command (spec 12, §12.7). -/
def State.runStat (s : State) : BitVec 32 :=
  BitVec.ofNat 32 s.control.runState.code
    ||| (if s.control.mode = .onDemand then 0x04 else 0)
    ||| (if s.control.hold then 0x08 else 0)
    ||| (if s.area.converged then 0x10 else 0)
    ||| (if s.area.sweep.isSome then 0x20 else 0)
    ||| (s.control.lastRefused.setWidth 32 <<< 8)

/-- The value a read of the register at `offset` returns (R164; spec 12, §12.7). Only a read of CAUSE changes the state;
it is the command CAUSE_READ. -/
def State.readRegister (s : State) (offset : Nat) : Option (BitVec 32) :=
  match offset with
  | 0x00 => some s.control.areaLo
  | 0x04 => some s.control.areaHi
  | 0x08 => some 0
  | 0x0C => some s.runStat
  | 0x10 => some s.control.cause
  | 0x14 => some s.control.causeEn
  | 0x18 => some (BitVec.ofNat 32 s.control.sweepPer)
  | _ => none

end Sys2Proof.Machine
end

