-- ==== Sys2Proof/Machine/Ops.lean ====
section
/-! DEFINITION. The shared operations: sparse tables, part time, open orders, accessors of the blocks, the production of
journal records, and the requests and grants of area accesses. -/

namespace Sys2Proof.Machine

/-! ### Sparse tables -/

namespace Sparse

variable {α : Type}

/-- The value of key `n`: `d` where the table lists none. -/
def get (d : α) : List (Nat × α) → Nat → α
  | [], _ => d
  | (k, v) :: t, n => if k = n then v else get d t n

/-- The table with `v` at key `n`. Writing the default removes the entry, so equal tables are equal lists. -/
def set [DecidableEq α] (d : α) : List (Nat × α) → Nat → α → List (Nat × α)
  | [], n, v => if v = d then [] else [(n, v)]
  | (k, w) :: t, n, v =>
    if k < n then (k, w) :: set d t n v
    else if k = n then (if v = d then t else (n, v) :: t)
    else if v = d then (k, w) :: t else (n, v) :: (k, w) :: t

/-- The canonical form: keys strictly rising and no entry equal to the default. -/
abbrev wf (d : α) (l : List (Nat × α)) : Prop :=
  l.Pairwise (fun a b => a.1 < b.1) ∧ ∀ e ∈ l, e.2 ≠ d

end Sparse

/-! ### Part time and saturating counts -/

/-- The span from part time `t` to a later part time `u`, in µs (spec 00, Times). -/
def span (t u : PartTime) : Nat := (u - t).toNat

/-- A span in ms, as records carry it: rounded down, where the spec states no rounding (log 40; R45, R65, R160). -/
def spanMs (t u : PartTime) : Nat := span t u / 1000

/-- The part time `us` microseconds after `t`. -/
def after (t : PartTime) (us : Nat) : PartTime := t + BitVec.ofNat 32 us

/-- Of two part times that both lie ahead of `now`, the later (spec 00, Times). -/
def laterOf (now a b : PartTime) : PartTime := if span now a < span now b then b else a

/-- A count raised by 1, saturating at `top`. -/
def saturate (top n : Nat) : Nat := min top (n + 1)

/-- Now. -/
abbrev State.now (s : State) : PartTime := s.control.now

/-! ### Open orders -/

/-- The elements of a list in an order the spec leaves open: every order is possible, and which one it is follows from
the free value `Config.openOrder` (log 3). Also answers the counter after its uses. -/
def anyOrder {α : Type} : List α → Nat → List α × Nat
  | [], n => ([], n)
  | [a], n => ([a], n)
  | a :: b :: t, n =>
    let (r, m) := anyOrder (b :: t) n
    (r.insertIdx (Config.openOrder m % (r.length + 1)) a, m + 1)

/-! ### Accessors -/

/-- The live record of uplink `u` (R1). -/
def State.uplink (s : State) (u : Fin 32) : UplinkRecord := s.monitor.uplinks.get u

/-- The state with the record `r` for uplink `u`. -/
def State.setUplink (s : State) (u : Fin 32) (r : UplinkRecord) : State :=
  { s with monitor := { s.monitor with uplinks := s.monitor.uplinks.set u r } }

/-- The state with the record of uplink `u` changed by `f`. -/
def State.modifyUplink (s : State) (u : Fin 32) (f : UplinkRecord → UplinkRecord) : State :=
  s.setUplink u (f (s.uplink u))

/-- The alarm of conduit `c`, `none` for CLEAR (R43). -/
def State.alarm (s : State) (c : Fin 64) : Option Alarm := s.conduits.alarms.get c

/-- The state with the alarm `a` for conduit `c`. -/
def State.setAlarm (s : State) (c : Fin 64) (a : Option Alarm) : State :=
  { s with conduits := { s.conduits with alarms := s.conduits.alarms.set c a } }

/-- Whether a conduit mask includes a conduit whose alarm is RAISED. -/
def State.maskRaised (s : State) (mask : BitVec 64) : Bool :=
  (List.finRange 64).any fun c => mask.getLsbD c.val && (s.alarm c).isSome

/-- The shadowed attribute of an uplink: it is UP and its adopted mask includes a RAISED conduit (R47). -/
def State.shadowed (s : State) (u : Fin 32) : Bool :=
  decide ((s.uplink u).state = .up) && s.maskRaised (s.uplink u).params.conduitMask

/-- The live record of group `g` (R52). -/
def State.group (s : State) (g : Nat) : GroupRecord := Sparse.get GroupRecord.reset s.groups g

/-- The state with the record `r` for group `g`. -/
def State.setGroup (s : State) (g : Nat) (r : GroupRecord) : State :=
  { s with groups := Sparse.set GroupRecord.reset s.groups g r }

/-- A group's state follows from what it holds (R53). -/
def GroupRecord.state (r : GroupRecord) : GroupState :=
  if r.live.isSome then .live else if r.rebuild.isSome then .building else .unplanned

/-- The bucket at offset `o` of block `k` (R76). -/
def bucketIndex (block offset : Nat) : Nat := Config.blockSize * block + offset

namespace Memory

/-- The canonical form of the bucket memory. -/
abbrev wf (m : List (Nat × Bucket)) : Prop := Sparse.wf Bucket.reset m

/-- The bucket at index `i`. -/
def read (m : List (Nat × Bucket)) (i : Nat) : Bucket := Sparse.get Bucket.reset m i

/-- The memory with bucket `b` at index `i`. -/
def write (m : List (Nat × Bucket)) (i : Nat) (b : Bucket) : List (Nat × Bucket) := Sparse.set Bucket.reset m i b

end Memory

/-- The bucket at offset `o` of block `k`. -/
def State.bucket (s : State) (block offset : Nat) : Bucket := Memory.read s.store.memory (bucketIndex block offset)

/-- The state with bucket `b` at offset `o` of block `k`. -/
def State.setBucket (s : State) (block offset : Nat) (b : Bucket) : State :=
  { s with store := { s.store with memory := Memory.write s.store.memory (bucketIndex block offset) b } }

/-- The owner entry of a block (R76). -/
def State.owner (s : State) (block : Nat) : Owner := Sparse.get Owner.free s.store.owners block

/-- The state with the owner entry `o` for a block. -/
def State.setOwner (s : State) (block : Nat) (o : Owner) : State :=
  { s with store := { s.store with owners := Sparse.set Owner.free s.store.owners block o } }

/-- The free block count: the size of the free pool (R76). -/
def State.freeBlockCount (s : State) : Nat := Config.blockCount - s.store.owners.length

/-- The free member-index entries (R107). -/
def State.freeIndexEntries (s : State) : Nat :=
  Config.indexCapacity - s.engine.entriesInUse - s.engine.entriesReserved

/-- Whether the run state is STARTING or RUNNING. -/
def RunState.active : RunState → Bool
  | .off => false
  | .starting => true
  | .running => true
  | .headless => false

/-! ### Journal records -/

/-- A record is produced: it joins the tail of the holding queue, or is dropped into the gap when the queue holds 16
(R159). -/
def State.produce (s : State) (e : Entry) : State :=
  if s.area.holding.length < Config.holdingCapacity then
    { s with area := { s.area with holding := s.area.holding ++ [{ time := s.now, entry := e }] } }
  else
    let dropped : State :=
      { s with area := { s.area with
          gapCount := saturate 65535 s.area.gapCount
          firstDrop := if s.area.gapCount = 0 then some s.now else s.area.firstDrop
          lastDrop := some s.now } }
    if s.area.gapCount = 0 then dropped.setCause .gap else dropped

/-! ### Area accesses -/

/-- An access to the shared area is requested (R145). It takes its place when the event ends (`settleArea`). -/
def State.request (s : State) (a : AreaAccess) : State :=
  { s with area := { s.area with requested := s.area.requested ++ [a] } }

/-- While the run state is STARTING or RUNNING, the blocked mark is clear and no journal access is in progress, the
journal writer takes the record at the head of the holding queue (R158); while a STOPPED record is tried it takes none
(R166). -/
def State.wakeWriter (s : State) : State :=
  if s.control.runState.active && !s.area.blocked && s.area.writer == .idle && s.area.stopTry.isNone
      && !s.area.holding.isEmpty then
    State.request { s with area := { s.area with writer := .kindRead } } .journalKindRead
  else s

/-- The accesses requested in this event join the waiting ones, among themselves in either order (R145; log 3). -/
def State.queueRequests (s : State) : State :=
  let (batch, count) := anyOrder s.area.requested s.openCount
  { s with
    area := { s.area with waiting := s.area.waiting ++ batch, requested := [] }
    openCount := count }

end Sys2Proof.Machine
end

