-- ==== Sys2Proof/Machine/Operands.lean ====
section
/-! DEFINITION. Reading the structures that come from outside: byte order, the ones-complement check, the area header,
plan rows, order slots and link messages (spec 12). -/

namespace Sys2Proof.Machine

/-! ### Bytes and half-words (R170) -/

/-- The byte at an offset; 0 beyond the end. -/
def byteAt (bytes : List Byte) (i : Nat) : Nat := (bytes.getD i 0).toNat

/-- The unsigned number of bytes listed least significant first. -/
def littleEndian : List Byte → Nat
  | [] => 0
  | b :: t => b.toNat + 256 * littleEndian t

/-- The bytes at offset `i`, `n` of them. -/
def slice (bytes : List Byte) (i n : Nat) : List Byte := (bytes.drop i).take n

/-- A field of `n` bytes at offset `i` of a structure of the shared area (R170). -/
def areaField (bytes : List Byte) (i n : Nat) : Nat := littleEndian (slice bytes i n)

/-- A field of `n` bytes at offset `i` of a link message (R170). -/
def linkField (bytes : List Byte) (i n : Nat) : Nat := littleEndian (slice bytes i n).reverse

/-- The identity at offset `i`: its 6 bytes in the order listed (log 6). -/
def identityAt (bytes : List Byte) (i : Nat) : Identity :=
  #v[bytes.getD i 0, bytes.getD (i + 1) 0, bytes.getD (i + 2) 0, bytes.getD (i + 3) 0, bytes.getD (i + 4) 0,
    bytes.getD (i + 5) 0]

/-- The half-words of a structure of the shared area, low byte first (R171). -/
def areaHalfWords : List Byte → List Nat
  | a :: b :: t => (a.toNat + 256 * b.toNat) :: areaHalfWords t
  | _ => []

/-- The half-words of a link message, high byte first (R171). -/
def linkHalfWords : List Byte → List Nat
  | a :: b :: t => (256 * a.toNat + b.toNat) :: linkHalfWords t
  | _ => []

/-- One addition of the ones-complement sum: a partial sum above FFFFh has FFFFh subtracted (R171). -/
def onesAdd (sum halfWord : Nat) : Nat :=
  if sum + halfWord > 0xFFFF then sum + halfWord - 0xFFFF else sum + halfWord

/-- The ones-complement sum of half-words (R171). -/
def onesSum (halfWords : List Nat) : Nat := halfWords.foldl onesAdd 0

/-- Whether a structure of the shared area satisfies its check (R171). -/
def areaCheck (bytes : List Byte) : Bool := onesSum (areaHalfWords bytes) == 0xFFFF

/-- Whether a link message satisfies its frame check (R171). -/
def linkCheck (bytes : List Byte) : Bool := onesSum (linkHalfWords bytes) == 0xFFFF

/-! ### The area header (R144; §12.3) -/

/-- The values a good header supplies (R144). -/
structure Header where
  identity      : Identity
  groupCount    : Nat
  journalLength : Nat
  conduitHold   : Nat
  weight        : Nat
  scrubBurst    : Nat
  scrubInterval : Nat
  deriving DecidableEq, Repr

/-- The values in the header's bytes. -/
def Header.read (bytes : List Byte) : Header where
  identity := identityAt bytes 4
  groupCount := areaField bytes 12 2
  journalLength := areaField bytes 14 2
  conduitHold := areaField bytes 16 2
  weight := byteAt bytes 18
  scrubBurst := byteAt bytes 19
  scrubInterval := areaField bytes 20 2

/-- Whether a number lies in a range. -/
def inRange (low high n : Nat) : Bool := decide (low ≤ n) && decide (n ≤ high)

/-- Whether the header is good (R144). -/
def headerGood (bytes : List Byte) : Bool :=
  let h := Header.read bytes
  areaField bytes 0 2 == 0x5A3C && areaField bytes 2 2 == 1
    && inRange 1 2048 h.groupCount
    && inRange 64 4096 h.journalLength
    && inRange 100 10000 h.conduitHold
    && inRange 1 15 h.weight
    && inRange 1 1000 h.scrubInterval
    && [1, 2, 4, 8].contains h.scrubBurst

/-! ### Plan rows (R151, R152; §12.3) -/

/-- The head generation of a row. -/
def headGeneration (bytes : List Byte) : Generation := BitVec.ofNat 32 (areaField bytes 0 4)

/-- The tail generation of a row. -/
def tailGeneration (bytes : List Byte) : Generation := BitVec.ofNat 32 (areaField bytes 124 4)

/-- Why a row is rejected, with the two details of its ROW_REJECTED record (§12.4). -/
structure Rejection where
  reason  : RowReason
  detail1 : Nat
  detail2 : Nat
  deriving DecidableEq, Repr

/-- A rejection for the field at a byte offset. -/
def Rejection.field (offset : Nat) : Rejection := { reason := .badField, detail1 := offset, detail2 := 0 }

/-- A rejection without details. -/
def Rejection.plain (reason : RowReason) : Rejection := { reason, detail1 := 0, detail2 := 0 }

/-- The offset of the first field out of its range, the fields taken in the order listed. -/
def firstBad : List (Nat × Bool) → Option Nat
  | [] => none
  | (offset, good) :: t => if good then firstBad t else some offset

/-- What an uplink row that passes its checks asks for (R25, R26). -/
structure UplinkRow where
  kind   : RowKind
  params : UplinkParams
  deriving DecidableEq, Repr

/-- The range checks of an uplink row in layout order, kind first (R152 checks 2 and 3). -/
def uplinkRowFields (bytes : List Byte) : List (Nat × Bool) :=
  [(5, inRange 0 1 (byteAt bytes 5)), (6, inRange 0 31 (byteAt bytes 6)), (7, inRange 2 15 (byteAt bytes 7)),
   (14, inRange 1 1000 (areaField bytes 14 2)), (18, inRange 0 1000 (areaField bytes 18 2)),
   (20, inRange 1 600 (areaField bytes 20 2)), (22, inRange 1 255 (byteAt bytes 22)),
   (23, inRange 2 15 (byteAt bytes 23))]

/-- The adopted fields that an uplink row carries. -/
def uplinkRowParams (bytes : List Byte) : UplinkParams where
  peerIdentity := identityAt bytes 8
  peerUplink := bytes.getD 6 0
  conduitMask := BitVec.ofNat 64 (areaField bytes 24 8)
  probeInterval := areaField bytes 14 2
  missLimit := byteAt bytes 7
  restoreCount := byteAt bytes 22
  settleTime := areaField bytes 16 2
  lightDebounce := areaField bytes 18 2
  flapWindow := areaField bytes 20 2
  flapLimit := byteAt bytes 23
  initialMode := if byteAt bytes 5 = 0 then .prove else .trust

/-- A changed uplink row is checked (R152). -/
def checkUplinkRow (bytes : List Byte) : Except Rejection UplinkRow :=
  if !areaCheck bytes then .error (.plain .badCheck)
  else if byteAt bytes 4 = 0 then .ok { kind := .empty, params := UplinkParams.default }
  else if !inRange 1 2 (byteAt bytes 4) then .error (.field 4)
  else match firstBad (uplinkRowFields bytes) with
    | some offset => .error (.field offset)
    | none => .ok { kind := if byteAt bytes 4 = 1 then .enabled else .disabled, params := uplinkRowParams bytes }

/-- The bucket size a code names (§12.3). -/
def bucketSizeOf (code : Nat) : Nat := 64 * 2 ^ code

/-- Whether a group row marks its escape group present (§12.3). -/
def escapePresent (bytes : List Byte) : Bool := (bytes.getD 7 0).getLsbD 1

/-- The range checks of a group row in layout order (R152 check 3). -/
def groupRowFields (groupCount : Nat) (bytes : List Byte) : List (Nat × Bool) :=
  [(5, inRange 1 16 (byteAt bytes 5)), (6, inRange 0 4 (byteAt bytes 6)),
   (8, !escapePresent bytes || decide (areaField bytes 8 2 < groupCount))]
  ++ (List.range (byteAt bytes 5)).flatMap fun k =>
    [(12 + 4 * k, inRange 0 31 (byteAt bytes (12 + 4 * k))),
     (13 + 4 * k, inRange 1 8 (byteAt bytes (13 + 4 * k))),
     (14 + 4 * k, inRange 0 1 (byteAt bytes (14 + 4 * k)))]

/-- The member in slot `k` of a group row. -/
def memberAt (bytes : List Byte) (k : Nat) : Member where
  uplink := Fin.ofNat 32 (byteAt bytes (12 + 4 * k))
  weight := byteAt bytes (13 + 4 * k)
  role := if byteAt bytes (14 + 4 * k) = 0 then .primary else .standby

/-- The fields that a group row carries. -/
def groupRowContents (bytes : List Byte) : GroupFields where
  members := (List.range (byteAt bytes 5)).map (memberAt bytes)
  bucketSize := bucketSizeOf (byteAt bytes 6)
  revertive := (bytes.getD 7 0).getLsbD 0
  escape := if escapePresent bytes then some (areaField bytes 8 2) else none

/-- The first member slot, from slot `k` on, whose uplink stands in an earlier slot, with the first such slot (R152
check 4; which pair is reported where there are several: log 18). -/
def firstDuplicate : List (Fin 32) → List (Fin 32) → Option (Nat × Nat)
  | _, [] => none
  | seen, u :: t =>
    if seen.contains u then some (seen.idxOf u, seen.length) else firstDuplicate (seen ++ [u]) t

/-- What a group row that passes its checks asks for: `none` for an EMPTY row. -/
def checkGroupRow (groupCount group : Nat) (bytes : List Byte) : Except Rejection (Option GroupFields) :=
  if !areaCheck bytes then .error (.plain .badCheck)
  else if byteAt bytes 4 = 0 then .ok none
  else if byteAt bytes 4 ≠ 1 then .error (.field 4)
  else match firstBad (groupRowFields groupCount bytes) with
    | some offset => .error (.field offset)
    | none =>
      match firstDuplicate [] ((groupRowContents bytes).members.map (·.uplink)) with
      | some (i, j) => .error { reason := .dupMember, detail1 := i, detail2 := j }
      | none =>
        if (groupRowContents bytes).escape = some group then .error (.plain .selfEscape)
        else .ok (some (groupRowContents bytes))

/-! ### Order slots (R155; §12.3) -/

/-- The order kind a code names (§12.1). -/
def OrderKind.ofCode : Nat → Option OrderKind
  | 1 => some .drillStart
  | 2 => some .drillEnd
  | 3 => some .release
  | 4 => some .pin
  | 5 => some .unpin
  | 6 => some .conduitClear
  | 7 => some .snapshot
  | _ => none

/-- Whether a slot reads POSTED. -/
def slotPosted (bytes : List Byte) : Bool := byteAt bytes 1 == 1

/-- Whether the order's check holds: the sum of bytes 0 to 31 with the state taken as POSTED (R171). -/
def slotCheck (bytes : List Byte) : Bool := areaCheck ((bytes.take 32).set 1 1)

/-- The order that a slot's bytes hold. -/
def orderOf (slot : Fin 16) (kind : OrderKind) (bytes : List Byte) : OrderInHand where
  slot := slot
  kind := kind
  argA := BitVec.ofNat 16 (areaField bytes 4 2)
  argB := BitVec.ofNat 16 (areaField bytes 6 2)
  buffer := BitVec.ofNat 64 (areaField bytes 8 8)
  length := BitVec.ofNat 32 (areaField bytes 16 4)

/-! ### Link messages (R34; §12.6) -/

/-- A message from the pipeline that R34 does not discard for its own bytes. -/
inductive Arrival
  | hello (version : Byte)
  | lookup (l : Lookup)
  | probeIn (uplink : Byte) (content : ProbeContent)
  deriving DecidableEq, Repr

/-- The probe content at offset 2 of a probe message. -/
def probeContentOf (bytes : List Byte) : ProbeContent where
  identity := identityAt bytes 2
  uplink := bytes.getD 8 0
  seen := (bytes.getD 9 0).getLsbD 0
  sequence := BitVec.ofNat 16 (linkField bytes 10 2)

/-- The message that the bytes spell, or nothing: the frame check fails, the kind is unknown or one the device only
sends, or the length is not the kind's (R34; the length is log 25). -/
def Arrival.parse (bytes : List Byte) : Option Arrival :=
  if !linkCheck bytes then none
  else match byteAt bytes 0, bytes.length with
    | 1, 4 => some (.hello (bytes.getD 1 0))
    | 2, 8 => some (.lookup { tag := (bytes.getD 1 0).setWidth 6
                              group := BitVec.ofNat 16 (linkField bytes 2 2)
                              hash := BitVec.ofNat 16 (linkField bytes 4 2) })
    | 5, 16 => some (.probeIn (bytes.getD 1 0) (probeContentOf bytes))
    | _, _ => none

end Sys2Proof.Machine
end

