-- ==== Sys2Proof/Machine/Formats.lean ====
section
/-! DEFINITION. What the device writes: the layout of the shared area, journal records, order results, the status page,
snapshot entries and link messages (spec 12; spec 09, R143). -/

namespace Sys2Proof.Machine

/-! ### Codes (§12.1) -/

def UplinkState.code : UplinkState → Nat
  | .unconfigured => 0 | .adminDown => 1 | .proving => 2 | .up => 3
  | .dark => 4 | .settling => 5 | .quarantined => 6 | .drill => 7

def DarkCause.code : DarkCause → Nat
  | .lightLost => 1 | .probeSilent => 2 | .farBlind => 3 | .peerMismatch => 4
  | .admin => 5 | .reconfig => 6 | .drill => 7 | .removed => 8

/-- The code of a dark cause, 0 when absent. -/
def causeCode : Option DarkCause → Nat
  | none => 0
  | some c => c.code

def GroupState.code : GroupState → Nat
  | .unplanned => 0 | .building => 1 | .live => 2

def Strandedness.code : Strandedness → Nat
  | .active => 0 | .stranded => 1

def RowKind.code : RowKind → Nat
  | .empty => 0 | .enabled => 1 | .disabled => 2 | .planned => 1

def OrderKind.code : OrderKind → Nat
  | .drillStart => 1 | .drillEnd => 2 | .release => 3 | .pin => 4 | .unpin => 5 | .conduitClear => 6 | .snapshot => 7

/-- The order kind byte of a slot. -/
def OrderKind.byte (k : OrderKind) : Byte := BitVec.ofNat 8 k.code

def OrderReason.code : OrderReason → Nat
  | .none => 0 | .badCheck => 1 | .badKind => 2 | .badArg => 3 | .badState => 4 | .planChanged => 5
  | .runReplaced => 6 | .abandoned => 7

def RowReason.code : RowReason → Nat
  | .torn => 1 | .badCheck => 2 | .badField => 3 | .dupMember => 4 | .selfEscape => 5 | .noBlocks => 6 | .noIndex => 7

def FoundBy.code : FoundBy → Nat
  | .lookup => 0 | .scrubber => 1 | .walkStep => 2 | .settlePass => 3

def WalkClass.code : WalkClass → Nat
  | .urgent => 0 | .restore => 1

def ClearReason.code : ClearReason → Nat
  | .expiry => 0 | .order => 1

def HeadlessReason.code : HeadlessReason → Nat
  | .stop => 1 | .linkReset => 2 | .areaFault => 3

def AnswerOutcome.code : AnswerOutcome → Nat
  | .uplink => 0 | .noRoute => 1 | .notReady => 2 | .badGroup => 3 | .refused => 4

def boolCode (b : Bool) : Nat := if b then 1 else 0

/-- A slot, uplink or pin field, FFh when absent (R170). -/
def slotCode : Option Nat → Nat
  | none => 0xFF
  | some k => k

/-- A group field, FFFFh when absent (R170). -/
def groupCode : Option Nat → Nat
  | none => 0xFFFF
  | some g => g

/-! ### Byte order (R170) -/

/-- `n` bytes of a number, least significant first. -/
def leBytes : Nat → Nat → List Byte
  | 0, _ => []
  | n + 1, v => BitVec.ofNat 8 (v % 256) :: leBytes n (v / 256)

/-- `n` bytes of a number, most significant first. -/
def beBytes (n v : Nat) : List Byte := (leBytes n v).reverse

/-- Reserved bytes, written as 0 (R170). -/
def reserved (n : Nat) : List Byte := List.replicate n 0

/-- A structure filled with reserved bytes up to its size. -/
def padTo (n : Nat) (bytes : List Byte) : List Byte := bytes ++ reserved (n - bytes.length)

/-! ### Journal records (§12.4) -/

/-- The kind byte of a record. -/
def Entry.kind : Entry → Nat
  | .uplinkChange .. => 1 | .walkDone .. => 2 | .groupStranded .. => 3 | .groupRecovered .. => 4
  | .rowAdopted .. => 5 | .rowRejected .. => 6 | .rowSuperseded .. => 7 | .rebuildDone .. => 8
  | .conduitAlarm .. => 9 | .conduitCleared .. => 10 | .scrubFix .. => 11 | .pinLapsed .. => 12
  | .orderEnded .. => 13 | .sweepDone .. => 14 | .resumed .. => 15 | .stopped .. => 16 | .gap .. => 17

/-- The row type byte and, two bytes on, the row number. -/
def RowId.typeCode : RowId → Nat
  | .uplink _ => 0
  | .group _ => 1

def RowId.number : RowId → Nat
  | .uplink u => u.val
  | .group g => g

/-- The bytes of four results. -/
def Results.bytes (r : Results) : List Byte :=
  leBytes 4 r.r1.toNat ++ leBytes 4 r.r2.toNat ++ leBytes 4 r.r3.toNat ++ leBytes 4 r.r4.toNat

/-- A part time, 0 when absent. -/
def timeCode : Option PartTime → Nat
  | none => 0
  | some t => t.toNat

/-- The fields of a record from byte 8 on. -/
def Entry.fields : Entry → List Byte
  | .uplinkChange u p n c => leBytes 1 u.val ++ leBytes 1 p.code ++ leBytes 1 n.code ++ leBytes 1 (causeCode c)
  | .walkDone u cls conv touched moved duration =>
    leBytes 1 u.val ++ leBytes 1 cls.code ++ leBytes 1 conv ++ reserved 1 ++ leBytes 2 touched ++ reserved 2
      ++ leBytes 4 moved ++ leBytes 4 duration.toNat
  | .groupStranded g e gen => leBytes 2 g ++ leBytes 2 (groupCode e) ++ leBytes 4 gen.toNat
  | .groupRecovered g gen ms => leBytes 2 g ++ reserved 2 ++ leBytes 4 gen.toNat ++ leBytes 4 ms
  | .rowAdopted row kind gen size blocks entries =>
    leBytes 1 row.typeCode ++ leBytes 1 kind.code ++ leBytes 2 row.number ++ leBytes 4 gen.toNat ++ leBytes 2 size
      ++ leBytes 1 blocks ++ leBytes 1 entries
  | .rowRejected row reason gen d1 d2 =>
    leBytes 1 row.typeCode ++ leBytes 1 reason.code ++ leBytes 2 row.number ++ leBytes 4 gen.toNat
      ++ leBytes 4 d1.toNat ++ leBytes 4 d2.toNat
  | .rowSuperseded g steps cancelled superseding =>
    leBytes 2 g ++ leBytes 1 steps ++ reserved 1 ++ leBytes 4 cancelled.toNat ++ leBytes 4 superseding.toNat
  | .rebuildDone g size new previous duration blocks recheck =>
    leBytes 2 g ++ leBytes 2 size ++ leBytes 4 new.toNat ++ leBytes 4 previous.toNat ++ leBytes 4 duration.toNat
      ++ leBytes 1 blocks ++ leBytes 1 (boolCode recheck)
  | .conduitAlarm c u cause expiry =>
    leBytes 1 c.val ++ leBytes 1 u.val ++ leBytes 1 cause.code ++ reserved 1 ++ leBytes 4 expiry.toNat
  | .conduitCleared c reason u count ms cause =>
    leBytes 1 c.val ++ leBytes 1 reason.code ++ leBytes 1 u.val ++ leBytes 1 count ++ leBytes 4 ms
      ++ leBytes 1 cause.code
  | .scrubFix g b block offset foundBy previous home current =>
    leBytes 2 g ++ leBytes 2 b ++ leBytes 2 block ++ leBytes 1 offset ++ leBytes 1 foundBy.code
      ++ leBytes 1 previous ++ leBytes 1 home ++ leBytes 1 current
  | .pinLapsed g slot u gen => leBytes 2 g ++ leBytes 1 slot ++ leBytes 1 u.val ++ leBytes 4 gen.toNat
  | .orderEnded slot kind failed reason results =>
    leBytes 1 (slotCode (slot.map (·.val))) ++ [kind] ++ leBytes 1 (if failed then 4 else 3) ++ leBytes 1 reason.code
      ++ results.bytes
  | .sweepDone number start duration handed rejected torn deferred orders converged =>
    leBytes 4 number.toNat ++ leBytes 4 start.toNat ++ leBytes 4 duration.toNat ++ leBytes 2 handed
      ++ leBytes 2 rejected ++ leBytes 2 torn ++ leBytes 2 deferred ++ leBytes 1 orders ++ leBytes 1 (boolCode converged)
  | .resumed reason count ms =>
    leBytes 1 (match reason with | none => 0 | some r => r.code) ++ reserved 1 ++ leBytes 2 count ++ leBytes 4 ms
  | .stopped number => leBytes 4 number.toNat
  | .gap count first last => leBytes 2 count ++ reserved 2 ++ leBytes 4 (timeCode first) ++ leBytes 4 (timeCode last)

/-- Bytes 1 to 31 of a record: the body that the first write carries (R158). -/
def Record.body (r : Record) : List Byte := padTo 31 (reserved 3 ++ leBytes 4 r.time.toNat ++ r.entry.fields)

/-- Byte 0 of a record: the kind that the second write carries (R158). -/
def Record.kindByte (r : Record) : List Byte := leBytes 1 r.entry.kind

/-- The 32 bytes of a journal record. -/
def Record.bytes (r : Record) : List Byte := r.kindByte ++ r.body

/-! ### Order slots and snapshot entries (§12.3) -/

/-- Bytes 32 to 63 of an order slot: reason, completion time and results. -/
def Completion.bytes (c : Completion) : List Byte :=
  padTo 32 (leBytes 1 c.reason.code ++ reserved 3 ++ leBytes 4 c.time.toNat ++ c.results.bytes)

/-- The slot state byte of a completion: DONE or FAILED. -/
def Completion.stateByte (c : Completion) : List Byte := leBytes 1 (if c.failed then 4 else 3)

/-- The slot state byte TAKEN. -/
def takenByte : List Byte := leBytes 1 2

/-- A snapshot entry: home, current, faulted, reserved. -/
def snapshotEntry (b : Bucket) : List Byte :=
  leBytes 1 b.home ++ leBytes 1 b.current ++ leBytes 1 (boolCode b.faulted) ++ reserved 1

/-! ### The status page (R163; §12.5). Its writes, one a part (log 12): the sweep number; the rest of the global part;
32 uplink entries; G group entries; the sweep number again. -/

/-- The last write of the page. -/
def lastPagePart (groupCount : Nat) : Nat := 34 + groupCount

/-- The offset within the page of a write. -/
def pageOffset (groupCount part : Nat) : Nat :=
  if part = 0 then 0
  else if part = 1 then 4
  else if part < 34 then 256 + 32 * (part - 2)
  else if part < lastPagePart groupCount then 1280 + 16 * (part - 34)
  else 252

/-- The global part from byte 4 to byte 251. The page of START_ADOPT is written with run state STARTING (R163). -/
def State.globalPart (s : State) : List Byte :=
  padTo 248 (
    leBytes 1 (if s.area.adoptPage then RunState.starting.code else s.control.runState.code)
    ++ leBytes 1 (boolCode s.area.converged) ++ leBytes 1 s.area.holding.length ++ reserved 1
    ++ leBytes 4 s.now.toNat
    ++ leBytes 2 s.freeBlockCount ++ leBytes 2 s.freeIndexEntries
    ++ leBytes 2 s.area.position ++ leBytes 2 s.area.gapCount
    ++ leBytes 1 s.engine.urgent.length ++ leBytes 1 s.engine.restore.length ++ leBytes 2 s.engine.intake.length)

/-- The entry of one uplink. -/
def State.uplinkEntry (s : State) (u : Fin 32) : List Byte :=
  let r := s.uplink u
  padTo 32 (
    leBytes 1 r.state.code ++ leBytes 1 (causeCode r.darkCause) ++ leBytes 1 r.missCount ++ leBytes 1 r.blindCount
    ++ leBytes 1 r.runCount ++ leBytes 1 r.flaps.length ++ leBytes 1 (boolCode (s.shadowed u)) ++ reserved 1
    ++ leBytes 4 (s.store.loads.get u) ++ leBytes 4 r.generation.toNat)

/-- The entry of one group. -/
def State.groupEntry (s : State) (g : Nat) : List Byte :=
  let r := s.group g
  padTo 16 (
    leBytes 1 r.state.code ++ leBytes 1 r.reported.code ++ leBytes 1 (boolCode r.rebuild.isSome)
    ++ leBytes 1 (slotCode r.pin) ++ leBytes 4 r.adoptedGeneration.toNat
    ++ leBytes 4 (match r.rebuild with | none => 0 | some b => b.generation.toNat))

/-- The bytes of one write of the page, as the values stand when it is written. -/
def State.pagePart (s : State) (part : Nat) : List Byte :=
  if part = 0 then leBytes 4 s.area.sweepNumber.toNat
  else if part = 1 then s.globalPart
  else if part < 34 then s.uplinkEntry (Fin.ofNat 32 (part - 2))
  else if part < lastPagePart s.area.groupCount then s.groupEntry (part - 34)
  else leBytes 4 s.area.sweepNumber.toNat

/-! ### The regions of the shared area (R143) -/

def rowOffset : RowId → Nat
  | .uplink u => 256 + 128 * u.val
  | .group g => 4352 + 128 * g

def slotOffset (groupCount slot : Nat) : Nat := 4352 + 128 * groupCount + 64 * slot

def journalOffset (groupCount position : Nat) : Nat := 5376 + 128 * groupCount + 32 * position

def statusPageOffset (groupCount journalLength : Nat) : Nat := 5376 + 128 * groupCount + 32 * journalLength

/-- The size of the whole area. -/
def areaSize (groupCount journalLength : Nat) : Nat := 6656 + 144 * groupCount + 32 * journalLength

/-! ### Link messages (§12.6) -/

/-- A message closed by its frame check: FFFFh less the sum with the check field 0 (R171). -/
def closeMessage (bytes : List Byte) : List Byte :=
  bytes ++ beBytes 2 (0xFFFF - onesSum (linkHalfWords (bytes ++ [0, 0])))

/-- The 12 bytes of probe content; the reserved bytes and the unassigned flag bits are sent as 0 (log 53). -/
def probeContentBytes (p : ProbeContent) : List Byte :=
  p.identity.toList ++ [p.uplink] ++ leBytes 1 (boolCode p.seen) ++ beBytes 2 p.sequence.toNat ++ reserved 2

/-- The bytes of the message being sent; the reserved bytes and the unassigned flag bits are sent as 0 (log 53). -/
def Sending.bytes : Sending → List Byte
  | .hello => closeMessage [1, Config.linkVersion]
  | .pause => closeMessage [6, 0]
  | .proceed => closeMessage [7, 0]
  | .answer a =>
    closeMessage ([3, a.tag.setWidth 8] ++ leBytes 1 a.outcome.code ++ leBytes 1 a.uplink.val
      ++ leBytes 1 (boolCode a.escaped) ++ reserved 1)
  | .probe p => closeMessage ([4] ++ leBytes 1 p.uplink.val ++ probeContentBytes p.content)

/-- The bytes that the pipeline sends for a message, closed by its frame check. -/
def Arrival.bytes : Arrival → List Byte
  | .hello v => closeMessage [1, v]
  | .lookup l => closeMessage ([2, l.tag.setWidth 8] ++ beBytes 2 l.group.toNat ++ beBytes 2 l.hash.toNat)
  | .probeIn u c => closeMessage ([5, u] ++ probeContentBytes c)

end Sys2Proof.Machine
end

