-- ==== Sys2Proof/Machine/Area.lean ====
section
/-! DEFINITION. The Area Interface's accesses to the shared area: what each reads or writes, how they are granted, and
the completion of orders (spec 09, R145, R156). -/

namespace Sys2Proof.Machine

/-- The record the journal writer is writing: the STOPPED record once its trial has begun (R166), else the head of the
holding queue (R158). -/
def State.journalRecord (s : State) : Option Record :=
  match s.area.stopTry with
  | some t => if t.begun then some t.record else s.area.holding.head?
  | none => s.area.holding.head?

/-- The completion being written to a slot. -/
def State.completion (s : State) (k : Fin 16) : Option Completion :=
  s.area.completions.find? fun c => c.slot == k

/-- The offset from the base of what an access reads or writes (R143). A snapshot entry goes to its own address. -/
def State.accessOffset (s : State) : AreaAccess → Nat
  | .headerRead => 0
  | .rowRead row => rowOffset row
  | .slotRead k => slotOffset s.area.groupCount k.val
  | .takenWrite k => slotOffset s.area.groupCount k.val + 1
  | .slotResult k => slotOffset s.area.groupCount k.val + 32
  | .slotState k => slotOffset s.area.groupCount k.val + 1
  | .journalKindRead => journalOffset s.area.groupCount s.area.position
  | .journalBody => journalOffset s.area.groupCount s.area.position + 1
  | .journalKind => journalOffset s.area.groupCount s.area.position
  | .pageWrite part =>
    statusPageOffset s.area.groupCount s.area.journalLength + pageOffset s.area.groupCount part
  | .snapshotEntry _ _ _ _ => 0

/-- The address of an access. -/
def State.accessAddress (s : State) (a : AreaAccess) : BitVec 64 :=
  match a with
  | .snapshotEntry _ address _ _ => address
  | _ => s.area.base + BitVec.ofNat 64 (s.accessOffset a)

/-- The bytes an access writes, as they stand at its grant; none for a read. -/
def State.accessData (s : State) : AreaAccess → List Byte
  | .headerRead => []
  | .rowRead _ => []
  | .slotRead _ => []
  | .takenWrite _ => takenByte
  | .slotResult k => match s.completion k with | some c => c.bytes | none => []
  | .slotState k => match s.completion k with | some c => c.stateByte | none => []
  | .journalKindRead => []
  | .journalBody => match s.journalRecord with | some r => r.body | none => []
  | .journalKind => match s.journalRecord with | some r => r.kindByte | none => []
  | .pageWrite part => s.pagePart part
  | .snapshotEntry _ _ entry _ => entry

/-- An access begins. -/
def State.launch (s : State) (a : AreaAccess) : Flight where
  access := a
  address := s.accessAddress a
  data := s.accessData a
  granted := s.now

/-- While no access is in progress, the waiting access that was requested first is granted (R145). -/
def State.grantArea (s : State) : State :=
  match s.area.flight, s.area.waiting with
  | none, a :: rest => { s with area := { s.area with flight := some (s.launch a), waiting := rest } }
  | _, _ => s

/-- The end of an event for the Area Interface: the journal writer takes a record if it can, the accesses requested in
the event join the waiting ones, and the next access is granted if none is in progress (R145, R158). -/
def State.settleArea (s : State) : State := s.wakeWriter.queueRequests.grantArea

/-- The access in progress. -/
def State.inFlight (s : State) : Option AreaAccess := s.area.flight.map (·.access)

/-- The access in progress has ended. -/
def State.endFlight (s : State) : State := { s with area := { s.area with flight := none } }

/-- The slot hold of slot `k` becomes absent. -/
def State.dropHold (s : State) (k : Fin 16) : State :=
  { s with area := { s.area with slotHolds := s.area.slotHolds.set k none } }

/-- The ORDER_ENDED record of a completion that is not written to its slot. -/
def State.reportEnded (s : State) (slot : Option (Fin 16)) (kind : Byte) (failed : Bool) (reason : OrderReason)
    (results : Results) : State :=
  s.produce (.orderEnded slot kind failed reason results)

/-- The two writes of a completion begin: first its result fields (R156). -/
def State.beginCompletion (s : State) (c : Completion) : State :=
  State.request { s with area := { s.area with completions := s.area.completions ++ [c] } } (.slotResult c.slot)

/-- Whether the slot of an order is still held for it. -/
def State.held (s : State) (slot : Option (Fin 16)) : Option (Fin 16) :=
  slot.filter fun k => (s.area.slotHolds.get k).isSome

/-- An order completes (R156): written to its slot when the run state is RUNNING and the slot hold is present, and
otherwise reported by ORDER_ENDED, the slot absent when the hold was forgotten. -/
def State.completeOrder (s : State) (slot : Option (Fin 16)) (kind : OrderKind) (failed : Bool) (reason : OrderReason)
    (results : Results) : State :=
  match s.held slot with
  | some k =>
    if s.control.runState = .running then
      s.beginCompletion { slot := k, kind := kind.byte, failed, reason, results, time := s.now }
    else (s.dropHold k).reportEnded (some k) kind.byte failed reason results
  | none => s.reportEnded none kind.byte failed reason results

/-- A completion that the Area Interface makes itself for BAD_CHECK or BAD_KIND, without a slot hold (R156). -/
def State.completeUntaken (s : State) (k : Fin 16) (kind : Byte) (reason : OrderReason) : State :=
  if s.control.runState = .running then
    s.beginCompletion { slot := k, kind, failed := true, reason, results := Results.zero, time := s.now }
  else s.reportEnded (some k) kind true reason Results.zero

end Sys2Proof.Machine
end

