-- ==== Sys2Proof/Machine/Group.lean ====
section
/-! DEFINITION. The Group Table: rosters, bucket settling, strandedness, pins, recheck flags, and the commands PIN and
UNPIN (spec 04). Rosters and settling take the uplinks that are UP and shadowed as functions, so that a lookup uses
them with its taking view and the Walk Engine with the states as they stand. -/

namespace Sys2Proof.Machine

/-! ### Rosters (R57, R58) -/

/-- The members of a list with their slots. -/
def GroupFields.slots (f : GroupFields) : List (Member × Nat) := f.members.zipIdx

/-- Slots in order, each repeated as many times as its weight. -/
def expand (ms : List (Member × Nat)) : List Nat := ms.flatMap fun m => List.replicate m.1.weight m.2

/-- The home roster: PRIMARY members, or STANDBY members where there is no PRIMARY one (R57). -/
def GroupFields.homeRoster (f : GroupFields) : List Nat :=
  let primaries := f.slots.filter fun m => decide (m.1.role = .primary)
  if primaries.isEmpty then expand (f.slots.filter fun m => decide (m.1.role = .standby)) else expand primaries

/-- The home of bucket `b` (R57). -/
def GroupFields.homeOf (f : GroupFields) (b : Nat) : Nat := f.homeRoster.getD (b % f.homeRoster.length) 0

/-- The tier of a member that is UP (R58). -/
def tierOf (shadowed : Fin 32 → Bool) (m : Member) : Nat :=
  match m.role with
  | .primary => if shadowed m.uplink then 2 else 1
  | .standby => if shadowed m.uplink then 4 else 3

/-- The UP members of one tier, in slot order. -/
def GroupFields.tier (f : GroupFields) (up shadowed : Fin 32 → Bool) (t : Nat) : List (Member × Nat) :=
  f.slots.filter fun m => up m.1.uplink && tierOf shadowed m.1 == t

/-- The live roster: the first non-empty tier (R58). -/
def GroupFields.liveRoster (f : GroupFields) (up shadowed : Fin 32 → Bool) : List Nat :=
  match [1, 2, 3, 4].find? fun t => !(f.tier up shadowed t).isEmpty with
  | some t => expand (f.tier up shadowed t)
  | none => []

/-- Whether none of the members is UP (R60). -/
def GroupFields.isStranded (f : GroupFields) (up : Fin 32 → Bool) : Bool := f.members.all fun m => !up m.uplink

/-- Whether the member in a slot is UP (R55). -/
def GroupFields.slotUp (f : GroupFields) (up : Fin 32 → Bool) (slot : Nat) : Bool :=
  match f.members[slot]? with
  | some m => up m.uplink
  | none => false

/-- Whether some PRIMARY member is UP. -/
def GroupFields.primaryUp (f : GroupFields) (up : Fin 32 → Bool) : Bool :=
  f.members.any fun m => decide (m.role = .primary) && up m.uplink

/-- Whether the member in a slot is PRIMARY. -/
def GroupFields.slotPrimary (f : GroupFields) (slot : Nat) : Bool :=
  match f.members[slot]? with
  | some m => decide (m.role = .primary)
  | none => false

/-- The uplink of the member in a slot. -/
def GroupFields.uplinkOf (f : GroupFields) (slot : Nat) : Option (Fin 32) := (f.members[slot]?).map (·.uplink)

/-- Settling bucket `b` with stored home `h` and current member `c`: the first case of R61 that applies. -/
def GroupFields.settle (f : GroupFields) (up shadowed : Fin 32 → Bool) (b h c : Nat) : Option Nat :=
  if f.revertive && f.slotUp up h then some h
  else if f.slotUp up c && (f.slotPrimary c || !f.primaryUp up) then some c
  else if f.isStranded up then none
  else
    let roster := f.liveRoster up shadowed
    some (roster.getD (b % roster.length) 0)

/-- Settling a faulted bucket: as if its current member were its home, the home computed (R62). -/
def GroupFields.settleFaulted (f : GroupFields) (up shadowed : Fin 32 → Bool) (b : Nat) : Option Nat :=
  f.settle up shadowed b (f.homeOf b) (f.homeOf b)

/-- What a walk step or settle pass writes into a bucket it has read, as home, current member and whether a fault was
found; `none` when it writes nothing (R63, R84). -/
def GroupFields.rewrite (f : GroupFields) (up shadowed : Fin 32 → Bool) (b : Nat) (bucket : Bucket) :
    Option (Nat × Nat × Bool) :=
  if bucket.faulted then
    some (f.homeOf b, (f.settleFaulted up shadowed b).getD (f.homeOf b), true)
  else
    match f.settle up shadowed b bucket.home bucket.current with
    | some m => if m = bucket.current then none else some (bucket.home, m, false)
    | none => none

/-- What a block step writes into bucket `b`: its home, and the settled member or the home (R63, R134). -/
def GroupFields.stagedBucket (f : GroupFields) (up shadowed : Fin 32 → Bool) (b : Nat) : Bucket where
  home := f.homeOf b
  current := (f.settle up shadowed b (f.homeOf b) (f.homeOf b)).getD (f.homeOf b)
  faulted := false

/-! ### The states as they stand -/

/-- The uplinks that are UP now. -/
def State.isUp (s : State) (u : Fin 32) : Bool := decide ((s.uplink u).state = .up)

/-- The number of blocks of a run of these fields (R77). -/
def GroupFields.blockCount (f : GroupFields) : Nat := f.bucketSize / Config.blockSize

/-- The live run of a group. -/
def State.liveRun (s : State) (g : Nat) : Option LiveRun := (s.group g).live

/-- Whether a list of members contains an uplink. -/
def hasUplink (ms : List Member) (u : Fin 32) : Bool := ms.any fun m => decide (m.uplink = u)

/-! ### Recheck flags (R113, R136) -/

/-- The rebuild with its recheck flag set. -/
def Rebuild.mark (b : Rebuild) : Rebuild := { b with recheck := true }

/-- The recheck flag of a pending rebuild of the group, if any, is set. -/
def State.markRebuild (s : State) (g : Nat) : State :=
  match (s.group g).rebuild with
  | some b => s.setGroup g { s.group g with rebuild := some b.mark }
  | none => s

/-- A group record with its recheck flag set when a staged member's uplink is among those handed over. -/
def GroupRecord.recheck (r : GroupRecord) (p : Fin 32 → Bool) : GroupRecord :=
  match r.rebuild with
  | some b => if b.staged.members.any (fun m => p m.uplink) then { r with rebuild := some b.mark } else r
  | none => r

/-- The recheck flag of every pending rebuild with a staged member among the uplinks handed over is set (R113). -/
def State.recheckUplinks (s : State) (p : Fin 32 → Bool) : State :=
  { s with groups := s.groups.map fun e => (e.1, e.2.recheck p) }

/-! ### Reporting strandedness (R65) -/

/-- A group's present strandedness is compared with its reported strandedness (R65). -/
def State.compareStrandedness (s : State) (g : Nat) : State :=
  let r := s.group g
  match r.live with
  | none => s
  | some run =>
    match r.reported, run.fields.isStranded s.isUp with
    | .active, true =>
      ((s.setGroup g { r with reported := .stranded, strandedSince := some s.now }).produce
        (.groupStranded g run.fields.escape r.adoptedGeneration)).setCause .urgent
    | .stranded, false =>
      (s.setGroup g { r with reported := .active, strandedSince := none }).produce
        (.groupRecovered g r.adoptedGeneration (spanMs (r.strandedSince.getD s.now) s.now))
    | _, _ => s

/-! ### Pins (R69 to R71) -/

/-- A pin as a result field: the slot, or FFh when absent (R170). -/
def pinResult (p : Option Nat) : BitVec 32 := BitVec.ofNat 32 (slotCode p)

/-- PIN taken by the Group Table (R69). -/
def State.takePin (s : State) (o : OrderInHand) : State :=
  let g := o.argA.toNat
  let r := s.group g
  let fail (reason : OrderReason) := s.completeOrder (some o.slot) .pin true reason Results.zero
  if s.area.groupCount ≤ g ∨ 15 < o.argB.toNat then fail .badArg
  else match r.live with
    | none => fail .badState
    | some run =>
      match run.fields.uplinkOf o.argB.toNat with
      | none => fail .badArg
      | some u =>
        (s.setGroup g { r with pin := some o.argB.toNat }).completeOrder (some o.slot) .pin false .none
          { Results.zero with r1 := pinResult r.pin, r2 := BitVec.ofNat 32 u.val }

/-- UNPIN taken by the Group Table (R70). -/
def State.takeUnpin (s : State) (o : OrderInHand) : State :=
  let g := o.argA.toNat
  let r := s.group g
  let fail (reason : OrderReason) := s.completeOrder (some o.slot) .unpin true reason Results.zero
  if s.area.groupCount ≤ g then fail .badArg
  else match r.live with
    | none => fail .badState
    | some _ =>
      (s.setGroup g { r with pin := none }).completeOrder (some o.slot) .unpin false .none
        { Results.zero with r1 := pinResult r.pin }

/-- A flip checks the group's pin against the new live fields: kept when the slot holds the same uplink as before,
lapsed with PIN_LAPSED otherwise (R71). `old` and `new` are the member lists before and after. -/
def State.checkPin (s : State) (g : Nat) (old new : GroupFields) : State :=
  match (s.group g).pin with
  | none => s
  | some slot =>
    match old.uplinkOf slot with
    | none => s.setGroup g { s.group g with pin := none }
    | some u =>
      if new.uplinkOf slot = some u then s
      else (s.setGroup g { s.group g with pin := none }).produce
        (.pinLapsed g slot u (s.group g).adoptedGeneration)

end Sys2Proof.Machine
end

