-- ==== Sys2Proof/Machine/Store.lean ====
section
/-! DEFINITION. The Bucket Store: reservations and the free pool, load counts, the fix queue, bucket writes, the
scrubber, snapshots, and the commands PARITY_FAULT, SCRUB_TIMER_EXPIRY, SCRUB_READ_DONE, SCRUB_WRITE_DONE,
SNAPSHOT_READ_DONE and SNAPSHOT_ENTRY_WRITTEN (spec 05). The arbiter is in Arbiter.lean. -/

namespace Sys2Proof.Machine

/-! ### The free pool (R76, R78, R79) -/

/-- The `n` lowest-numbered free blocks from block `k` on, looking at `fuel` blocks. -/
def lowestFree (owners : List (Nat × Owner)) : Nat → Nat → Nat → List Nat
  | 0, _, _ => []
  | _ + 1, _, 0 => []
  | fuel + 1, k, n + 1 =>
    if Sparse.get Owner.free owners k = .free then k :: lowestFree owners fuel (k + 1) n
    else lowestFree owners fuel (k + 1) (n + 1)

/-- The owner entries of a block map set, position by position. -/
def State.setOwners (s : State) (entry : Nat → Owner) : List Nat → Nat → State
  | [], _ => s
  | k :: t, position => State.setOwners (s.setOwner k (entry position)) entry t (position + 1)

/-- A reservation of `n` blocks for a group: the block map, or short (R78). -/
def State.reserveBlocks (s : State) (g n : Nat) : Option (List Nat × State) :=
  if n ≤ s.freeBlockCount then
    let blocks := lowestFree s.store.owners Config.blockCount 0 n
    some (blocks, s.setOwners (Owner.reserved g) blocks 0)
  else none

/-- Blocks return to the free pool (R79). -/
def State.freeBlocks (s : State) (blocks : List Nat) : State := s.setOwners (fun _ => .free) blocks 0

/-! ### Load counts (R81) -/

/-- The uplinks that the last-written current members of a run name, one for each bucket. -/
def runUplinks (memory : List (Nat × Bucket)) (fields : GroupFields) (blocks : List Nat) : List (Fin 32) :=
  blocks.flatMap fun k => (List.range Config.blockSize).filterMap fun o =>
    fields.uplinkOf (Memory.read memory (bucketIndex k o)).current

/-- Each uplink listed counts one more. -/
def addLoads (loads : Vector Nat 32) (us : List (Fin 32)) : Vector Nat 32 :=
  us.foldl (fun l (u : Fin 32) => l.set u (l.get u + 1)) loads

/-- Each uplink listed counts one less. -/
def subLoads (loads : Vector Nat 32) (us : List (Fin 32)) : Vector Nat 32 :=
  us.foldl (fun l (u : Fin 32) => l.set u (l.get u - 1)) loads

/-- The contributions of a live run are added (R80). -/
def State.countRun (s : State) (fields : GroupFields) (blocks : List Nat) : State :=
  { s with store := { s.store with loads := addLoads s.store.loads (runUplinks s.store.memory fields blocks) } }

/-- The contributions of a live run are subtracted (R79, R81). -/
def State.uncountRun (s : State) (run : LiveRun) : State :=
  { s with store := { s.store with loads := subLoads s.store.loads (runUplinks s.store.memory run.fields run.blocks) } }

/-- A bucket of a live run changes its current member: one uplink counts less and one more (R81). -/
def State.moveLoad (s : State) (fields : GroupFields) (old new : Nat) : State :=
  if old = new then s
  else { s with store := { s.store with
    loads := addLoads (subLoads s.store.loads (fields.uplinkOf old).toList) (fields.uplinkOf new).toList } }

/-! ### Writes of a live run (R75, R81, R87) -/

/-- The block that holds bucket `b` of a block map (R77). -/
def blockOf (blocks : List Nat) (b : Nat) : Nat := blocks.getD (b / Config.blockSize) 0

/-- The offset of bucket `b` in its block (R77). -/
def offsetOf (b : Nat) : Nat := b % Config.blockSize

/-- Bucket `b` of the live run of a group is written: both values, the faulted mark cleared, the load counts following,
and SCRUB_FIX produced when the writer had found it faulted (`finder`). -/
def State.writeLiveBucket (s : State) (g b home current : Nat) (finder : Option FoundBy) : State :=
  match s.liveRun g with
  | none => s
  | some run =>
    let k := blockOf run.blocks b
    let o := offsetOf b
    let old := s.bucket k o
    let written := (s.setBucket k o { home, current, faulted := false }).moveLoad run.fields old.current current
    match finder with
    | none => written
    | some f => written.produce (.scrubFix g b k o f old.current home current)

/-! ### The fix queue (R85) -/

/-- A fix is offered: absorbed, queued with its intake item, or dropped (R85). -/
def State.offerFix (s : State) (item : FixItem) : State :=
  if s.store.fixQueue.any fun i => i.group == item.group && i.bucket == item.bucket then s
  else if s.store.fixQueue.length < Config.fixCapacity then
    { s with
      store := { s.store with fixQueue := s.store.fixQueue ++ [item] }
      engine := { s.engine with intake := s.engine.intake ++ [.fix item.group item.bucket] } }
  else s

/-! ### The access in progress -/

/-- The access in progress has ended. -/
def State.endAccess (s : State) : State := { s with store := { s.store with access := none } }

/-- The result of the access in progress is to be discarded when its requester is one of those given; the access itself
runs to its end (R32, R82). -/
def State.discardAccess (s : State) (p : Requester → Bool) : State :=
  { s with store := { s.store with
    access := s.store.access.map fun a => if p a.requester then { a with wanted := false } else a } }

/-- The accesses of the Walk Engine. -/
def Requester.isEngine : Requester → Bool
  | .walkStep => true
  | .settlePass => true
  | .blockStep => true
  | .fix => true
  | _ => false

/-- The access in progress when it is one of requester `r`. -/
def State.accessOf (s : State) (r : Requester) : Option BucketAccess := s.store.access.filter fun a => a.requester == r

/-! ### PARITY_FAULT (R83) -/

/-- A parity fault marks one bucket and changes nothing else. -/
def execParityFault (block : Fin 2048) (offset : Fin 64) (s : State) : Host.Outcome State Fault Refusal :=
  .next (s.setBucket block.val offset.val { s.bucket block.val offset.val with faulted := true })

/-! ### The scrubber (R88, R89) -/

/-- The state with the burst `b`. -/
def State.setBurst (s : State) (b : Option Burst) : State := { s with store := { s.store with burst := b } }

/-- The cursor after a block (R88). -/
def nextCursor (cursor : Nat) : Nat := (cursor + 1) % Config.blockCount

/-- The scrubber goes on to the next bucket: of the block, of the next block, or none when the burst ends (R88). -/
def State.nextScrub (s : State) (b : Burst) : State :=
  if b.offset + 1 < Config.blockSize then
    s.setBurst (some { b with offset := b.offset + 1, phase := .wantRead })
  else
    let s := { s with store := { s.store with scrubCursor := nextCursor s.store.scrubCursor } }
    if 1 < b.blocksLeft then s.setBurst (some { blocksLeft := b.blocksLeft - 1, offset := 0, phase := .wantRead })
    else s.setBurst none

/-- SCRUB_TIMER_EXPIRY: the timer starts again, and a burst begins unless one is in progress (R88). -/
def execScrubTimerExpiry (s : State) : Host.Outcome State Fault Refusal :=
  if s.store.scrubTimer = s.now then
    let s := { s with store := { s.store with scrubTimer := after s.now (1000 * s.store.scrubInterval) } }
    if s.store.burst.isSome then .next s
    else .next (s.setBurst (some { blocksLeft := s.store.scrubBurst, offset := 0, phase := .wantRead }))
  else .next s

/-- What follows from the scrubber's read of a faulted bucket, by the owner of its block at the read (R89). -/
def State.scrubFault (s : State) (b : Burst) (owner : Owner) : State :=
  match owner with
  | .run g position =>
    (s.offerFix { group := g, bucket := 64 * position + b.offset, block := s.store.scrubCursor, offset := b.offset,
                  foundBy := .scrubber }).nextScrub b
  | .reserved g position =>
    let held := (s.group g).rebuild.any fun r => r.blocks[position]? == some s.store.scrubCursor
    (if held then s.markRebuild g else s).nextScrub b
  | .free => s.setBurst (some { b with phase := .wantWrite })

/-- SCRUB_READ_DONE (R89). -/
def execScrubReadDone (s : State) : Host.Outcome State Fault Refusal :=
  match s.accessOf .scrubRead with
  | none => .next s
  | some a =>
    match s.store.burst with
    | none => .next s.endAccess
    | some b =>
      if !a.wanted then .next s.endAccess
      else if a.bucket.faulted then .next (s.endAccess.scrubFault b a.owner)
      else .next (s.endAccess.nextScrub b)

/-- SCRUB_WRITE_DONE (R89). -/
def execScrubWriteDone (s : State) : Host.Outcome State Fault Refusal :=
  match s.accessOf .scrubWrite with
  | none => .next s
  | some a =>
    match s.store.burst with
    | none => .next s.endAccess
    | some b => if a.wanted then .next (s.endAccess.nextScrub b) else .next s.endAccess

/-! ### Snapshots (R90 to R92) -/

/-- The state with the snapshot record `r`. -/
def State.setSnapshot (s : State) (r : Option SnapshotRecord) : State :=
  { s with store := { s.store with snapshot := r } }

/-- The buckets of a snapshot's run. -/
def SnapshotRecord.size (r : SnapshotRecord) : Nat := Config.blockSize * r.blocks.length

/-- SNAPSHOT taken by the Bucket Store (R90). -/
def State.takeSnapshot (s : State) (o : OrderInHand) : State :=
  let g := o.argA.toNat
  let fail (reason : OrderReason) := s.completeOrder (some o.slot) .snapshot true reason Results.zero
  if s.area.groupCount ≤ g then fail .badArg
  else if o.buffer.toNat % 4 ≠ 0 then fail .badArg
  else match s.liveRun g with
    | none => fail .badState
    | some run =>
      if o.length.toNat < 4 * run.fields.bucketSize then fail .badArg
      else if s.store.snapshot.isSome then fail .badState
      else s.setSnapshot (some
        { slot := o.slot, group := g, blocks := run.blocks, generation := (s.group g).adoptedGeneration
          buffer := o.buffer, next := 0, faulted := 0, start := s.now, reading := false })

/-- SNAPSHOT_READ_DONE: one entry is handed to the Area Interface (R91). -/
def execSnapshotReadDone (s : State) : Host.Outcome State Fault Refusal :=
  match s.accessOf .snapshot with
  | none => .next s
  | some a =>
    match s.store.snapshot with
    | none => .next s.endAccess
    | some r =>
      if !a.wanted then .next s.endAccess
      else
        let r' := { r with next := r.next + 1, reading := false,
                           faulted := if a.bucket.faulted then r.faulted + 1 else r.faulted }
        .next ((s.endAccess.setSnapshot (some r')).request
          (.snapshotEntry r.slot (r.buffer + BitVec.ofNat 64 (4 * r.next)) (snapshotEntry a.bucket)
            (r.next + 1 == r.size))).settleArea

/-- The results of a completed snapshot (R91). -/
def snapshotResults (r : SnapshotRecord) (now : PartTime) : Results where
  r1 := BitVec.ofNat 32 r.size
  r2 := BitVec.ofNat 32 r.faulted
  r3 := r.generation
  r4 := now - r.start

/-- SNAPSHOT_ENTRY_WRITTEN: after the last entry the SNAPSHOT order completes DONE (R91). -/
def execSnapshotEntryWritten (s : State) : Host.Outcome State Fault Refusal :=
  match s.inFlight with
  | some (.snapshotEntry slot _ _ last) =>
    match s.store.snapshot with
    | none => .next s.endFlight.settleArea
    | some r =>
      if last && r.slot == slot && r.next == r.size then
        .next ((s.endFlight.completeOrder (some r.slot) .snapshot false .none (snapshotResults r s.now)).setSnapshot
          none).settleArea
      else .next s.endFlight.settleArea
  | _ => .next s

/-- A snapshot of the group ends with RUN_REPLACED (R91, R131, R137). Entries already handed over are still written (log
17); a read granted and not completed is discarded and its bucket not counted (log 42). -/
def State.replaceSnapshot (s : State) (g : Nat) : State :=
  match s.store.snapshot with
  | none => s
  | some r =>
    if r.group = g then
      ((s.completeOrder (some r.slot) .snapshot true .runReplaced
        { Results.zero with r1 := BitVec.ofNat 32 r.next }).setSnapshot none).discardAccess (· == .snapshot)
    else s

/-- Whether an area access writes a snapshot entry. -/
def AreaAccess.isSnapshot : AreaAccess → Bool
  | .snapshotEntry _ _ _ _ => true
  | _ => false

/-- The area accesses that `p` names are abandoned, in progress or waiting (R150, R167). -/
def State.dropAccesses (s : State) (p : AreaAccess → Bool) : State :=
  { s with area := { s.area with
      flight := s.area.flight.filter fun f => !p f.access
      waiting := s.area.waiting.filter fun a => !p a
      requested := s.area.requested.filter fun a => !p a } }

/-- A snapshot in progress is abandoned with an ORDER_ENDED record carrying the buckets copied so far (R92). The model's
own choice: an entry handed to the Area Interface and not written yet counts among them, although its write is dropped
(log 54). -/
def State.abandonSnapshot (s : State) : State :=
  match s.store.snapshot with
  | none => s
  | some r =>
    ((((s.setSnapshot none).discardAccess (· == .snapshot)).dropAccesses AreaAccess.isSnapshot).dropHold r.slot).reportEnded
      (some r.slot) OrderKind.snapshot.byte true .abandoned { Results.zero with r1 := BitVec.ofNat 32 r.next }

end Sys2Proof.Machine
end

