-- ==== Sys2Proof/Machine/Conduit.lean ====
section
/-! DEFINITION. The Conduit Table: raises, clears, CONDUIT_EXPIRY and CONDUIT_CLEAR (spec 03). -/

namespace Sys2Proof.Machine

/-- The hand-over of a conduit to the Walk Engine: recheck flags for the uplinks whose adopted mask includes it
(R48). -/
def State.handConduit (s : State) (c : Fin 64) : State :=
  s.recheckUplinks fun u => (s.uplink u).params.conduitMask.getLsbD c.val

/-- One conduit is raised: from CLEAR with a CONDUIT_ALARM record and URGENT, in RAISED its alarm is extended (R44). -/
def State.raiseConduit (s : State) (u : Fin 32) (cause : DarkCause) (c : Fin 64) : State :=
  let expiry := after s.now (1000 * s.conduits.hold)
  match s.alarm c with
  | none =>
    (((s.setAlarm c (some { expiry, firstRaiser := u, cause, raisedAt := s.now, raiseCount := 1 })).produce
      (.conduitAlarm c u cause expiry)).handConduit c).setCause .urgent
  | some a =>
    s.setAlarm c (some { a with expiry := laterOf s.now a.expiry expiry, raiseCount := saturate 255 a.raiseCount })

/-- A mask handed over by the Uplink Monitor raises each conduit in it, in ascending order (R44). -/
def State.raiseMask (s : State) (u : Fin 32) (cause : DarkCause) (mask : BitVec 64) : State :=
  ((List.finRange 64).filter fun c => mask.getLsbD c.val).foldl (fun s c => s.raiseConduit u cause c) s

/-- A RAISED conduit clears (R45, R46). -/
def State.clearConduit (s : State) (c : Fin 64) (a : Alarm) (reason : ClearReason) : State :=
  ((s.setAlarm c none).produce
    (.conduitCleared c reason a.firstRaiser a.raiseCount (spanMs a.raisedAt s.now) a.cause)).handConduit c

/-- CONDUIT_EXPIRY: a RAISED conduit whose expiry part time has reached clears with reason EXPIRY (R45). -/
def execConduitExpiry (c : Fin 64) (s : State) : Host.Outcome State Fault Refusal :=
  match s.alarm c with
  | none => .next s
  | some a => if a.expiry = s.now then .next (s.clearConduit c a .expiry).settleArea else .next s

/-- CONDUIT_CLEAR taken by the Conduit Table (R46). The model's own choice: CONDUIT_CLEARED stands before the
ORDER_ENDED of an order that is not written to its slot (log 56). -/
def State.takeConduitClear (s : State) (o : OrderInHand) : State :=
  if h : o.argA.toNat < 64 then
    let c : Fin 64 := ⟨o.argA.toNat, h⟩
    match s.alarm c with
    | none => s.completeOrder (some o.slot) .conduitClear false .none Results.zero
    | some a =>
      (s.clearConduit c a .order).completeOrder (some o.slot) .conduitClear false .none
        { Results.zero with r1 := 1, r2 := BitVec.ofNat 32 a.raiseCount }
  else s.completeOrder (some o.slot) .conduitClear true .badArg Results.zero

end Sys2Proof.Machine
end

