-- ==== Sys2Proof/Machine/Uplink.lean ====
section
/-! DEFINITION. The Uplink Monitor: changes of uplink state, light, probes, windows, flaps, drills and row adoption,
and the commands DARK_SENSE_LINE_CHANGE, LIGHT_TIMER_EXPIRY, WINDOW_END, PROBE_IN, SETTLE_EXPIRY, FLAP_ENTRY_AGED and
DRILL_END_TIME (spec 01). -/

namespace Sys2Proof.Machine

/-! ### Walks handed over (R112) -/

/-- The walk of an uplink, in either class. -/
def State.walkOf (s : State) (u : Fin 32) : Option Walk :=
  (s.engine.urgent ++ s.engine.restore).find? fun w => w.uplink == u

/-- The queue without the walk of an uplink. -/
def withoutWalk (u : Fin 32) (q : List Walk) : List Walk := q.filter fun w => !(w.uplink == u)

/-- A walk joins the tail of its class. -/
def WalkEngine.append (e : WalkEngine) (cls : WalkClass) (w : Walk) : WalkEngine :=
  match cls with
  | .urgent => { e with urgent := e.urgent ++ [w] }
  | .restore => { e with restore := e.restore ++ [w] }

/-- The unit in progress, marked as converted when it is a step of the walk of uplink `u` (R117). -/
def Work.convert (u : Fin 32) : Work → Work
  | .walkStep v g b conv phase => .walkStep v g b (conv || v == u) phase
  | .settlePass g b phase => .settlePass g b phase
  | .blockStep g p o writing => .blockStep g p o writing
  | .fix item phase => .fix item phase

/-- A walk created for an uplink (R112). -/
def Walk.create (u : Fin 32) (now : PartTime) : Walk where
  uplink := u
  cursor := none
  groupsTouched := 0
  bucketsMoved := 0
  conversions := 0
  start := now

/-- A walk converted: its cursor absent and conversions one more (R112). -/
def Walk.restart (w : Walk) : Walk := { w with cursor := none, conversions := saturate 255 w.conversions }

/-- The engine without the walk of an uplink in either class, a step of that walk in progress marked as converted. -/
def WalkEngine.withdraw (e : WalkEngine) (u : Fin 32) : WalkEngine where
  index := e.index
  entriesInUse := e.entriesInUse
  entriesReserved := e.entriesReserved
  urgent := withoutWalk u e.urgent
  restore := withoutWalk u e.restore
  intake := e.intake
  tally := e.tally
  weight := e.weight
  work := e.work.map (Work.convert u)

/-- A change of an uplink into or out of UP creates its walk, or converts the one it has (R112). -/
def State.handWalk (s : State) (u : Fin 32) (cls : WalkClass) : State :=
  match s.walkOf u with
  | none => { s with engine := s.engine.append cls (Walk.create u s.now) }
  | some w => { s with engine := (s.engine.withdraw u).append cls w.restart }

/-! ### Changes of uplink state (R10) -/

/-- The walk and the cause that a change of state brings: leaving UP an urgent walk and URGENT, entering UP a restore
walk (R10). -/
def State.handChange (s : State) (u : Fin 32) (previous new : UplinkState) : State :=
  if previous = .up ∧ new ≠ .up then (s.handWalk u .urgent).setCause .urgent
  else if previous ≠ .up ∧ new = .up then s.handWalk u .restore
  else s

/-- The dark cause after a change: absent in UP (R10). -/
def causeAfter (new : UplinkState) (cause : Option DarkCause) : Option DarkCause :=
  if new = .up then none else cause

/-- A change of an uplink's state with its common effects (R10): dark cause, UPLINK_CHANGE record, recheck flags (R113),
walk and URGENT. -/
def State.changeState (s : State) (u : Fin 32) (new : UplinkState) (cause : Option DarkCause) : State :=
  let previous := (s.uplink u).state
  ((((s.modifyUplink u fun r => { r with state := new, darkCause := causeAfter new cause }).produce
    (.uplinkChange u previous new (causeAfter new cause))).recheckUplinks (· == u)).handChange u previous new)

/-! ### Flaps and declarations (R12, R17) -/

/-- A flap window in µs. -/
def flapSpan (p : UplinkParams) : Nat := 1000000 * p.flapWindow

/-- The flap history without the entries at its head whose age exceeds the window (R17). -/
def pruneFlaps (now : PartTime) (window : Nat) : List PartTime → List PartTime
  | [] => []
  | t :: rest => if window < span t now then pruneFlaps now window rest else t :: rest

/-- Entries that have outlived the flap window in force are removed (R17). -/
def State.ageFlaps (s : State) (u : Fin 32) : State :=
  s.modifyUplink u fun r => { r with flaps := pruneFlaps s.now (flapSpan r.params) r.flaps }

/-- A flap is recorded, and the uplink quarantined when its history reaches the flap limit (R17). -/
def State.recordFlap (s : State) (u : Fin 32) : State :=
  let s := s.modifyUplink u fun r =>
    { r with flaps := pruneFlaps s.now (flapSpan r.params) r.flaps ++ [s.now] }
  let r := s.uplink u
  if r.flaps.length = r.params.flapLimit then
    (s.modifyUplink u fun r => { r with flaps := [] }).changeState u .quarantined r.darkCause
  else s

/-- Whether a cause raises conduit alarms (R12). -/
def DarkCause.raises : DarkCause → Bool
  | .lightLost => true
  | .farBlind => true
  | _ => false

/-- The conduit mask of an uplink is handed over when the cause is LIGHT_LOST or FAR_BLIND (R12). -/
def State.handMask (s : State) (u : Fin 32) (cause : DarkCause) : State :=
  if cause.raises then s.raiseMask u cause (s.uplink u).params.conduitMask else s

/-- A declaration of DARK, from UP or from SETTLING (R12). -/
def State.declareDark (s : State) (u : Fin 32) (cause : DarkCause) : State :=
  (((s.modifyUplink u fun r => { r with settleStart := none, settleExpiry := none }).changeState u .dark
    (some cause)).handMask u cause).recordFlap u

/-! ### Service and proof (R13, R14, R16, R21) -/

/-- Whether the settle time has elapsed since settle start (R14; log 7). -/
def settleElapsed (r : UplinkRecord) (now : PartTime) : Bool :=
  match r.settleStart, r.settleExpiry with
  | some start, some expiry => decide (span start expiry ≤ span start now)
  | _, _ => false

/-- The conditions of R14 are checked, and the uplink enters UP when they hold. -/
def State.checkSettle (s : State) (u : Fin 32) : State :=
  let r := s.uplink u
  if r.params.restoreCount ≤ r.runCount ∧ settleElapsed r s.now = true ∧ r.light = .present then
    (s.modifyUplink u fun r => { r with settleStart := none, settleExpiry := none }).changeState u .up none
  else s

/-- The move from DARK to SETTLING (R13). -/
def State.enterSettling (s : State) (u : Fin 32) : State :=
  ((s.modifyUplink u fun r =>
      { r with settleStart := some s.now, settleExpiry := some (after s.now (1000 * r.params.settleTime)),
               runCount := 1, missCount := 0, blindCount := 0, mismatchMark := false }).changeState u .settling
    (s.uplink u).darkCause).checkSettle u

/-- A PROVING uplink enters UP when the light is PRESENT and the run count has reached the restore count (R16). -/
def State.checkProof (s : State) (u : Fin 32) : State :=
  let r := s.uplink u
  if r.light = .present ∧ r.params.restoreCount ≤ r.runCount then s.changeState u .up none else s

/-- A restart of the proof (R16). -/
def State.restartProof (s : State) (u : Fin 32) : State :=
  s.modifyUplink u fun r => { r with missCount := 0, blindCount := 0, runCount := 0, mismatchMark := false }

/-- A failure found during a drill becomes the first finding when there is none yet (R21). -/
def DrillRecord.find (d : DrillRecord) (cause : DarkCause) : DrillRecord :=
  { d with finding := some (d.finding.getD cause) }

/-- A failure found during a drill is recorded (R21). -/
def State.recordFinding (s : State) (u : Fin 32) (cause : DarkCause) : State :=
  s.modifyUplink u fun r => { r with drill := r.drill.map fun d => d.find cause }

/-- A failure that the state machine is told of: declared in UP and SETTLING, a restart in PROVING, a finding in DRILL,
and nothing more in the other states (R11, R15, R16, R21). -/
def State.fail (s : State) (u : Fin 32) (cause : DarkCause) : State :=
  match (s.uplink u).state with
  | .up => s.declareDark u cause
  | .settling => s.declareDark u cause
  | .proving => s.restartProof u
  | .drill => s.recordFinding u cause
  | .unconfigured => s
  | .adminDown => s
  | .dark => s
  | .quarantined => s

/-! ### Light (R3) -/

/-- The level of light that a line level stands for. -/
def lightOf (asserted : Bool) : Light := if asserted then .lost else .present

/-- The light changes, the timer becomes absent, and the change is delivered to the state machine (R3). -/
def State.changeLight (s : State) (u : Fin 32) (light : Light) : State :=
  let s := s.modifyUplink u fun r => { r with light, lightTimer := none }
  match light with
  | .lost => s.fail u .lightLost
  | .present => if (s.uplink u).state = .proving then s.checkProof u else s

/-- DARK_SENSE_LINE_CHANGE (R3): a level that disagrees with the light starts the light timer (with a debounce of 0 the
light changes at once), and one that agrees cancels it. A level that is no change has no effect. -/
def execDarkSenseLineChange (u : Fin 32) (asserted : Bool) (s : State) : Host.Outcome State Fault Refusal :=
  if s.monitor.lines.get u = asserted then .next s
  else
    let s := { s with monitor := { s.monitor with lines := s.monitor.lines.set u asserted } }
    let r := s.uplink u
    if r.light = lightOf asserted then .next (s.setUplink u { r with lightTimer := none })
    else if r.params.lightDebounce = 0 then .next (s.changeLight u (lightOf asserted)).settleArea
    else .next (s.setUplink u { r with lightTimer := some (after s.now r.params.lightDebounce) })

/-- LIGHT_TIMER_EXPIRY (R3): at the expiry the light changes to agree with the line. -/
def execLightTimerExpiry (u : Fin 32) (s : State) : Host.Outcome State Fault Refusal :=
  if (s.uplink u).lightTimer = some s.now then
    .next (s.changeLight u (lightOf (s.monitor.lines.get u))).settleArea
  else .next s

/-! ### Probes sent (R4 to R6, R39, R41) -/

/-- Whether a state is a probing state (R2). -/
def UplinkState.probing : UplinkState → Bool
  | .unconfigured => false
  | .adminDown => false
  | .proving => true
  | .up => true
  | .dark => true
  | .settling => true
  | .quarantined => true
  | .drill => true

/-- The seen flag of the next PROBE_OUT (R5, R18). -/
def UplinkRecord.seenFlag (r : UplinkRecord) : Bool :=
  decide (r.state ≠ .quarantined) && decide (r.quietWindows + 1 < r.params.missLimit)

/-- The content of the next PROBE_OUT of an uplink (R5). -/
def State.probeContent (s : State) (u : Fin 32) : ProbeContent where
  identity := s.area.identity
  uplink := BitVec.ofNat 8 u.val
  seen := (s.uplink u).seenFlag
  sequence := (s.uplink u).txSequence

/-- A probe joins the waiting probes, or replaces the waiting probe of its uplink in its place (R39). -/
def placeProbe (p : ProbeOut) (probes : List ProbeOut) : List ProbeOut :=
  if probes.any fun q => q.uplink == p.uplink then probes.map fun q => if q.uplink == p.uplink then p else q
  else probes ++ [p]

/-- The Port takes a PROBE_OUT: discarded while the link is DOWN (R39). -/
def Port.takeProbe (port : Port) (p : ProbeOut) : Port :=
  match port.link with
  | .down => port
  | .ready => { port with probes := placeProbe p port.probes }

/-- The transmitter's choice between the head of the lane and the head of the waiting probes (R41 step 3). -/
def Port.takeAnswerOrProbe (port : Port) : Port :=
  let answerFirst : Option Answer → Port := fun a =>
    match a with
    | some a => { port with sending := some (.answer a), lastTaken := .answer }
    | none => port
  let probeFirst : Option ProbeOut → Port := fun p =>
    match p with
    | some p => { port with sending := some (.probe p), lastTaken := .probe }
    | none => port
  match port.lane.head?, port.probes.head?, port.lastTaken with
  | some a, some _, .probe => answerFirst (some a)
  | some _, some p, .answer => probeFirst (some p)
  | some a, none, _ => answerFirst (some a)
  | none, p, _ => probeFirst p

/-- The transmitter, while it sends nothing, takes the next message by the order of R41. -/
def Port.transmit (port : Port) : Port :=
  match port.sending with
  | some _ => port
  | none =>
    if port.answering.isSome then { port with sending := some .hello }
    else match port.link with
      | .down => port
      | .ready =>
        match port.flow with
        | .pause => { port with sending := some .pause, flow := .none }
        | .proceed => { port with sending := some .proceed, flow := .none }
        | .none => port.takeAnswerOrProbe

/-- The transmitter takes a message if it can. -/
def State.transmit (s : State) : State := { s with port := s.port.transmit }

/-- One PROBE_OUT is emitted and its sequence number used up; none is produced in OFF (R5, R6). -/
def State.emitProbe (s : State) (u : Fin 32) : State :=
  if s.control.runState = .off then s
  else
    ({ s with port := s.port.takeProbe { uplink := u, content := s.probeContent u } }.modifyUplink u fun r =>
      { r with txSequence := r.txSequence + 1 }).transmit

/-! ### Windows (R4, R9) -/

/-- A probe interval in µs. -/
def intervalSpan (p : UplinkParams) : Nat := 100 * p.probeInterval

/-- The counts after the ending window is judged by its marks (R9). -/
def UplinkRecord.judge (r : UplinkRecord) : UplinkRecord :=
  if r.affirmingSeen then
    { r with missCount := 0, blindCount := 0, mismatchMark := false, quietWindows := 0 }
  else if r.goodSeen then
    { r with missCount := 0, blindCount := saturate 15 r.blindCount, runCount := 0, mismatchMark := false,
             quietWindows := 0 }
  else if r.mismatchSeen then
    { r with missCount := saturate 15 r.missCount, runCount := 0, mismatchMark := true,
             quietWindows := saturate 15 r.quietWindows }
  else
    { r with missCount := saturate 15 r.missCount, runCount := 0, quietWindows := saturate 15 r.quietWindows }

/-- The failure that judged counts amount to, the miss count prevailing (R11, R15, R27). -/
def UplinkRecord.failure (r : UplinkRecord) : Option DarkCause :=
  if r.params.missLimit ≤ r.missCount then some (if r.mismatchMark then .peerMismatch else .probeSilent)
  else if r.params.missLimit ≤ r.blindCount then some .farBlind
  else none

/-- The ending window is judged and the counts are delivered to the state machine (R9). -/
def State.judgeWindow (s : State) (u : Fin 32) : State :=
  let s := s.modifyUplink u UplinkRecord.judge
  match (s.uplink u).failure with
  | some cause => s.fail u cause
  | none => s

/-- The next window starts at the old window end, its marks clear (R4). -/
def UplinkRecord.nextWindow (r : UplinkRecord) (ending : PartTime) : UplinkRecord :=
  { r with windowEnd := some (after ending (intervalSpan r.params)),
           goodSeen := false, affirmingSeen := false, mismatchSeen := false }

/-- WINDOW_END (R4). -/
def execWindowEnd (u : Fin 32) (s : State) : Host.Outcome State Fault Refusal :=
  if (s.uplink u).windowEnd = some s.now then
    .next (((s.judgeWindow u).modifyUplink u fun r => r.nextWindow s.now).emitProbe u).settleArea
  else .next s

/-! ### Probes received (R7, R8, R40) -/

/-- The classes of an arriving probe (R7). -/
inductive ProbeClass
  | mismatched | good | affirming | stale
  deriving DecidableEq, Repr

/-- Whether a sequence is newer than the last accepted one (R7). -/
def newer (sequence : BitVec 16) (last : Option (BitVec 16)) : Bool :=
  match last with
  | none => true
  | some l => decide (1 ≤ (sequence - l).toNat) && decide ((sequence - l).toNat ≤ 32767)

/-- The classification of a probe against an uplink's record (R7). -/
def UplinkRecord.classify (r : UplinkRecord) (p : ProbeContent) : ProbeClass :=
  if p.identity ≠ r.params.peerIdentity ∨ p.uplink ≠ r.params.peerUplink then .mismatched
  else if newer p.sequence r.peerSequence then (if p.seen then .affirming else .good)
  else .stale

/-- A good probe acts on the record (R8). -/
def UplinkRecord.accept (r : UplinkRecord) (p : ProbeContent) : UplinkRecord :=
  { r with peerSequence := some p.sequence, goodSeen := true }

/-- An affirming probe acts on the record (R8). -/
def UplinkRecord.affirm (r : UplinkRecord) (p : ProbeContent) : UplinkRecord :=
  { r.accept p with affirmingSeen := true, runCount := saturate 255 r.runCount }

/-- An affirming probe is delivered to the state machine (R13, R14, R16). -/
def State.deliverAffirming (s : State) (u : Fin 32) : State :=
  match (s.uplink u).state with
  | .dark => if (s.uplink u).light = .present then s.enterSettling u else s
  | .settling => s.checkSettle u
  | .proving => s.checkProof u
  | .unconfigured => s
  | .adminDown => s
  | .up => s
  | .quarantined => s
  | .drill => s

/-- A probe delivered to the Uplink Monitor as an arrival on an uplink (R7, R8). -/
def State.receiveProbe (s : State) (u : Fin 32) (p : ProbeContent) : State :=
  let r := s.uplink u
  if !r.state.probing then s
  else match r.classify p with
    | .mismatched => s.setUplink u { r with mismatchSeen := true }
    | .good => s.setUplink u (r.accept p)
    | .affirming => (s.setUplink u (r.affirm p)).deliverAffirming u
    | .stale => s

/-- A PROBE_IN arrives on the link: discarded while the link is DOWN or when its uplink is above 31 (R34, R40). -/
def State.arriveProbe (s : State) (uplink : Byte) (p : ProbeContent) : State :=
  match s.port.link with
  | .down => s
  | .ready => if h : uplink.toNat < 32 then (s.receiveProbe ⟨uplink.toNat, h⟩ p).settleArea else s

/-- PROBE_IN (R40). -/
def execProbeIn (uplink : Byte) (content : ProbeContent) (s : State) : Host.Outcome State Fault Refusal :=
  .next (s.arriveProbe uplink content)

/-! ### SETTLE_EXPIRY and FLAP_ENTRY_AGED -/

/-- SETTLE_EXPIRY (R14): at the settle expiry the conditions are checked, and again when part time wraps back to it
while the uplink is still SETTLING (log 50). -/
def execSettleExpiry (u : Fin 32) (s : State) : Host.Outcome State Fault Refusal :=
  if (s.uplink u).state = .settling ∧ (s.uplink u).settleExpiry = some s.now then
    .next (s.checkSettle u).settleArea
  else .next s

/-- FLAP_ENTRY_AGED (R17): entries at the head whose age exceeds the flap window are removed. -/
def execFlapEntryAged (u : Fin 32) (s : State) : Host.Outcome State Fault Refusal := .next (s.ageFlaps u)

/-! ### Drills (R20 to R24) -/

/-- The result of a drill (R23): `up` says that it ended in UP; the walk result, or what the walk has moved so far. -/
def drillResults (d : DrillRecord) (walk : Option Walk) (up : Bool) : Results where
  r1 := BitVec.ofNat 32 (if up then UplinkState.up.code else UplinkState.dark.code)
  r2 := if up then 0 else BitVec.ofNat 32 (causeCode d.finding)
  r3 := BitVec.ofNat 32 (match d.walkResult with
    | some w => w.1
    | none => match walk with | some w => w.bucketsMoved | none => 0)
  r4 := match d.walkResult with | some w => w.2 | none => 0

/-- Whether the judgment of a drill returns the uplink to UP (R22). -/
def UplinkRecord.drillSound (r : UplinkRecord) (d : DrillRecord) : Bool :=
  decide (r.light = .present) && decide (r.missCount < r.params.missLimit)
    && decide (r.blindCount < r.params.missLimit) && d.finding.isNone

/-- The judgment at the end of a drill: UP, or DARK with the first finding as cause (R22). -/
def State.judgeDrill (s : State) (u : Fin 32) (d : DrillRecord) : State :=
  if (s.uplink u).drillSound d then s.changeState u .up none
  else
    let s := s.changeState u .dark d.finding
    match d.finding with
    | some cause => s.handMask u cause
    | none => s

/-- A drill ends: it is judged, its DRILL_START order completes, and its record is removed (R22, R23, R28). -/
def State.endDrill (s : State) (u : Fin 32) (d : DrillRecord) (failed : Bool) (reason : OrderReason) : State :=
  let results := drillResults d (s.walkOf u) ((s.uplink u).drillSound d)
  ((s.judgeDrill u d).completeOrder d.slot .drillStart failed reason results).modifyUplink u fun r =>
    { r with drill := none }

/-- DRILL_END_TIME (R22). -/
def execDrillEndTime (u : Fin 32) (s : State) : Host.Outcome State Fault Refusal :=
  match (s.uplink u).drill with
  | none => .next s
  | some d => if d.endTime = s.now then .next (s.endDrill u d false .none).settleArea else .next s

/-- The uplink that an order's argument A names, if it is one (R19, R20, R24). -/
def OrderInHand.uplink (o : OrderInHand) : Option (Fin 32) :=
  if h : o.argA.toNat < 32 then some ⟨o.argA.toNat, h⟩ else none

/-- DRILL_START taken by the Uplink Monitor (R20). -/
def State.takeDrillStart (s : State) (o : OrderInHand) : State :=
  let fail (reason : OrderReason) := s.completeOrder (some o.slot) .drillStart true reason Results.zero
  match o.uplink with
  | none => fail .badArg
  | some u =>
    if !inRange 1 3600 o.argB.toNat then fail .badArg
    else if (s.uplink u).state ≠ .up then fail .badState
    else
      (s.modifyUplink u fun r =>
        { r with drill := some { endTime := after s.now (1000000 * o.argB.toNat), slot := some o.slot,
                                 finding := none, walkResult := none } }).changeState u .drill (some .drill)

/-- DRILL_END taken by the Uplink Monitor (R24). The DRILL_START order completes first, then the DRILL_END order (log
49), after the records of the drill's end (log 56). -/
def State.takeDrillEnd (s : State) (o : OrderInHand) : State :=
  let fail (reason : OrderReason) := s.completeOrder (some o.slot) .drillEnd true reason Results.zero
  match o.uplink with
  | none => fail .badArg
  | some u =>
    match (s.uplink u).state, (s.uplink u).drill with
    | .drill, some d =>
      (s.endDrill u d false .none).completeOrder (some o.slot) .drillEnd false .none Results.zero
    | _, _ => fail .badState

/-- RELEASE taken by the Uplink Monitor (R19). The model's own choice: UPLINK_CHANGE stands before the ORDER_ENDED of an
order that is not written to its slot (log 56). -/
def State.takeRelease (s : State) (o : OrderInHand) : State :=
  let fail (reason : OrderReason) := s.completeOrder (some o.slot) .release true reason Results.zero
  match o.uplink with
  | none => fail .badArg
  | some u =>
    if (s.uplink u).state ≠ .quarantined then fail .badState
    else
      ((s.modifyUplink u fun r =>
        { r with flaps := [], missCount := 0, blindCount := 0, runCount := 0, mismatchMark := false }).changeState u
          .proving (s.uplink u).darkCause).completeOrder (some o.slot) .release false .none Results.zero

end Sys2Proof.Machine
end

