-- ==== Sys2Proof/Machine/Adopt.lean ====
section
/-! DEFINITION. Adoption of uplink rows by the Uplink Monitor (spec 01, §1.7). -/

namespace Sys2Proof.Machine

/-- The newest entries of a flap history, fewer than the flap limit (R27). -/
def truncateFlaps (limit : Nat) (flaps : List PartTime) : List PartTime :=
  flaps.drop (flaps.length - (limit - 1))

/-- What entering UNCONFIGURED or ADMIN_DOWN clears (R4), and the settle start, which only SETTLING holds (R1). -/
def UplinkRecord.clearWindow (r : UplinkRecord) : UplinkRecord :=
  { r with windowEnd := none, goodSeen := false, affirmingSeen := false, mismatchSeen := false,
           missCount := 0, blindCount := 0, runCount := 0, mismatchMark := false, quietWindows := 15,
           settleStart := none, settleExpiry := none }

/-- The adopted fields are taken from a row, the flap history truncated to the new limit (R25 to R27). -/
def UplinkRecord.takeRow (r : UplinkRecord) (p : UplinkParams) : UplinkRecord :=
  { r with params := p, flaps := truncateFlaps p.flapLimit r.flaps }

/-- An EMPTY row acts (R25); on an uplink already removed it changes the generation only (R27). -/
def State.adoptEmpty (s : State) (u : Fin 32) : State :=
  let r := s.uplink u
  if r.state = .unconfigured ∧ r.darkCause = some .removed then s
  else
    (s.setUplink u { r.clearWindow with params := UplinkParams.default, flaps := [], peerSequence := none }).changeState
      u .unconfigured (some .removed)

/-- A disabled row acts (R25); on an uplink already disabled it changes the adopted fields only (R27). -/
def State.adoptDisabled (s : State) (u : Fin 32) (p : UplinkParams) : State :=
  let r := s.uplink u
  if r.state = .adminDown ∧ r.darkCause = some .admin then s.setUplink u (r.takeRow p)
  else
    (s.setUplink u { (r.takeRow p).clearWindow with peerSequence := none }).changeState u .adminDown (some .admin)

/-- The record of an uplink that an enabled row moves into proof (R26). -/
def UplinkRecord.enterProof (r : UplinkRecord) (p : UplinkParams) : UplinkRecord :=
  { r.takeRow p with
    missCount := 0, blindCount := 0, runCount := 0, mismatchMark := false, quietWindows := 15,
    peerSequence := none, settleStart := none, settleExpiry := none }

/-- The first window starts and a PROBE_OUT is emitted at once (R4). -/
def State.firstWindow (s : State) (u : Fin 32) : State :=
  (s.modifyUplink u fun r => r.nextWindow s.now).emitProbe u

/-- An enabled row enables an uplink from UNCONFIGURED or ADMIN_DOWN, straight to UP under TRUST with light (R26). -/
def State.enable (s : State) (u : Fin 32) (p : UplinkParams) : State :=
  let s := ((s.modifyUplink u fun r => r.enterProof p).changeState u .proving (some .reconfig)).firstWindow u
  if p.initialMode = .trust ∧ (s.uplink u).light = .present then s.changeState u .up none else s

/-- An enabled row re-peers an uplink in a probing state (R26). -/
def State.repeer (s : State) (u : Fin 32) (p : UplinkParams) : State :=
  (s.modifyUplink u fun r => r.enterProof p).changeState u .proving (some .reconfig)

/-- An enabled row keeps the state it finds (R27); a mask that changes the shadowed attribute hands the uplink over for
recheck flags (R49). -/
def State.retune (s : State) (u : Fin 32) (p : UplinkParams) : State :=
  let t := s.modifyUplink u fun r => r.takeRow p
  if s.shadowed u = t.shadowed u then t else t.recheckUplinks (· == u)

/-- An enabled row acts (R26, R27). -/
def State.adoptEnabled (s : State) (u : Fin 32) (p : UplinkParams) : State :=
  let r := s.uplink u
  if !r.state.probing then s.enable u p
  else if p.peerIdentity ≠ r.params.peerIdentity ∨ p.peerUplink ≠ r.params.peerUplink then s.repeer u p
  else s.retune u p

/-- The row acts by its kind, on the state the end of any drill gave (R25, R28), and flap entries that the window now in
force has outlived are removed (R27). -/
def State.applyUplinkRow (s : State) (u : Fin 32) (row : UplinkRow) : State :=
  match row.kind with
  | .empty => s.adoptEmpty u
  | .disabled => (s.adoptDisabled u row.params).ageFlaps u
  | .enabled => (s.adoptEnabled u row.params).ageFlaps u
  | .planned => s

/-- A row adoption ends a drill first, failing its order with PLAN_CHANGED (R28). -/
def State.endDrillForRow (s : State) (u : Fin 32) : State :=
  match (s.uplink u).drill with
  | none => s
  | some d => s.endDrill u d true .planChanged

/-- An uplink row is handed over (R25 to R28). ROW_ADOPTED is produced before the records of the end of a drill (log
48). -/
def State.adoptUplinkRow (s : State) (u : Fin 32) (row : UplinkRow) (generation : Generation) : State :=
  (((s.modifyUplink u fun r => { r with generation }).produce
    (.rowAdopted (.uplink u) row.kind generation 0 0 0)).endDrillForRow u).applyUplinkRow u row

end Sys2Proof.Machine
end

