-- ==== Sys2Proof/Machine/Rebuild.lean ====
section
/-! DEFINITION. Plan Rebuild: hand-over of group rows, supersede, removal, reservation, rejection and the flip
(spec 08), with the member index (spec 07, §7.1). -/

namespace Sys2Proof.Machine

/-! ### The member index (R107 to R110) -/

/-- The list with a group at its place in ascending order. -/
def insertGroup (g : Nat) (l : List Nat) : List Nat := l.filter (· < g) ++ g :: l.filter (g < ·)

/-- The list without a group. -/
def removeGroup (g : Nat) (l : List Nat) : List Nat := l.filter (· ≠ g)

/-- The index with the lists of some uplinks changed. -/
def changeLists (f : List Nat → List Nat) (us : List (Fin 32)) (index : Vector (List Nat) 32) :
    Vector (List Nat) 32 :=
  us.foldl (fun v (u : Fin 32) => v.set u (f (v.get u))) index

/-- The uplinks of a member list. -/
def uplinksOf (ms : List Member) : List (Fin 32) := ms.map (·.uplink)

/-- The member index moves a group from its old member list to its new one (R109). -/
def State.reindex (s : State) (g : Nat) (old new : List Member) : State :=
  { s with engine := { s.engine with
      index := changeLists (insertGroup g) (uplinksOf new)
        (changeLists (removeGroup g) ((uplinksOf old).filter fun u => !hasUplink new u) s.engine.index)
      entriesInUse := s.engine.entriesInUse + new.length - old.length } }

/-! ### Supersede and removal (R130, R131) -/

/-- Whether an intake item is the block step or flip of a group (R119). -/
def IntakeItem.rebuilds (g : Nat) : IntakeItem → Bool
  | .blockStep h _ => h == g
  | .flip h => h == g
  | .settlePass _ => false
  | .fix _ _ => false

/-- Whether a unit is a block step of a group. -/
def Work.buildsGroup (g : Nat) : Work → Bool
  | .blockStep h _ _ _ => decide (h = g)
  | _ => false

/-- A block step of the group in progress is abandoned (R130). -/
def State.abandonBlockStep (s : State) (g : Nat) : State :=
  if s.engine.work.any (Work.buildsGroup g) then
    State.discardAccess { s with engine := { s.engine with work := none } } fun r => r == Requester.blockStep
  else s

/-- The block steps of a rebuild that have ended (R130). -/
def Rebuild.stepsEnded (b : Rebuild) : Nat :=
  match b.progress with
  | .step p => p
  | .flip => b.blocks.length

/-- A pending rebuild is cancelled by a newer row of generation `generation` (R130). -/
def State.supersede (s : State) (g : Nat) (generation : Generation) : State :=
  match (s.group g).rebuild with
  | none => s
  | some b =>
    let s := s.freeBlocks b.blocks
    let s := { s with engine := { s.engine with
        entriesReserved := s.engine.entriesReserved - b.indexReservation
        intake := s.engine.intake.filter fun i => !i.rebuilds g } }
    let s := s.abandonBlockStep g
    (s.setGroup g { s.group g with rebuild := none, liveGeneration := (s.group g).adoptedGeneration }).produce
      (.rowSuperseded g b.stepsEnded b.generation generation)

/-- A walk after a step on a group has ended: one more group touched, and the cursor at the group unless the walk was
converted during the step (R116, R117). -/
def Walk.stepped (w : Walk) (g : Nat) (converted : Bool) : Walk :=
  { w with groupsTouched := saturate 65535 w.groupsTouched, cursor := if converted then w.cursor else some g }

/-- The walk of an uplink changed in its place. -/
def State.modifyWalk (s : State) (u : Fin 32) (f : Walk → Walk) : State :=
  let change : Walk → Walk := fun w => if w.uplink == u then f w else w
  { s with engine := { s.engine with
      urgent := s.engine.urgent.map change
      restore := s.engine.restore.map change } }

/-- The engine has no unit in progress. -/
def State.endWork (s : State) : State := { s with engine := { s.engine with work := none } }

/-- Removal of a group ends the walk step, the settle pass or the fix in progress on it (R86, R117, R141). A fix whose
read has not been granted goes on, and its read finds the owner changed (log 27). -/
def State.endWorkOn (s : State) (g : Nat) : State :=
  match s.engine.work with
  | some (.walkStep u h _ converted _) =>
    if h = g then ((s.modifyWalk u fun w => w.stepped g converted).endWork).discardAccess Requester.isEngine else s
  | some (.settlePass h _ _) => if h = g then s.endWork.discardAccess Requester.isEngine else s
  | some (.fix item phase) =>
    if item.group = g ∧ phase ≠ .wantRead then s.endWork.discardAccess Requester.isEngine else s
  | some (.blockStep _ _ _ _) => s
  | none => s

/-- The live run of a group, if any, goes: its blocks, load contributions and index entries, a snapshot and a unit of
work on it (R131). -/
def State.dropRun (s : State) (g : Nat) : State :=
  match s.liveRun g with
  | none => s
  | some run =>
    ((((s.uncountRun run).freeBlocks run.blocks).reindex g run.fields.members []).replaceSnapshot g).endWorkOn g

/-- An EMPTY row removes the group, after any supersede (R131). -/
def State.removeGroupRow (s : State) (g : Nat) (generation : Generation) : State :=
  ((s.dropRun g).setGroup g { GroupRecord.reset with liveGeneration := generation }).produce
    (.rowAdopted (.group g) .empty generation 0 0 0)

/-! ### Reservation and rejection (R132, R133) -/

/-- The net increase of a row's member count (R108). -/
def State.netIncrease (s : State) (g : Nat) (fields : GroupFields) : Nat :=
  fields.members.length - (match s.liveRun g with | some run => run.fields.members.length | none => 0)

/-- A planned row rejected for room: the group is left as the supersede left it, its live generation the adopted one,
also after an earlier removal (R133; log 41). -/
def State.rejectRoom (s : State) (g : Nat) (generation : Generation) (reason : RowReason) (asked found : Nat) : State :=
  (s.setGroup g { s.group g with liveGeneration := (s.group g).adoptedGeneration }).produce
    (.rowRejected (.group g) reason generation (BitVec.ofNat 32 asked) (BitVec.ofNat 32 found))

/-- A rebuild record is created for a reservation, and its first block step queued (R128, R132). -/
def State.createRebuild (s : State) (g : Nat) (fields : GroupFields) (generation : Generation) (blocks : List Nat)
    (entries : Nat) : State :=
  let s := s.setGroup g { s.group g with
    liveGeneration := generation
    rebuild := some { staged := fields, generation, blocks, indexReservation := entries, progress := .step 0,
                      recheck := false, adoptedAt := s.now } }
  let s := { s with engine := { s.engine with
      entriesReserved := s.engine.entriesReserved + entries
      intake := s.engine.intake ++ [IntakeItem.blockStep g 0] } }
  s.produce (.rowAdopted (.group g) .planned generation fields.bucketSize blocks.length entries)

/-- A planned row asks for blocks and then for index entries, and is adopted or rejected (R132, R133). Answers whether
it was adopted. -/
def State.reserveRow (s : State) (g : Nat) (fields : GroupFields) (generation : Generation) : State × Bool :=
  match s.reserveBlocks g fields.blockCount with
  | none => (s.rejectRoom g generation .noBlocks fields.blockCount s.freeBlockCount, false)
  | some (blocks, reserved) =>
    let entries := s.netIncrease g fields
    if entries ≤ s.freeIndexEntries then (reserved.createRebuild g fields generation blocks entries, true)
    else ((reserved.freeBlocks blocks).rejectRoom g generation .noIndex entries s.freeIndexEntries, false)

/-- A group row is handed over: supersede, then remove or reserve (R129). `fields` is absent for an EMPTY row. Answers
whether the row was taken, or rejected for room. -/
def State.adoptGroupRow (s : State) (g : Nat) (fields : Option GroupFields) (generation : Generation) : State × Bool :=
  let s := s.supersede g generation
  match fields with
  | none => (s.removeGroupRow g generation, true)
  | some f => s.reserveRow g f generation

/-! ### The flip (R137, R138) -/

/-- A settle pass of a group joins the intake queue, or is absorbed (R119). -/
def State.offerSettlePass (s : State) (g : Nat) : State :=
  if s.engine.intake.contains (IntakeItem.settlePass g) then s
  else { s with engine := { s.engine with intake := s.engine.intake ++ [IntakeItem.settlePass g] } }

/-- The old live run, if any, returns to the free pool with its contributions (R80). -/
def State.returnRun (s : State) (old : Option LiveRun) : State :=
  match old with
  | none => s
  | some run => (s.uncountRun run).freeBlocks run.blocks

/-- The members of a live run; none when there is no live run. -/
def membersOf (old : Option LiveRun) : List Member :=
  match old with
  | none => []
  | some run => run.fields.members

/-- The fields of the run before a flip; a group without one has no member. -/
def fieldsOf (old : Option LiveRun) : GroupFields :=
  match old with
  | none => { members := [], bucketSize := 0, revertive := false, escape := none }
  | some run => run.fields

/-- The flip of a group's rebuild: R137's acts in order, with R138's records. -/
def State.flip (s : State) (g : Nat) : State :=
  let r := s.group g
  match r.rebuild with
  | none => s
  | some b =>
    let s := ((s.setOwners (Owner.run g) b.blocks 0).returnRun r.live).countRun b.staged b.blocks
    let s := s.reindex g (membersOf r.live) b.staged.members
    let s := { s with engine := { s.engine with
        entriesReserved := s.engine.entriesReserved - b.indexReservation } }
    let s := s.setGroup g { r with
      adoptedGeneration := b.generation, liveGeneration := b.generation
      live := some { fields := b.staged, blocks := b.blocks }, rebuild := none }
    let s := s.produce (.rebuildDone g b.staged.bucketSize b.generation r.adoptedGeneration (s.now - b.adoptedAt)
      b.blocks.length b.recheck)
    let s := ((s.checkPin g (fieldsOf r.live) b.staged).compareStrandedness g).replaceSnapshot g
    if b.recheck then s.offerSettlePass g else s

end Sys2Proof.Machine
end

