-- ==== Sys2Proof/Machine/Arbiter.lean ====
section
/-! DEFINITION. The arbiter of the bucket memory and the command BUCKET_ACCESS_GRANT (spec 05, §5.4). A read returns the
bucket, and a write takes effect, at the grant (R82; log 10). -/

namespace Sys2Proof.Machine

/-! ### What waits -/

/-- Whether the Port waits for a bucket read. -/
def Port.wantsAccess (p : Port) : Bool :=
  match p.resolution with
  | some r => r.phase == .wantRead || r.phase == .wantEscape
  | none => false

/-- Whether a unit waits at this phase. -/
def AccessPhase.waits : AccessPhase → Bool
  | .wantRead => true
  | .reading => false
  | .wantWrite _ _ _ => true
  | .writing => false

/-- Whether a unit of work waits for an access. -/
def Work.waits : Work → Bool
  | .walkStep _ _ _ _ phase => phase.waits
  | .settlePass _ _ phase => phase.waits
  | .blockStep _ _ _ writing => !writing
  | .fix _ phase => phase.waits

/-- Whether the scrubber waits for an access. -/
def Burst.waits (b : Burst) : Bool := b.phase == .wantRead || b.phase == .wantWrite

/-- Whether a snapshot waits for an access. -/
def SnapshotRecord.waits (r : SnapshotRecord) : Bool := !r.reading && decide (r.next < r.size)

/-- Whether the Walk Engine waits for an access. -/
def State.engineWaits (s : State) : Bool := s.engine.work.any Work.waits

/-- Whether the scrubber waits for an access. -/
def State.scrubWaits (s : State) : Bool := s.store.burst.any Burst.waits

/-- Whether a snapshot waits for an access. -/
def State.snapshotWaits (s : State) : Bool := s.store.snapshot.any SnapshotRecord.waits

/-! ### Grants -/

/-- An access of a bucket begins, with the bucket and its block's owner as they stand (R82, R100). -/
def State.beginAccess (s : State) (requester : Requester) (block offset : Nat) : State :=
  { s with store := { s.store with
      access := some { requester, wanted := true, bucket := s.bucket block offset, owner := s.owner block } } }

/-- The bucket that a hash selects in a group (R100). -/
def selectBucket (run : LiveRun) (hash : BitVec 16) : Nat := hash.toNat % run.fields.bucketSize

/-- The Port's bucket read is granted (R100, R104). -/
def State.grantLookup (s : State) (r : Resolution) : State :=
  let read (s : State) (v : Option LiveRun) (requester : Requester) (phase : ResolutionPhase) : State :=
    match v with
    | none => s
    | some run =>
      let b := selectBucket run r.lookup.hash
      let s := s.beginAccess requester (blockOf run.blocks b) (offsetOf b)
      { s with port := { s.port with resolution := some { r with phase } } }
  match r.phase with
  | .wantRead => read s r.view.group.live .lookup .reading
  | .wantEscape => read s (r.view.escape.bind (·.live)) .escape .readingEscape
  | .reading => s
  | .readingEscape => s

/-- The state with the unit in progress `w`. -/
def State.setWork (s : State) (w : Work) : State := { s with engine := { s.engine with work := some w } }

/-- The bucket `b` of a group's live run is accessed. -/
def State.beginLiveAccess (s : State) (requester : Requester) (g b : Nat) : State :=
  match s.liveRun g with
  | none => s
  | some run => s.beginAccess requester (blockOf run.blocks b) (offsetOf b)

/-- The last-written current member of bucket `b` of a group's live run. -/
def State.liveCurrent (s : State) (g b : Nat) : Nat :=
  match s.liveRun g with
  | none => 0
  | some run => (s.bucket (blockOf run.blocks b) (offsetOf b)).current

/-- A write of a walk step that changes the last-written current member raises the walk's buckets moved (R115). -/
def State.countMove (s : State) (u : Fin 32) (old new : Nat) : State :=
  if old = new then s else s.modifyWalk u fun w => { w with bucketsMoved := saturate 1048575 w.bucketsMoved }

/-- A bucket of a reservation is written by a block step, settled at this moment (R134). -/
def State.writeStagedBucket (s : State) (g position offset : Nat) : State :=
  match (s.group g).rebuild with
  | none => s
  | some b =>
    let k := b.blocks.getD position 0
    (s.setBucket k offset (b.staged.stagedBucket s.isUp s.shadowed (64 * position + offset))).beginAccess .blockStep k
      offset

/-- The Walk Engine's access is granted. -/
def State.grantEngine (s : State) (w : Work) : State :=
  match w with
  | .walkStep u g b converted .wantRead =>
    (s.beginLiveAccess .walkStep g b).setWork (.walkStep u g b converted .reading)
  | .walkStep u g b converted (.wantWrite home current found) =>
    (((s.writeLiveBucket g b home current (if found then some .walkStep else none)).countMove u (s.liveCurrent g b)
      current).beginLiveAccess .walkStep g b).setWork (.walkStep u g b converted .writing)
  | .settlePass g b .wantRead => (s.beginLiveAccess .settlePass g b).setWork (.settlePass g b .reading)
  | .settlePass g b (.wantWrite home current found) =>
    ((s.writeLiveBucket g b home current (if found then some .settlePass else none)).beginLiveAccess .settlePass g
      b).setWork (.settlePass g b .writing)
  | .blockStep g position offset false =>
    (s.writeStagedBucket g position offset).setWork (.blockStep g position offset true)
  | .fix item .wantRead => (s.beginAccess .fix item.block item.offset).setWork (.fix item .reading)
  | .fix item (.wantWrite home current _) =>
    ((s.writeLiveBucket item.group item.bucket home current (some item.foundBy)).beginAccess .fix item.block
      item.offset).setWork (.fix item .writing)
  | _ => s

/-- The scrubber's access is granted. Its write touches the bucket only while the block is still free (log 38). -/
def State.grantScrub (s : State) (b : Burst) : State :=
  let k := s.store.scrubCursor
  match b.phase with
  | .wantRead => (s.beginAccess .scrubRead k b.offset).setBurst (some { b with phase := .reading })
  | .wantWrite =>
    let s := if s.owner k = .free then s.setBucket k b.offset Bucket.reset else s
    (s.beginAccess .scrubWrite k b.offset).setBurst (some { b with phase := .writing })
  | .reading => s
  | .writing => s

/-- The snapshot's read is granted. -/
def State.grantSnapshot (s : State) (r : SnapshotRecord) : State :=
  (s.beginAccess .snapshot (blockOf r.blocks r.next) (offsetOf r.next)).setSnapshot (some { r with reading := true })

/-- The class-3 requester that is granted when both wait: the one that did not have the last class-3 grant, and before
any class-3 grant either (R82; log 5). Also answers the counter of open orders. -/
def alternate (last : Option Background) (count : Nat) : Background × Nat :=
  match last with
  | some .scrubber => (.snapshot, count)
  | some .snapshot => (.scrubber, count)
  | none => (if Config.openOrder count % 2 = 0 then .scrubber else .snapshot, count + 1)

/-- A class-3 access is granted, and remembered as the last one. -/
def State.grantBackground (s : State) (b : Background) : State :=
  let s := { s with store := { s.store with lastBackground := some b } }
  match b with
  | .scrubber => match s.store.burst with | some u => s.grantScrub u | none => s
  | .snapshot => match s.store.snapshot with | some r => s.grantSnapshot r | none => s

/-- The next access of class 3, if one waits (R82). -/
def State.grantClass3 (s : State) : State :=
  match s.scrubWaits, s.snapshotWaits with
  | true, true =>
    let (b, count) := alternate s.store.lastBackground s.openCount
    State.grantBackground { s with openCount := count } b
  | true, false => s.grantBackground .scrubber
  | false, true => s.grantBackground .snapshot
  | false, false => s

/-- The arbiter grants the next access to the first class that has one waiting (R82). -/
def State.grantNext (s : State) : State :=
  if s.port.wantsAccess then
    match s.port.resolution with
    | some r => s.grantLookup r
    | none => s
  else if s.engineWaits then
    match s.engine.work with
    | some w => s.grantEngine w
    | none => s
  else s.grantClass3

/-- BUCKET_ACCESS_GRANT (R82): while no access is in progress, the next one is granted. -/
def execBucketAccessGrant (s : State) : Host.Outcome State Fault Refusal :=
  match s.store.access with
  | some _ => .next s
  | none => .next s.grantNext.settleArea

end Sys2Proof.Machine
end

