-- ==== Sys2Proof/Machine/Walk.lean ====
section
/-! DEFINITION. The Walk Engine: selection of work, walk steps, block steps, settle passes and fixes, with the commands
WORK_SELECT, WALK_STEP_ACCESS_DONE, BLOCK_STEP_WRITE_DONE, SETTLE_PASS_ACCESS_DONE and FIX_ACCESS_DONE (spec 07,
spec 08, spec 05). -/

namespace Sys2Proof.Machine

/-! ### Selection (R114, R118, R121, R122) -/

/-- The group that a walk's next step treats: the first of its uplink's list above the cursor (R114). -/
def nextGroup (l : List Nat) (cursor : Option Nat) : Option Nat :=
  match cursor with
  | none => l.head?
  | some c => l.find? (c < ·)

/-- The Walk Engine reports the end of an URGENT walk to the Uplink Monitor, where it becomes the walk result of a drill
that has none yet (R21, R118). -/
def State.reportWalk (s : State) (w : Walk) (cls : WalkClass) (duration : PartTime) : State :=
  match cls with
  | .restore => s
  | .urgent =>
    s.modifyUplink w.uplink fun r =>
      { r with drill := r.drill.map fun d =>
          { d with walkResult := some (d.walkResult.getD (w.bucketsMoved, duration)) } }

/-- A walk ends: it leaves its queue, WALK_DONE is produced, and the Uplink Monitor is told (R118). -/
def State.endWalk (s : State) (w : Walk) (cls : WalkClass) : State :=
  let s := match cls with
    | .urgent => { s with engine := { s.engine with urgent := s.engine.urgent.tail } }
    | .restore => { s with engine := { s.engine with restore := s.engine.restore.tail } }
  (s.produce (.walkDone w.uplink cls w.conversions w.groupsTouched w.bucketsMoved (s.now - w.start))).reportWalk w cls
    (s.now - w.start)

/-- The restore tally after a RESTORE step (R122). -/
def raiseTally (weight tally : Nat) : Nat := if tally < weight then tally + 1 else tally

/-- The state with the restore tally `n`. -/
def State.setTally (s : State) (n : Nat) : State := { s with engine := { s.engine with tally := n } }

/-- A walk step on a group begins (R114). -/
def State.beginStep (s : State) (w : Walk) (g : Nat) : State := s.setWork (.walkStep w.uplink g 0 false .wantRead)

/-- The item at the head of the intake queue is taken: the restore tally becomes 0 and the item leaves the queue (R119,
R122). A flip, and a settle pass of a group that is not LIVE, end in this event (R137, R140). -/
def State.takeIntake (s : State) (item : IntakeItem) : State :=
  let s := { s with engine := { s.engine with intake := s.engine.intake.tail, tally := 0 } }
  match item with
  | .blockStep g p => s.setWork (.blockStep g p 0 false)
  | .flip g => s.flip g
  | .settlePass g =>
    match s.liveRun g with
    | none => s
    | some _ => s.setWork (.settlePass g 0 .wantRead)
  | .fix g b =>
    match s.store.fixQueue.find? fun i => i.group == g && i.bucket == b with
    | none => s
    | some i =>
      State.setWork { s with store := { s.store with
          fixQueue := s.store.fixQueue.filter fun j => !(j.group == g && j.bucket == b) } }
        (.fix i .wantRead)

/-- Whether the next unit is the head RESTORE walk: it waits, and no intake item's turn has come (R121 rules 2, 3). -/
def WalkEngine.restoreTurn (e : WalkEngine) : Bool :=
  !e.restore.isEmpty && (e.intake.isEmpty || decide (e.tally < e.weight))

/-- Selection of the next unit (R121). A walk that ends takes no time and selection starts again, at most `fuel` times;
there are at most 32 walks. -/
def State.select : Nat → State → State
  | 0, s => s
  | fuel + 1, s =>
    match s.engine.urgent with
    | w :: _ =>
      match nextGroup (s.engine.index.get w.uplink) w.cursor with
      | some g => s.beginStep w g
      | none => State.select fuel (s.endWalk w .urgent)
    | [] =>
      if s.engine.restoreTurn then
        match s.engine.restore with
        | w :: _ =>
          match nextGroup (s.engine.index.get w.uplink) w.cursor with
          | some g => (s.setTally (raiseTally s.engine.weight s.engine.tally)).beginStep w g
          | none => State.select fuel (s.endWalk w .restore)
        | [] => s
      else
        match s.engine.intake with
        | item :: _ => s.takeIntake item
        | [] => s

/-- The walks in the agenda, and one selection more. -/
def State.selectFuel (s : State) : Nat := s.engine.urgent.length + s.engine.restore.length + 1

/-- WORK_SELECT (R121): while no unit is in progress, the engine selects one. -/
def execWorkSelect (s : State) : Host.Outcome State Fault Refusal :=
  match s.engine.work with
  | some _ => .next s
  | none => .next (s.select s.selectFuel).settleArea

/-! ### Walk steps (R115, R116) and settle passes (R140) -/

/-- The number of buckets of a group's live run; 0 without one. -/
def State.liveSize (s : State) (g : Nat) : Nat :=
  match s.liveRun g with
  | none => 0
  | some run => run.fields.bucketSize

/-- What the unit does with the bucket it has read: nothing, or a write (R63, R115). -/
def State.settleRead (s : State) (g b : Nat) (bucket : Bucket) : Option (Nat × Nat × Bool) :=
  match s.liveRun g with
  | none => none
  | some run => run.fields.rewrite s.isUp s.shadowed b bucket

/-- The acts at the end of a walk step or settle pass on a group: strandedness compared, then the recheck flag of a
pending rebuild set (R116 acts 1 and 2, R140). -/
def State.completePass (s : State) (g : Nat) : State := (s.compareStrandedness g).markRebuild g

/-- A walk step completes (R116). -/
def State.completeStep (s : State) (u : Fin 32) (g : Nat) (converted : Bool) : State :=
  ((s.completePass g).modifyWalk u fun w => w.stepped g converted).endWork

/-- The walk step goes on to the next bucket, or completes after the last (R115, R116). -/
def State.nextStepBucket (s : State) (u : Fin 32) (g b : Nat) (converted : Bool) : State :=
  if b + 1 < s.liveSize g then s.setWork (.walkStep u g (b + 1) converted .wantRead)
  else s.completeStep u g converted

/-- WALK_STEP_ACCESS_DONE (R115): a read is settled and written or passed over; a write leads to the next bucket. -/
def execWalkStepAccessDone (s : State) : Host.Outcome State Fault Refusal :=
  match s.accessOf .walkStep with
  | none => .next s
  | some a =>
    match a.wanted, s.engine.work with
    | true, some (.walkStep u g b converted .reading) =>
      match s.settleRead g b a.bucket with
      | some (home, current, found) =>
        .next (s.endAccess.setWork (.walkStep u g b converted (.wantWrite home current found)))
      | none => .next (s.endAccess.nextStepBucket u g b converted).settleArea
    | true, some (.walkStep u g b converted .writing) =>
      .next (s.endAccess.nextStepBucket u g b converted).settleArea
    | _, _ => .next s.endAccess

/-- The settle pass goes on to the next bucket, or ends after the last (R140). -/
def State.nextPassBucket (s : State) (g b : Nat) : State :=
  if b + 1 < s.liveSize g then s.setWork (.settlePass g (b + 1) .wantRead) else (s.completePass g).endWork

/-- SETTLE_PASS_ACCESS_DONE (R140). -/
def execSettlePassAccessDone (s : State) : Host.Outcome State Fault Refusal :=
  match s.accessOf .settlePass with
  | none => .next s
  | some a =>
    match a.wanted, s.engine.work with
    | true, some (.settlePass g b .reading) =>
      match s.settleRead g b a.bucket with
      | some (home, current, found) =>
        .next (s.endAccess.setWork (.settlePass g b (.wantWrite home current found)))
      | none => .next (s.endAccess.nextPassBucket g b).settleArea
    | true, some (.settlePass g b .writing) => .next (s.endAccess.nextPassBucket g b).settleArea
    | _, _ => .next s.endAccess

/-! ### Block steps (R134) -/

/-- A block step ends: progress advances, and the next block step or the flip joins the intake queue (R134). -/
def State.endBlockStep (s : State) (g p : Nat) : State :=
  match (s.group g).rebuild with
  | none => s.endWork
  | some b =>
    let last := decide (b.blocks.length ≤ p + 1)
    let s := s.setGroup g { s.group g with
      rebuild := some { b with progress := if last then .flip else .step (p + 1) } }
    { s with engine := { s.engine with
        work := none
        intake := s.engine.intake ++ [if last then IntakeItem.flip g else IntakeItem.blockStep g (p + 1)] } }

/-- BLOCK_STEP_WRITE_DONE (R134). -/
def execBlockStepWriteDone (s : State) : Host.Outcome State Fault Refusal :=
  match s.accessOf .blockStep with
  | none => .next s
  | some a =>
    match a.wanted, s.engine.work with
    | true, some (.blockStep g p o true) =>
      if o + 1 < Config.blockSize then .next (s.endAccess.setWork (.blockStep g p (o + 1) false))
      else .next (s.endAccess.endBlockStep g p)
    | _, _ => .next s.endAccess

/-! ### Fixes (R86) -/

/-- What a fix does with the bucket it has read: nothing when the owner has changed or the bucket is clean, and
otherwise the home and the member it writes (R86). -/
def State.fixRead (s : State) (item : FixItem) (bucket : Bucket) (owner : Owner) : Option (Nat × Nat) :=
  if owner = .run item.group (item.bucket / Config.blockSize) ∧ bucket.faulted = true then
    match s.liveRun item.group with
    | none => none
    | some run =>
      some (run.fields.homeOf item.bucket,
        (run.fields.settleFaulted s.isUp s.shadowed item.bucket).getD (run.fields.homeOf item.bucket))
  else none

/-- FIX_ACCESS_DONE (R86). -/
def execFixAccessDone (s : State) : Host.Outcome State Fault Refusal :=
  match s.accessOf .fix with
  | none => .next s
  | some a =>
    match a.wanted, s.engine.work with
    | true, some (.fix item .reading) =>
      match s.fixRead item a.bucket a.owner with
      | some (home, current) => .next (s.endAccess.setWork (.fix item (.wantWrite home current true)))
      | none => .next s.endAccess.endWork
    | true, some (.fix _ .writing) => .next s.endAccess.endWork
    | _, _ => .next s.endAccess

end Sys2Proof.Machine
end

