-- ==== Sys2Proof/Machine/Lookup.lean ====
section
/-! DEFINITION. The Resolution Port and lookup resolution: the commands LOSS_OF_LOCK, LOCK_REGAINED, HELLO, LOOKUP,
MESSAGE_DISCARD, MESSAGE_SENT, LOOKUP_TAKEN, LOOKUP_BUCKET_READ_DONE and ESCAPE_READ_DONE (spec 02, spec 06). -/

namespace Sys2Proof.Machine

/-! ### The link (R30 to R33) -/

/-- What a restart and a loss of lock both do: the queue and the lane emptied, the resolution abandoned, flow control
cleared, the link DOWN (R32, R33). -/
def Port.empty (p : Port) : Port :=
  { p with link := .down, queue := [], resolution := none, lane := [], paused := false, flow := .none }

/-- The Port's bucket accesses. -/
def Requester.isPort : Requester → Bool
  | .lookup => true
  | .escape => true
  | _ => false

/-- LOSS_OF_LOCK (R33). -/
def execLossOfLock (s : State) : Host.Outcome State Fault Refusal :=
  match s.port.lock with
  | .outOfLock => .next s
  | .inLock =>
    .next (State.discardAccess
      { s with port := { s.port.empty with lock := .outOfLock, answering := none, probes := [], sending := none } }
      Requester.isPort)

/-- LOCK_REGAINED (R30): the lock is IN_LOCK and the link stays DOWN. -/
def execLockRegained (s : State) : Host.Outcome State Fault Refusal :=
  match s.port.lock with
  | .inLock => .next s
  | .outOfLock => .next { s with port := { s.port with lock := .inLock, link := .down } }

/-- A HELLO arrives (R31); on a READY link it first restarts the link (R32). Nothing is received out of lock (R30). -/
def State.arriveHello (s : State) (version : Byte) : State :=
  match s.port.lock, s.port.link with
  | .outOfLock, _ => s
  | .inLock, .down => State.transmit { s with port := { s.port with answering := some version } }
  | .inLock, .ready =>
    (State.discardAccess { s with port := { s.port.empty with answering := some version } } Requester.isPort).transmit

/-- HELLO (R31, R32). -/
def execHello (version : Byte) (s : State) : Host.Outcome State Fault Refusal := .next (s.arriveHello version)

/-! ### The lookup queue (R35 to R37) -/

/-- The answers the lane may hold before a REFUSED answer is turned away: a place stays for a resolution in progress
(R35). -/
def Port.refusedRoom (p : Port) : Nat :=
  if p.resolution.isSome then Config.laneCapacity - 1 else Config.laneCapacity

/-- A lookup joins the queue, and pauses the pipeline at depth 48 (R35, R37). -/
def Port.join (p : Port) (l : Lookup) : Port :=
  if p.queue.length + 1 = Config.pauseDepth ∧ p.paused = false then
    { p with queue := p.queue ++ [l], paused := true, flow := .pause }
  else { p with queue := p.queue ++ [l] }

/-- A lookup that finds the queue full is answered REFUSED when the lane has room, and discarded otherwise (R35). -/
def Port.refuse (p : Port) (l : Lookup) : Port :=
  if p.lane.length < p.refusedRoom then
    { p with lane := p.lane ++ [{ tag := l.tag, outcome := .refused, uplink := 0, escaped := false }] }
  else p

/-- A LOOKUP arrives: discarded while the link is DOWN (R34), else queued, refused or discarded (R35). -/
def State.arriveLookup (s : State) (l : Lookup) : State :=
  match s.port.link with
  | .down => s
  | .ready =>
    if s.port.queue.length < Config.queueCapacity then State.transmit { s with port := s.port.join l }
    else State.transmit { s with port := s.port.refuse l }

/-- LOOKUP (R35). -/
def execLookup (tag : BitVec 6) (group : BitVec 16) (hash : BitVec 16) (s : State) :
    Host.Outcome State Fault Refusal := .next (s.arriveLookup { tag, group, hash })

/-- MESSAGE_DISCARD (R34): a message given as raw bytes is received while IN_LOCK, and discarded without effect when any
of R34's tests on its bytes holds; one that passes them is not this row's, and takes the effect of its own. -/
def execMessageDiscard (bytes : List Byte) (s : State) : Host.Outcome State Fault Refusal :=
  match s.port.lock, Arrival.parse bytes with
  | .outOfLock, _ => .next s
  | .inLock, none => .next s
  | .inLock, some (.hello version) => .next (s.arriveHello version)
  | .inLock, some (.lookup l) => .next (s.arriveLookup l)
  | .inLock, some (.probeIn uplink content) => .next (s.arriveProbe uplink content)

/-- The head lookup leaves the queue; at depth 24 a paused pipeline may proceed (R36, R37). -/
def Port.leave (p : Port) : Port :=
  let q := p.queue.tail
  if q.length = Config.proceedDepth ∧ p.paused = true then
    { p with queue := q, paused := false, flow := match p.flow with | .pause => .none | _ => .proceed }
  else { p with queue := q }

/-! ### The transmitter (R41) -/

/-- The message being sent has been sent in full (R31, R41). -/
def Port.sent (p : Port) : Port :=
  match p.sending with
  | none => p
  | some .hello =>
    if p.answering = some Config.linkVersion then { p with sending := none, answering := none, link := .ready }
    else { p with sending := none, answering := none, link := .down, probes := [] }
  | some .pause => { p with sending := none }
  | some .proceed => { p with sending := none }
  | some (.answer _) => { p with sending := none, lane := p.lane.tail }
  | some (.probe q) =>
    { p with sending := none, probes := if p.probes.head? = some q then p.probes.tail else p.probes }

/-- MESSAGE_SENT (R41): the message leaves its queue, and the transmitter takes the next. -/
def execMessageSent (s : State) : Host.Outcome State Fault Refusal :=
  match s.port.sending with
  | none => .next s
  | some _ => .next (State.transmit { s with port := s.port.sent })

/-! ### Taking a lookup (R94 to R99) -/

/-- What the taking view holds of a group. -/
def GroupRecord.view (r : GroupRecord) : GroupView := { state := r.state, live := r.live, pin := r.pin }

/-- The uplinks UP in a taking view. -/
def TakingView.isUp (v : TakingView) (u : Fin 32) : Bool := decide (v.states.get u = .up)

/-- The uplinks shadowed in a taking view. -/
def TakingView.isShadowed (v : TakingView) (u : Fin 32) : Bool := v.shadowed.get u

/-- Whether a group of a view is stranded: LIVE, and none of its members UP (R103). -/
def GroupView.stranded (g : GroupView) (up : Fin 32 → Bool) : Bool :=
  match g.live with
  | some run => run.fields.isStranded up
  | none => false

/-- The escape group's record, when the named group is stranded and has one (R94). -/
def State.escapeView (s : State) (r : GroupRecord) : Option GroupView :=
  match r.live with
  | some run =>
    if run.fields.isStranded s.isUp then run.fields.escape.map fun e => (s.group e).view else none
  | none => none

/-- The taking view of a lookup (R94). -/
def State.takingView (s : State) (l : Lookup) : TakingView where
  runState := s.control.runState
  groupCount := s.area.groupCount
  planMark := s.area.planMark
  group := (s.group l.group.toNat).view
  states := s.monitor.uplinks.map (·.state)
  shadowed := Vector.ofFn s.shadowed
  escape := s.escapeView (s.group l.group.toNat)

/-- The uplink that a group's pin answers with, when the pinned member is UP (R68, R99). -/
def GroupView.pinned (g : GroupView) (up : Fin 32 → Bool) : Option (Fin 32) :=
  match g.live, g.pin with
  | some run, some slot => (run.fields.uplinkOf slot).filter up
  | _, _ => none

/-- An answer with outcome UPLINK. -/
def Answer.to (tag : BitVec 6) (u : Fin 32) (escaped : Bool) : Answer := { tag, outcome := .uplink, uplink := u, escaped }

/-- An answer that names no uplink (R105). -/
def Answer.without (tag : BitVec 6) (outcome : AnswerOutcome) : Answer :=
  { tag, outcome, uplink := 0, escaped := false }

/-- The answer given at the taking by checks 1 to 5 of R95; `none` when a bucket is to be read. -/
def TakingView.atOnce (v : TakingView) (l : Lookup) : Option Answer :=
  if v.runState = .off then some (Answer.without l.tag .notReady)
  else if v.groupCount ≤ l.group.toNat then some (Answer.without l.tag .badGroup)
  else match v.group.state with
    | .unplanned => some (Answer.without l.tag (if v.planMark then .badGroup else .notReady))
    | .building => some (Answer.without l.tag .notReady)
    | .live => (v.group.pinned v.isUp).map fun u => Answer.to l.tag u false

/-- The resolution ends: its answer joins the tail of the lane and the lookup leaves the queue (R36, R94). -/
def State.answer (s : State) (a : Answer) : State :=
  let p := s.port.leave
  State.transmit { s with port := { p with resolution := none, lane := p.lane ++ [a] } }

/-- Whether the Port can begin the next resolution (R36). -/
def Port.canTake (p : Port) : Bool :=
  !p.queue.isEmpty && p.resolution.isNone && decide (p.lane.length < Config.laneCapacity)

/-- LOOKUP_TAKEN (R36, R94): the head lookup is taken, and answered at once or its bucket read requested. -/
def execLookupTaken (s : State) : Host.Outcome State Fault Refusal :=
  match s.port.canTake, s.port.queue with
  | true, l :: _ =>
    let v := s.takingView l
    match v.atOnce l with
    | some a => .next (s.answer a)
    | none =>
      .next { s with port := { s.port with resolution := some { lookup := l, view := v, phase := .wantRead } } }
  | _, _ => .next s

/-! ### Bucket reads of a lookup (R100 to R104) -/

/-- Whether the block read still belongs to the run of the taking view (R100). -/
def ownerMatches (g b : Nat) (a : BucketAccess) : Bool := decide (a.owner = .run g (b / Config.blockSize))

/-- The member that a bucket read settles to under the taking view (R100 to R102). -/
def TakingView.settleRead (v : TakingView) (run : LiveRun) (g b : Nat) (a : BucketAccess) : Option Nat :=
  if ownerMatches g b a && !a.bucket.faulted then
    run.fields.settle v.isUp v.isShadowed b a.bucket.home a.bucket.current
  else run.fields.settleFaulted v.isUp v.isShadowed b

/-- A fault found by a lookup in a block that still belongs to the run is offered for fix (R102). -/
def State.offerLookupFix (s : State) (run : LiveRun) (g b : Nat) (a : BucketAccess) : State :=
  if ownerMatches g b a && a.bucket.faulted then
    s.offerFix { group := g, bucket := b, block := blockOf run.blocks b, offset := offsetOf b, foundBy := .lookup }
  else s

/-- The answer for a settled member: its uplink, or NO_ROUTE for no member (R101, R103). -/
def settledAnswer (tag : BitVec 6) (run : LiveRun) (member : Option Nat) (escaped : Bool) : Answer :=
  match member.bind run.fields.uplinkOf with
  | some u => Answer.to tag u escaped
  | none => Answer.without tag .noRoute

/-- The answer for a stranded group by its escape group, or the second read (R103, R104). -/
def State.resolveEscape (s : State) (r : Resolution) : State :=
  match r.view.escape with
  | none => s.answer (Answer.without r.lookup.tag .noRoute)
  | some e =>
    match e.live with
    | none => s.answer (Answer.without r.lookup.tag .noRoute)
    | some run =>
      if run.fields.isStranded r.view.isUp then s.answer (Answer.without r.lookup.tag .noRoute)
      else match e.pinned r.view.isUp with
        | some u => s.answer (Answer.to r.lookup.tag u true)
        | none => { s with port := { s.port with resolution := some { r with phase := .wantEscape } } }

/-- The first bucket read of a resolution completes (R101 to R103). -/
def State.finishRead (s : State) (r : Resolution) (a : BucketAccess) : State :=
  match r.view.group.live with
  | none => s
  | some run =>
    let g := r.lookup.group.toNat
    let b := selectBucket run r.lookup.hash
    let s := s.offerLookupFix run g b a
    if run.fields.isStranded r.view.isUp then s.resolveEscape r
    else s.answer (settledAnswer r.lookup.tag run (r.view.settleRead run g b a) false)

/-- LOOKUP_BUCKET_READ_DONE (R101). -/
def execLookupBucketReadDone (s : State) : Host.Outcome State Fault Refusal :=
  match s.accessOf .lookup with
  | none => .next s
  | some a =>
    match a.wanted, s.port.resolution with
    | true, some r => .next (s.endAccess.finishRead r a)
    | _, _ => .next s.endAccess

/-- The escape group that the taking view's named group names. -/
def Resolution.escapeGroup (r : Resolution) : Nat :=
  match r.view.group.live with
  | some run => run.fields.escape.getD 0
  | none => 0

/-- The second bucket read of a resolution completes (R104). -/
def State.finishEscape (s : State) (r : Resolution) (a : BucketAccess) : State :=
  match r.view.escape.bind (·.live) with
  | none => s
  | some run =>
    let g := r.escapeGroup
    let b := selectBucket run r.lookup.hash
    (s.offerLookupFix run g b a).answer (settledAnswer r.lookup.tag run (r.view.settleRead run g b a) true)

/-- ESCAPE_READ_DONE (R104). -/
def execEscapeReadDone (s : State) : Host.Outcome State Fault Refusal :=
  match s.accessOf .escape with
  | none => .next s
  | some a =>
    match a.wanted, s.port.resolution with
    | true, some r => .next (s.endAccess.finishEscape r a)
    | _, _ => .next s.endAccess

end Sys2Proof.Machine
end

