-- ==== Sys2Proof/Machine/Sweep.lean ====
section
/-! DEFINITION. Sweeps, plan rows and order slots: the commands SWEEP_TIMER_EXPIRY, ROW_READ_DONE,
ORDER_SLOT_READ_DONE, the seven orders, SLOT_RESULT_WRITTEN, SLOT_STATE_WRITTEN and STATUS_PAGE_WRITE_DONE (spec 09;
spec 10, R163). Run states are entered in this file where a sweep end or a page end enters them. -/

namespace Sys2Proof.Machine

/-! ### Starting a sweep (R146 to R148) -/

/-- The state with the sweep record `r`. -/
def State.setSweep (s : State) (r : Option SweepRecord) : State := { s with area := { s.area with sweep := r } }

/-- The state with the sweep record, if any, changed. -/
def State.modifySweep (s : State) (f : SweepRecord → SweepRecord) : State := s.setSweep (s.area.sweep.map f)

/-- The sweep goes on to a phase, requesting its access. -/
def State.sweepTo (s : State) (phase : SweepPhase) (a : AreaAccess) : State :=
  (s.modifySweep fun r => { r with phase }).request a

/-- A sweep starts (R146). -/
def State.startSweep (s : State) : State :=
  let number := s.area.sweepNumber + 1
  State.request
    { s with area := { s.area with
        sweepNumber := number
        sweep := some { number, start := s.now, reporting := decide (s.control.mode = .onDemand), handedOver := 0,
                        rejected := 0, torn := 0, deferred := 0, orders := 0, allUnchanged := true,
                        phase := .uplinkRow 0 } } }
    (.rowRead (.uplink 0))

/-- The sweep period (R147). -/
def State.sweepPeriod (s : State) : Nat := 100 * s.control.sweepPer

/-- The sweep timer is started at now (R147). -/
def State.startSweepTimer (s : State) : State :=
  { s with area := { s.area with sweepTimer := some (after s.now s.sweepPeriod) } }

/-- A sweep starts, or the due mark is set while one is in progress (R147, R148). -/
def State.sweepOrDue (s : State) : State :=
  match s.area.sweep with
  | some _ => { s with area := { s.area with dueMark := true } }
  | none => s.startSweep

/-- SWEEP_TIMER_EXPIRY (R147): the timer starts again, and a sweep starts or the due mark is set. -/
def execSweepTimerExpiry (s : State) : Host.Outcome State Fault Refusal :=
  if s.area.sweepTimer = some s.now then .next s.startSweepTimer.sweepOrDue.settleArea else .next s

/-! ### CONVERGED and the status page (R154, R163) -/

/-- Whether some group has a pending rebuild. -/
def State.anyRebuild (s : State) : Bool := s.groups.any fun e => e.2.rebuild.isSome

/-- CONVERGED as decided at the status page step (R154). -/
def State.decideConverged (s : State) (r : SweepRecord) : Bool :=
  r.allUnchanged && r.torn == 0 && r.deferred == 0 && r.rejected == 0 && !s.anyRebuild

/-- CONVERGED is decided and the status page begins (R146 step 5, R154). -/
def State.beginPage (s : State) (r : SweepRecord) : State :=
  State.sweepTo { s with area := { s.area with converged := s.decideConverged r } } (.page 0) (.pageWrite 0)

/-- Whether the flush has nothing left to write: no journal access is in progress, and no record waits or the blocked
mark is set again (R146 step 4, R158; log 11). -/
def State.flushed (s : State) : Bool := s.area.writer == .idle && (s.area.holding.isEmpty || s.area.blocked)

/-- A sweep at its flush step goes on to the status page once the flush has ended (R146). -/
def State.resumeFlush (s : State) : State :=
  match s.area.sweep with
  | some r => if r.phase = .flush ∧ s.flushed = true then s.beginPage r else s
  | none => s

/-- The flush step begins: the blocked mark is cleared, and the writer retries the head of the holding queue at the end
of this event. The step ends at once when no record waits (R146 step 4, R158; log 11). -/
def State.beginFlush (s : State) : State :=
  State.resumeFlush { s with area := { s.area with
    blocked := false, sweep := s.area.sweep.map fun r => { r with phase := .flush } } }

/-- The sweep goes on after an order slot: to the next one, or to the flush (R146). -/
def State.afterSlot (s : State) (k : Fin 16) : State :=
  if h : k.val + 1 < 16 then s.sweepTo (.slotRead ⟨k.val + 1, h⟩) (.slotRead ⟨k.val + 1, h⟩) else s.beginFlush

/-- The sweep goes on after a row (R146). -/
def State.afterRow (s : State) : RowId → State
  | .uplink u =>
    if h : u.val + 1 < 32 then s.sweepTo (.uplinkRow ⟨u.val + 1, h⟩) (.rowRead (.uplink ⟨u.val + 1, h⟩))
    else if 0 < s.area.groupCount then s.sweepTo (.groupRow 0) (.rowRead (.group 0))
    else s.sweepTo (.slotRead 0) (.slotRead 0)
  | .group g =>
    if g + 1 < s.area.groupCount then s.sweepTo (.groupRow (g + 1)) (.rowRead (.group (g + 1)))
    else s.sweepTo (.slotRead 0) (.slotRead 0)

/-! ### Rows (R151 to R153) -/

/-- What the Area Interface holds for a row. -/
def State.rowMemory (s : State) : RowId → RowMemory
  | .uplink u => s.area.uplinkRows.get u
  | .group g => Sparse.get RowMemory.reset s.area.groupRows g

/-- The state with the memory `m` for a row. -/
def State.setRowMemory (s : State) (row : RowId) (m : RowMemory) : State :=
  match row with
  | .uplink u => { s with area := { s.area with uplinkRows := s.area.uplinkRows.set u m } }
  | .group g => { s with area := { s.area with groupRows := Sparse.set RowMemory.reset s.area.groupRows g m } }

/-- The live generation that a row is compared with (spec 09, §9.3). -/
def State.liveGeneration (s : State) : RowId → Generation
  | .uplink u => (s.uplink u).generation
  | .group g => (s.group g).liveGeneration

/-- The sweep record of a sweep that has seen a row that was not unchanged (R154). -/
def SweepRecord.changed (r : SweepRecord) : SweepRecord := { r with allUnchanged := false }

/-- A torn row is skipped, and rejected with TORN at the eighth torn read (R151 case 1). -/
def State.tornRow (s : State) (row : RowId) (head tail : Generation) : State :=
  let m := s.rowMemory row
  let s := s.modifySweep fun r => { r.changed with torn := r.torn + 1 }
  if m.tornCount + 1 < Config.tornLimit then s.setRowMemory row { m with tornCount := m.tornCount + 1 }
  else
    ((s.setRowMemory row { m with tornCount := 0 }).modifySweep fun r => { r with rejected := r.rejected + 1 }).produce
      (.rowRejected row .torn head tail 0)

/-- A changed row is rejected (R152). -/
def State.rejectRow (s : State) (row : RowId) (generation : Generation) (why : Rejection) : State :=
  ((s.setRowMemory row { tornCount := 0, lastRejected := some generation }).modifySweep fun r =>
    { r with rejected := r.rejected + 1 }).produce
      (.rowRejected row why.reason generation (BitVec.ofNat 32 why.detail1) (BitVec.ofNat 32 why.detail2))

/-- A row handed over counts and its last rejected generation becomes absent (R153). -/
def State.countHandOver (s : State) (row : RowId) : State :=
  (s.setRowMemory row RowMemory.reset).modifySweep fun r => { r with handedOver := r.handedOver + 1 }

/-- A group row rejected for room counts as rejected, and its generation is remembered (R153). -/
def State.countRoomReject (s : State) (row : RowId) (generation : Generation) : State :=
  (s.setRowMemory row { tornCount := 0, lastRejected := some generation }).modifySweep fun r =>
    { r with rejected := r.rejected + 1 }

/-- Whether the run state is STARTING after START_ADOPT, its first sweep not ended: the headless reason stands there,
and is absent after START_FRESH (R124, R147, R154, R165). -/
def State.resuming (s : State) : Bool := s.control.runState == .starting && s.control.headlessReason.isSome

/-- Whether a row that passes its checks is not handed over: never but in the first sweep after START_ADOPT, where R124
and R153 disagree and a free value says which holds (log 47). -/
def State.passesOver (s : State) : Bool := s.resuming && !Config.adoptsInFirstSweep

/-- A changed row is checked, and rejected or handed over to its owner at once (R152, R153). In the first sweep after
START_ADOPT a free value says whether rows are handed over, as R153, or none is adopted, as R124 (log 47); one that is
not handed over is left as it is for the next sweep (log 57). -/
def State.checkRow (s : State) (row : RowId) (generation : Generation) (bytes : List Byte) : State :=
  match row with
  | .uplink u =>
    match checkUplinkRow bytes with
    | .error why => s.rejectRow row generation why
    | .ok r => if s.passesOver then s else (s.countHandOver row).adoptUplinkRow u r generation
  | .group g =>
    match checkGroupRow s.area.groupCount g bytes with
    | .error why => s.rejectRow row generation why
    | .ok fields =>
      if s.passesOver then s
      else match s.adoptGroupRow g fields generation with
      | (t, true) => t.countHandOver row
      | (t, false) => t.countRoomReject row generation

/-- A changed row is deferred under HOLD, and otherwise checked (R149, R151 case 4). -/
def State.changedRow (s : State) (row : RowId) (generation : Generation) (bytes : List Byte) : State :=
  let s := (s.setRowMemory row { s.rowMemory row with tornCount := 0 }).modifySweep SweepRecord.changed
  if s.control.hold then s.modifySweep fun r => { r with deferred := r.deferred + 1 }
  else s.checkRow row generation bytes

/-- A row read is treated by the first case of R151 that applies. -/
def State.treatRow (s : State) (row : RowId) (bytes : List Byte) : State :=
  let head := headGeneration bytes
  if head ≠ tailGeneration bytes then s.tornRow row head (tailGeneration bytes)
  else if head = s.liveGeneration row then s.setRowMemory row RowMemory.reset
  else if (s.rowMemory row).lastRejected = some head then
    (s.setRowMemory row { s.rowMemory row with tornCount := 0 }).modifySweep SweepRecord.changed
  else s.changedRow row head bytes

/-- ROW_READ_DONE (R151): the row is treated, and the sweep goes on. -/
def execRowReadDone (bytes : List Byte) (s : State) : Host.Outcome State Fault Refusal :=
  if bytes.length ≠ 128 then .refused .illFormed
  else match s.inFlight with
    | some (.rowRead row) => .next ((s.endFlight.treatRow row bytes).afterRow row).settleArea
    | _ => .next s

/-! ### Order slots (R155) -/

/-- A posted order whose check and kind hold is taken: TAKEN is written, the hold set and the order counted. -/
def State.takeOrder (s : State) (o : OrderInHand) : State :=
  let s := { s with area := { s.area with
      slotHolds := s.area.slotHolds.set o.slot (some o.kind), taking := some o } }
  (s.modifySweep fun r => { r with orders := r.orders + 1 }).sweepTo (.slotTaken o.slot) (.takenWrite o.slot)

/-- After a completion made for a slot in the sweep: the sweep waits for it to be written, or goes on when it was
reported by ORDER_ENDED or is not made yet (R155). It waits so for a completion of BAD_CHECK or BAD_KIND too (log
52). -/
def State.awaitSlot (s : State) (k : Fin 16) : State :=
  if (s.completion k).isSome then s.modifySweep fun r => { r with phase := .slotWrite k } else s.afterSlot k

/-- A slot that reads POSTED and is not held: the order is failed with BAD_CHECK or BAD_KIND, or taken (R155). -/
def State.postedSlot (s : State) (k : Fin 16) (bytes : List Byte) : State :=
  if !slotCheck bytes then (s.completeUntaken k (bytes.getD 0 0) .badCheck).awaitSlot k
  else match OrderKind.ofCode (byteAt bytes 0) with
    | none => (s.completeUntaken k (bytes.getD 0 0) .badKind).awaitSlot k
    | some kind => s.takeOrder (orderOf k kind bytes)

/-- A slot read is treated by its hold and its state (R155). A state byte above 4 is not POSTED, and the slot is skipped
(log 43). -/
def State.treatSlot (s : State) (k : Fin 16) (bytes : List Byte) : State :=
  if (s.area.slotHolds.get k).isSome || !slotPosted bytes then s.afterSlot k else s.postedSlot k bytes

/-- ORDER_SLOT_READ_DONE (R155). -/
def execOrderSlotReadDone (bytes : List Byte) (s : State) : Host.Outcome State Fault Refusal :=
  if bytes.length ≠ 64 then .refused .illFormed
  else match s.inFlight with
    | some (.slotRead k) => .next (s.endFlight.treatSlot k bytes).settleArea
    | _ => .next s

/-! ### Hand-over of orders (R155) -/

/-- The order of a kind whose TAKEN write is in progress. -/
def State.orderTaken (s : State) (kind : OrderKind) : Option OrderInHand :=
  match s.inFlight with
  | some (.takenWrite _) => s.area.taking.filter fun o => o.kind == kind
  | _ => none

/-- The TAKEN write has completed: the access ends and the order leaves the Area Interface's hand. -/
def State.endTaken (s : State) : State := { s with area := { s.area with flight := none, taking := none } }

/-- An order is handed to its owner `take`, and the sweep goes on as R155 gives. -/
def State.handOver (s : State) (o : OrderInHand) (take : State → OrderInHand → State) : State :=
  ((take s.endTaken o).awaitSlot o.slot).settleArea

/-- DRILL_START (R20). -/
def execDrillStart (s : State) : Host.Outcome State Fault Refusal :=
  match s.orderTaken .drillStart with
  | some o => .next (s.handOver o State.takeDrillStart)
  | none => .next s

/-- DRILL_END (R24). -/
def execDrillEnd (s : State) : Host.Outcome State Fault Refusal :=
  match s.orderTaken .drillEnd with
  | some o => .next (s.handOver o State.takeDrillEnd)
  | none => .next s

/-- RELEASE (R19). -/
def execRelease (s : State) : Host.Outcome State Fault Refusal :=
  match s.orderTaken .release with
  | some o => .next (s.handOver o State.takeRelease)
  | none => .next s

/-- PIN (R69). -/
def execPin (s : State) : Host.Outcome State Fault Refusal :=
  match s.orderTaken .pin with
  | some o => .next (s.handOver o State.takePin)
  | none => .next s

/-- UNPIN (R70). -/
def execUnpin (s : State) : Host.Outcome State Fault Refusal :=
  match s.orderTaken .unpin with
  | some o => .next (s.handOver o State.takeUnpin)
  | none => .next s

/-- CONDUIT_CLEAR (R46). -/
def execConduitClear (s : State) : Host.Outcome State Fault Refusal :=
  match s.orderTaken .conduitClear with
  | some o => .next (s.handOver o State.takeConduitClear)
  | none => .next s

/-- SNAPSHOT (R90). -/
def execSnapshot (s : State) : Host.Outcome State Fault Refusal :=
  match s.orderTaken .snapshot with
  | some o => .next (s.handOver o State.takeSnapshot)
  | none => .next s

/-! ### Completions written (R156) -/

/-- SLOT_RESULT_WRITTEN (R156): the write of the slot state follows. -/
def execSlotResultWritten (s : State) : Host.Outcome State Fault Refusal :=
  match s.inFlight with
  | some (.slotResult k) => .next (s.endFlight.request (.slotState k)).settleArea
  | _ => .next s

/-- A completion has been written: it is forgotten with its slot hold (R156). -/
def State.closeCompletion (s : State) (k : Fin 16) : State :=
  let s := s.dropHold k
  { s with area := { s.area with completions := s.area.completions.filter fun c => !(c.slot == k) } }

/-- The sweep goes on when it was waiting for the completion of a slot (R155). -/
def State.resumeSweep (s : State) (k : Fin 16) : State :=
  match s.area.sweep with
  | some r => if r.phase = .slotWrite k then s.afterSlot k else s
  | none => s

/-- SLOT_STATE_WRITTEN (R156): the slot hold becomes absent. -/
def execSlotStateWritten (s : State) : Host.Outcome State Fault Refusal :=
  match s.inFlight with
  | some (.slotState k) => .next ((s.endFlight.closeCompletion k).resumeSweep k).settleArea
  | _ => .next s

/-! ### The end of the page and of the sweep (R154, R160, R161) -/

/-- The run state STARTING becomes RUNNING at a sweep end, and the sweep timer starts in mode CONTINUOUS (R147,
R154). -/
def State.enterRunning (s : State) : State :=
  if s.control.runState = .starting then
    let s := { s with control := { s.control with runState := .running } }
    if s.control.mode = .continuous then s.startSweepTimer else s
  else s

/-- NEWS is set when the news mark is, and the news mark is cleared (R161). -/
def State.decideNews (s : State) : State :=
  let t : State := { s with area := { s.area with newsMark := false } }
  if s.area.newsMark then t.setCause .news else t

/-- SWEEP_DONE is produced and set when the reporting mark is set (R154). -/
def State.reportSweep (s : State) (r : SweepRecord) : State :=
  if r.reporting then
    (s.produce (.sweepDone r.number r.start (s.now - r.start) r.handedOver r.rejected r.torn r.deferred r.orders
      s.area.converged)).setCause .sweepDone
  else s

/-- A sweep starts at once if the due mark is set (R148). -/
def State.startDueSweep (s : State) : State :=
  if s.area.dueMark then State.startSweep { s with area := { s.area with dueMark := false } } else s

/-- The acts of a sweep end (R154), the sweep record removed (R146). -/
def State.endSweep (s : State) (r : SweepRecord) : State :=
  let s := { s with area := { s.area with planMark := true, sweep := none } }
  ((s.enterRunning.decideNews).reportSweep r).startDueSweep

/-- RESUMED is placed at the head of the holding queue; when 16 records wait, the one at the tail is dropped into the
gap to make room (R160). -/
def State.produceResumed (s : State) : State :=
  let dropped : State :=
    if s.area.holding.length < Config.holdingCapacity then s
    else
      let t : State := { s with area := { s.area with
          holding := s.area.holding.dropLast
          gapCount := saturate 65535 s.area.gapCount
          firstDrop := if s.area.gapCount = 0 then some s.now else s.area.firstDrop
          lastDrop := some s.now } }
      if s.area.gapCount = 0 then t.setCause .gap else t
  let record : Record :=
    { time := s.now
      entry := .resumed s.control.headlessReason dropped.area.gapCount
        (spanMs (s.control.headlessSince.getD s.now) s.now) }
  { dropped with area := { dropped.area with holding := record :: dropped.area.holding } }

/-- The page of START_ADOPT has been written: RESUMED is produced and the run state becomes STARTING (R160, R165). -/
def State.finishAdopt (s : State) : State :=
  let s := State.produceResumed { s with area := { s.area with adoptPage := false } }
  { s with control := { s.control with runState := .starting } }

/-- The page's last write has completed: it was a sweep's page, or START_ADOPT's. -/
def State.endPage (s : State) : State :=
  if s.area.adoptPage then s.finishAdopt
  else match s.area.sweep with
    | some r => s.endSweep r
    | none => s

/-- The page goes on to its next write. -/
def State.nextPage (s : State) (part : Nat) : State :=
  (s.modifySweep fun r => { r with phase := .page part }).request (.pageWrite part)

/-- Whether the page being written is still to be written: START_ADOPT's, or a sweep's. After a START command or CLEAR
taken during START_ADOPT's page nothing follows the write in progress (R145; log 16). -/
def State.pageWanted (s : State) : Bool := s.area.adoptPage || s.area.sweep.isSome

/-- STATUS_PAGE_WRITE_DONE (R163). -/
def execStatusPageWriteDone (s : State) : Host.Outcome State Fault Refusal :=
  match s.inFlight with
  | some (.pageWrite part) =>
    if !s.pageWanted then .next s.endFlight.settleArea
    else if part < lastPagePart s.area.groupCount then .next (s.endFlight.nextPage (part + 1)).settleArea
    else .next s.endFlight.endPage.settleArea
  | _ => .next s

end Sys2Proof.Machine
end

