-- ==== Sys2Proof/Machine/Control.lean ====
section
/-! DEFINITION. Run Control and the journal writer: entry into HEADLESS, resets, the RUN_CTRL commands, the register
accesses, and the commands JOURNAL_KIND_READ_DONE, JOURNAL_BODY_WRITTEN, JOURNAL_KIND_WRITTEN, AREA_FAULT,
HEADER_READ_DONE, LINK_RESET and POWER_ON_RESET (spec 10, spec 11). -/

namespace Sys2Proof.Machine

/-! ### Abandonment and entry into HEADLESS (R150, R166, R167) -/

/-- The order whose TAKEN write is abandoned is not handed over: it is reported FAILED with ABANDONED (R156; log 14). -/
def State.abandonTaking (s : State) : State :=
  match s.area.taking with
  | none => s
  | some o =>
    (State.dropHold { s with area := { s.area with taking := none } } o.slot).reportEnded (some o.slot) o.kind.byte true
      .abandoned Results.zero

/-- A completion whose writes are abandoned is reported by ORDER_ENDED with its slot (R150, R156). -/
def State.abandonCompletion (s : State) (c : Completion) : State :=
  (s.closeCompletion c.slot).reportEnded (some c.slot) c.kind c.failed c.reason c.results

/-- The completion that the sweep is waiting for, if any. -/
def State.sweepCompletion (s : State) : Option Completion :=
  match s.area.sweep with
  | some r => match r.phase with
    | .slotWrite k => s.completion k
    | _ => none
  | none => none

/-- Whether an area access is the sweep's own, given the slot whose completion it is waiting for. -/
def AreaAccess.isSweep (waitsFor : Option (Fin 16)) : AreaAccess → Bool
  | .rowRead _ => true
  | .slotRead _ => true
  | .takenWrite _ => true
  | .pageWrite _ => true
  | .slotResult k => waitsFor == some k
  | .slotState k => waitsFor == some k
  | .headerRead => false
  | .journalKindRead => false
  | .journalBody => false
  | .journalKind => false
  | .snapshotEntry _ _ _ _ => false

/-- A sweep in progress is abandoned: its access is abandoned, and its record removed (R150). -/
def State.abandonSweep (s : State) : State :=
  match s.area.sweep with
  | none => s
  | some _ =>
    let waited := s.sweepCompletion
    let s := ((s.dropAccesses (AreaAccess.isSweep (waited.map (·.slot)))).setSweep none).abandonTaking
    match waited with
    | some c => s.abandonCompletion c
    | none => s

/-- Every area access, in progress or waiting, is abandoned with its operation: completions are reported by ORDER_ENDED,
and a record being written stays at the head of the queue (R158, R167, R168; log 15). -/
def State.abandonArea (s : State) : State :=
  let s := s.area.completions.foldl State.abandonCompletion s
  { s with area := { s.area with
      writer := .idle, stopTry := none, startCommand := none, adoptPage := false
      flight := none, waiting := [], requested := [] } }

/-- The sweep timer stops and the due mark is cleared (R147, R148, R157). -/
def State.stopSweeps (s : State) : State := { s with area := { s.area with sweepTimer := none, dueMark := false } }

/-- The run state becomes HEADLESS: the sweep, the snapshot and every area access are abandoned (R150, R92, R167). -/
def State.enterHeadless (s : State) (reason : HeadlessReason) : State :=
  let s := s.abandonSweep.abandonSnapshot.abandonArea.stopSweeps
  { s with control := { s.control with
      runState := .headless, headlessReason := some reason, headlessSince := some s.now } }

/-! ### The journal writer (R158, R159, R166) -/

/-- The STOPPED record is tried: once no journal access is in progress, it is written when the queue is empty, the
blocked mark clear and the slot EMPTY, and discarded otherwise; then the run state becomes HEADLESS (R166). A journal
write in flight at STOP runs to its end, where R160's table differs (log 45). -/
def State.tryStopped (s : State) (t : StopTry) : State :=
  if s.area.writer ≠ .idle then s
  else if s.area.holding.isEmpty && !s.area.blocked then
    State.request { s with area := { s.area with writer := .kindRead, stopTry := some { t with begun := true } } }
      .journalKindRead
  else s.enterHeadless .stop

/-- A STOPPED record waiting for the journal access in progress is tried when that has ended (R166). -/
def State.retryStopped (s : State) : State :=
  match s.area.stopTry with
  | some t => s.tryStopped t
  | none => s

/-- Whether the journal access in progress is the STOPPED record's own. -/
def State.stopping (s : State) : Bool := s.area.stopTry.any (·.begun)

/-- The slot at the write position is not EMPTY: the record stays at the head and the blocked mark is set, and a STOPPED
record is discarded (R158, R166). -/
def State.slotNotEmpty (s : State) : State :=
  if s.stopping then s.enterHeadless .stop
  else State.retryStopped { s with area := { s.area with writer := .idle, blocked := true } }

/-- JOURNAL_KIND_READ_DONE (R158). -/
def execJournalKindReadDone (kind : Byte) (s : State) : Host.Outcome State Fault Refusal :=
  match s.inFlight with
  | some .journalKindRead =>
    if kind = 0 then
      .next (State.request { s.endFlight with area := { s.endFlight.area with writer := .body } }
        .journalBody).settleArea
    else .next s.endFlight.slotNotEmpty.resumeFlush.settleArea
  | _ => .next s

/-- JOURNAL_BODY_WRITTEN (R158). -/
def execJournalBodyWritten (s : State) : Host.Outcome State Fault Refusal :=
  match s.inFlight with
  | some .journalBody =>
    .next (State.request { s.endFlight with area := { s.endFlight.area with writer := .kind } }
      .journalKind).settleArea
  | _ => .next s

/-- The write position after a record, wrapping from J − 1 to 0 (R158). -/
def nextPosition (journalLength position : Nat) : Nat :=
  if position + 1 < journalLength then position + 1 else 0

/-- When a write empties the queue while the gap count is not 0, a GAP record is produced and the gap closed (R159). -/
def State.closeGap (s : State) : State :=
  if s.area.holding.isEmpty && s.area.gapCount != 0 then
    State.produce { s with area := { s.area with gapCount := 0, firstDrop := none, lastDrop := none } }
      (.gap s.area.gapCount s.area.firstDrop s.area.lastDrop)
  else s

/-- A record has been written: the position advances and the news mark is set (R158, R161). -/
def State.advanceJournal (s : State) : State :=
  { s with area := { s.area with
      writer := .idle, newsMark := true, position := nextPosition s.area.journalLength s.area.position } }

/-- The record at the head of the holding queue has been written (R158, R159). -/
def State.recordWritten (s : State) : State :=
  State.closeGap { s.advanceJournal with area := { s.advanceJournal.area with holding := s.area.holding.tail } }

/-- JOURNAL_KIND_WRITTEN (R158): the record leaves the queue, or the STOPPED record is written and the run state becomes
HEADLESS (R166). -/
def execJournalKindWritten (s : State) : Host.Outcome State Fault Refusal :=
  match s.inFlight with
  | some .journalKind =>
    if s.stopping then .next (s.endFlight.advanceJournal.enterHeadless .stop).settleArea
    else .next s.endFlight.recordWritten.retryStopped.resumeFlush.settleArea
  | _ => .next s

/-! ### Resets (R29, R51, R73, R93, R125, R157, R160, R169) -/

/-- The light timer that the level of a line starts when the light is LOST: 50 µs for a deasserted line (R3). -/
def startLightTimer (now : PartTime) (asserted : Bool) : Option PartTime :=
  if asserted then none else some (after now UplinkParams.default.lightDebounce)

/-- The Uplink Monitor's reset values; the lines are inputs (R29). -/
def Monitor.clear (m : Monitor) (now : PartTime) : Monitor :=
  { m with uplinks := Vector.ofFn fun u =>
      { UplinkRecord.reset with lightTimer := startLightTimer now (m.lines.get u) } }

/-- The Bucket Store's CLEAR values (R93). An access in progress runs to its end, its result discarded unless it is a
lookup's (R82, R106, R127); the last class-3 grant is kept (log 34). -/
def BucketStore.clear (b : BucketStore) (now : PartTime) : BucketStore :=
  { BucketStore.reset with
    access := b.access.map fun a => if a.requester.isPort then a else { a with wanted := false }
    lastBackground := b.lastBackground
    scrubTimer := after now (1000 * Config.defaultScrubInterval) }

/-- The Area Interface's CLEAR values (R157, R160). The base in use is kept, and used by no access until the next START
command takes it anew; an access in progress runs to its end (R145). -/
def AreaInterface.clear (a : AreaInterface) : AreaInterface :=
  { AreaInterface.reset with base := a.base, flight := a.flight }

/-- Every block's live state takes its CLEAR values; the Resolution Port and the registers are kept (R42, R165). -/
def State.clearLive (s : State) : State :=
  { s with
    monitor := s.monitor.clear s.now
    conduits := ConduitTable.reset
    groups := []
    store := s.store.clear s.now
    engine := WalkEngine.reset
    area := s.area.clear
    control := { s.control with headlessReason := none, headlessSince := none } }

/-- The device at power-on: reset values, with the lines, the lock and the two output views kept, and the light timers
as R3 gives from the lines (R3, R42, R169; log 4). The message being sent is cut off (log 39), and so are a bucket
access, a burst and an area access in progress (log 51). -/
def State.powerOn (s : State) : State :=
  { State.reset with
    monitor := s.monitor.clear 0
    port := { Port.reset with lock := s.port.lock }
    control := { RunControl.reset with readData := s.control.readData, interruptsSent := s.control.interruptsSent }
    openCount := s.openCount
    pending := s.pending }

/-- POWER_ON_RESET (R169). -/
def execPowerOnReset (s : State) : Host.Outcome State Fault Refusal := .next s.powerOn

/-- The registers at their defaults (R169). -/
def RunControl.linkReset (c : RunControl) : RunControl :=
  { c with areaLo := 0, areaHi := 0, cause := 0, causeEn := 0, sweepPer := Config.defaultSweepPer,
           mode := .continuous, hold := false, lastRefused := 0 }

/-- A START command's header read or page write is abandoned while OFF or HEADLESS: by a link reset (R167; log 16), or
since the header read has ended and the command is refused (R165). -/
def State.abandonStart (s : State) : State :=
  { s with area := { s.area with
      startCommand := none, adoptPage := false, flight := none, waiting := [], requested := [] } }

/-- LINK_RESET (R167): the registers take their defaults, and STARTING or RUNNING becomes HEADLESS. CAUSE is zeroed
first, so a GAP that the reset's own records set stands after it (log 46). -/
def execLinkReset (s : State) : Host.Outcome State Fault Refusal :=
  let s := { s with control := s.control.linkReset }
  if s.control.runState.active then .next (s.enterHeadless .linkReset) else .next s.abandonStart

/-! ### Area faults (R160, R165, R167) -/

/-- A fault on a page write of START_ADOPT: HEADLESS stays, with reason AREA_FAULT and entry time now, and no RESUMED is
produced (R160). The write that a later START command or CLEAR left to its end faults alike; after CLEAR there is no
reason to set (log 16). -/
def State.faultPage (s : State) : State :=
  let s := { s with area := { s.area with adoptPage := false, flight := none } }
  if s.control.runState = .headless then
    { s with control := { s.control with headlessReason := some .areaFault, headlessSince := some s.now } }
  else s

/-- A fault on a header read: the command is refused without HEADER_BAD, OFF stays OFF, and HEADLESS stays HEADLESS with
reason AREA_FAULT (R165). The model's own choice: this refusal sets no BAD_CTRL and RUN_STAT does not record it (log
55). -/
def State.faultHeader (s : State) : State :=
  let s := s.abandonStart
  if s.control.runState = .headless then
    { s with control := { s.control with headlessReason := some .areaFault } }
  else s

/-- AREA_FAULT (R167): the access in progress is abandoned with its operation. A header read that waits behind a page
write is then granted (R145). -/
def execAreaFault (s : State) : Host.Outcome State Fault Refusal :=
  match s.area.flight with
  | none => .next s
  | some f =>
    let s := s.setCause .areaFault
    if s.control.runState.active then .next (s.enterHeadless .areaFault)
    else if f.access = .headerRead then .next s.faultHeader
    else .next s.faultPage.settleArea

/-! ### START commands (R144, R160, R165) -/

/-- A refused command: BAD_CTRL in CAUSE, and RUN_STAT records it (R165). -/
def State.refuse (s : State) (code : BitVec 4) : State :=
  State.setCause { s with control := { s.control with lastRefused := code } } .badCtrl

/-- The base that AREA_LO and AREA_HI hold, its low 12 bits taken as 0 (R143, R164). -/
def RunControl.areaBase (c : RunControl) : BitVec 64 := (c.areaHi ++ c.areaLo) &&& ~~~(0xFFF : BitVec 64)

/-- A START command taken: the base is taken from the registers and the header read is requested (R144, R164). The page
of an earlier START_ADOPT is superseded (log 16): its write in progress runs to its end, and the header read follows it
(R145). -/
def State.beginStart (s : State) (command : StartCommand) : State :=
  State.request
    { s with area := { s.area with
        base := s.control.areaBase, startCommand := some command, adoptPage := false } }
    .headerRead

/-- Whether a START command, STOP or CLEAR is refused because a header read is in flight (R165). -/
def State.startInFlight (s : State) : Bool := s.area.startCommand.isSome

/-- START_FRESH (R165): accepted in OFF and HEADLESS. -/
def execStartFresh (s : State) : Host.Outcome State Fault Refusal :=
  if s.control.runState.active || s.startInFlight then .next (s.refuse 1)
  else .next (s.beginStart .fresh).settleArea

/-- START_ADOPT (R165): accepted in HEADLESS, and in OFF as START_FRESH. -/
def execStartAdopt (s : State) : Host.Outcome State Fault Refusal :=
  if s.control.runState.active || s.startInFlight then .next (s.refuse 2)
  else .next (s.beginStart (if s.control.runState = .off then .fresh else .adopt)).settleArea

/-- The values a good header supplies (R144). -/
def State.takeHeader (s : State) (h : Header) : State :=
  { s with
    conduits := { s.conduits with hold := h.conduitHold }
    store := { s.store with scrubInterval := h.scrubInterval, scrubBurst := h.scrubBurst }
    engine := { s.engine with weight := h.weight }
    area := { s.area with
      identity := h.identity, groupCount := h.groupCount, journalLength := h.journalLength } }

/-- The scrub timer is started with the interval in force (R93; log 19). -/
def State.restartScrubTimer (s : State) : State :=
  { s with store := { s.store with scrubTimer := after s.now (1000 * s.store.scrubInterval) } }

/-- START_FRESH with a good header: the live state cleared but for what the header supplies, STARTING, and the first
sweep (R165). -/
def State.freshStart (s : State) (h : Header) : State :=
  let s := (s.clearLive.takeHeader h).restartScrubTimer
  State.startSweep { s with control := { s.control with runState := .starting } }

/-- Every slot hold is forgotten, by the Area Interface and by the drills (R156, R157, R23). -/
def State.forgetHolds (s : State) : State :=
  { s with
    monitor := { s.monitor with uplinks := s.monitor.uplinks.map fun r =>
      { r with drill := r.drill.map fun d => { d with slot := none } } }
    area := { s.area with slotHolds := Vector.replicate 16 none } }

/-- START_ADOPT with a good header: the live state kept, the values of R157 and R160 set, and the status page begun
(R160, R165). -/
def State.adoptStart (s : State) (h : Header) : State :=
  let s := (s.takeHeader h).forgetHolds.stopSweeps
  State.request
    { s with area := { s.area with
        uplinkRows := Vector.replicate 32 RowMemory.reset, groupRows := [], converged := false
        position := 0, blocked := false, startCommand := none, adoptPage := true } }
    (.pageWrite 0)

/-- HEADER_READ_DONE (R144, R165). -/
def execHeaderReadDone (bytes : List Byte) (s : State) : Host.Outcome State Fault Refusal :=
  if bytes.length ≠ 256 then .refused .illFormed
  else match s.inFlight, s.area.startCommand with
    | some .headerRead, some command =>
      if headerGood bytes then
        match command with
        | .fresh => .next (s.endFlight.freshStart (Header.read bytes)).settleArea
        | .adopt => .next (s.endFlight.adoptStart (Header.read bytes)).settleArea
      else .next (s.abandonStart.setCause .headerBad)
    | _, _ => .next s

/-! ### The other commands of RUN_CTRL -/

/-- STOP (R166): accepted in STARTING and RUNNING. The completion that the sweep is writing is reported in this event,
before STOPPED is tried (R150; log 44). -/
def execStop (s : State) : Host.Outcome State Fault Refusal :=
  if !s.control.runState.active || s.startInFlight then .next (s.refuse 3)
  else
    let s := s.abandonSweep.abandonSnapshot.stopSweeps
    match s.area.stopTry with
    | some _ => .next s.settleArea
    | none =>
      let t : StopTry := { record := { time := s.now, entry := .stopped s.area.sweepNumber }, begun := false }
      .next ({ s with area := { s.area with stopTry := some t } }.tryStopped t).settleArea

/-- CLEAR (R165): accepted in OFF and HEADLESS. -/
def execClear (s : State) : Host.Outcome State Fault Refusal :=
  if s.control.runState.active || s.startInFlight then .next (s.refuse 4)
  else
    let s := s.clearLive
    .next { s with control := { s.control with runState := .off } }

/-- Whether a NUDGE bears on sweeps: while a sweep is in progress it sets the due mark; with none it starts one in
RUNNING and in STARTING after START_ADOPT, and none in STARTING after START_FRESH (R147, R148). -/
def State.takesNudge (s : State) : Bool :=
  match s.control.runState with
  | .off => false
  | .starting => s.area.sweep.isSome || s.resuming
  | .running => true
  | .headless => false

/-- NUDGE (R147, R148): starts a sweep, or sets the due mark while one is in progress. -/
def execNudge (s : State) : Host.Outcome State Fault Refusal :=
  if s.takesNudge then .next s.sweepOrDue.settleArea else .next s

/-- HOLD_ON (R149). -/
def execHoldOn (s : State) : Host.Outcome State Fault Refusal :=
  .next { s with control := { s.control with hold := true } }

/-- HOLD_OFF (R149). -/
def execHoldOff (s : State) : Host.Outcome State Fault Refusal :=
  .next { s with control := { s.control with hold := false } }

/-- MODE_CONTINUOUS (R147, R164): no effect in that mode; else the mode is set, and the sweep timer starts when
RUNNING. -/
def execModeContinuous (s : State) : Host.Outcome State Fault Refusal :=
  if s.control.mode = .continuous then .next s
  else
    let s := { s with control := { s.control with mode := .continuous } }
    if s.control.runState = .running then .next s.startSweepTimer else .next s

/-- MODE_ON_DEMAND (R147, R164): no effect in that mode; else the mode is set and the sweep timer stops. -/
def execModeOnDemand (s : State) : Host.Outcome State Fault Refusal :=
  if s.control.mode = .onDemand then .next s
  else .next { s with
    control := { s.control with mode := .onDemand }
    area := { s.area with sweepTimer := none } }

/-- UNKNOWN_COMMAND (R165): refused with BAD_CTRL, and recorded as Fh. -/
def execUnknownCommand (value : BitVec 32) (s : State) : Host.Outcome State Fault Refusal :=
  if namesCommand value then .refused .illFormed else .next (s.refuse 0xF)

/-! ### Register accesses (R161, R162, R164) -/

/-- CAUSE_READ (R161): the causes are returned and all cleared. -/
def execCauseRead (s : State) : Host.Outcome State Fault Refusal :=
  .next { s with control := { s.control with readData := s.control.cause, cause := 0 } }

/-- CAUSE_EN_WRITE (R162): the enables are stored, and the attention interrupt is sent when they enable a cause already
set where none was both set and enabled. -/
def execCauseEnWrite (value : BitVec 32) (s : State) : Host.Outcome State Fault Refusal :=
  .next { s with control := { s.control with
    causeEn := value &&& causeMask
    interruptsSent :=
      if interruptRises s.control.cause s.control.causeEn s.control.cause (value &&& causeMask) then
        s.control.interruptsSent + 1
      else s.control.interruptsSent } }

/-- SWEEP_PER_WRITE (R164): below 1 stores 1, above 1000 stores 1000. -/
def execSweepPerWrite (value : BitVec 32) (s : State) : Host.Outcome State Fault Refusal :=
  .next { s with control := { s.control with sweepPer := min 1000 (max 1 value.toNat) } }

/-- REGISTER_WRITE (R164): AREA_LO or AREA_HI stores the value; the area in use stays where it is. -/
def execRegisterWrite (register : AreaRegister) (value : BitVec 32) (s : State) : Host.Outcome State Fault Refusal :=
  match register with
  | .areaLo => .next { s with control := { s.control with areaLo := value } }
  | .areaHi => .next { s with control := { s.control with areaHi := value } }

end Sys2Proof.Machine
end

