-- ==== Sys2Proof/Machine/Time.lean ====
section
/-! DEFINITION. What the device does when no command waits: the acts that the spec lets happen by themselves are put in
the queue as commands, and when there is none, part time advances by 1 µs and what falls due then is put in the queue
(log 1). -/

namespace Sys2Proof.Machine

/-! ### Acts that happen at once when they can -/

/-- The command if the condition holds. -/
def offer (condition : Bool) (c : Instr) : List Instr := if condition then [c] else []

/-- Whether the Walk Engine would select a unit (R121). -/
def WalkEngine.hasWork (e : WalkEngine) : Bool := !e.urgent.isEmpty || !e.restore.isEmpty || !e.intake.isEmpty

/-- Whether the arbiter would grant an access (R82). -/
def State.wouldGrant (s : State) : Bool :=
  s.store.access.isNone && (s.port.wantsAccess || s.engineWaits || s.scrubWaits || s.snapshotWaits)

/-- The commands that can happen now without anything from outside and without time: a taking (R36), a selection (R121),
a grant (R82). -/
def State.readyActs (s : State) : List Instr :=
  offer s.port.canTake .lookupTaken ++ offer (s.engine.work.isNone && s.engine.hasWork) .workSelect
    ++ offer s.wouldGrant .bucketAccessGrant

/-! ### What falls due at a part time -/

/-- Whether the oldest entry of a flap history has outlived the flap window (R17). -/
def UplinkRecord.flapDue (r : UplinkRecord) (now : PartTime) : Bool :=
  match r.flaps with
  | t :: _ => decide (flapSpan r.params < span t now)
  | [] => false

/-- What falls due at an uplink (R3, R4, R14, R17, R22). A settle expiry stays in the record of a SETTLING uplink, and
falls due again when part time wraps back to it (log 50). -/
def State.uplinkDue (s : State) (u : Fin 32) : List Instr :=
  let r := s.uplink u
  offer (r.lightTimer == some s.now) (.lightTimerExpiry u) ++ offer (r.windowEnd == some s.now) (.windowEnd u)
    ++ offer (r.state == .settling && r.settleExpiry == some s.now) (.settleExpiry u)
    ++ offer (r.flapDue s.now) (.flapEntryAged u)
    ++ offer (r.drill.any fun d => d.endTime == s.now) (.drillEndTime u)

/-- Whether the area access in progress has lasted 10 ms (R167; log 21). -/
def State.areaTimedOut (s : State) : Bool := s.area.flight.any fun f => f.granted + Config.areaTimeout == s.now

/-- What falls due now (R3, R4, R14, R17, R22, R45, R88, R147, R167). -/
def State.dueEvents (s : State) : List Instr :=
  (List.finRange 32).flatMap s.uplinkDue
    ++ (List.finRange 64).flatMap (fun c => offer ((s.alarm c).any fun a => a.expiry == s.now) (.conduitExpiry c))
    ++ offer (s.store.scrubTimer == s.now) .scrubTimerExpiry
    ++ offer (s.area.sweepTimer == some s.now) .sweepTimerExpiry
    ++ offer s.areaTimedOut .areaFault

/-! ### The idle step -/

/-- The commands are put in the empty queue in an order the spec leaves open (log 3). -/
def State.enqueue (s : State) (cs : List Instr) : State :=
  let (order, count) := anyOrder cs s.openCount
  { s with pending := order, openCount := count }

/-- Part time advances by 1 µs (spec 00, Times). -/
def State.tick (s : State) : State := { s with control := { s.control with now := s.control.now + 1 } }

/-- A step on an empty queue (log 1). -/
def State.idle (s : State) : State :=
  match s.readyActs with
  | [] => s.tick.enqueue s.tick.dueEvents
  | c :: cs => s.enqueue (c :: cs)

end Sys2Proof.Machine
end

