-- ==== Sys2Proof/Machine/Dispatch.lean ====
section
/-! DEFINITION. The meaning of every command: one arm for each constructor of `Instr`. -/

namespace Sys2Proof.Machine

/-- The effect of a command on everything but the queue. -/
def exec (i : Instr) (s : State) : Host.Outcome State Fault Refusal :=
  match i with
  | .powerOnReset => Sys2Proof.Machine.execPowerOnReset s
  | .linkReset => Sys2Proof.Machine.execLinkReset s
  | .darkSenseLineChange u a => Sys2Proof.Machine.execDarkSenseLineChange u a s
  | .lightTimerExpiry u => Sys2Proof.Machine.execLightTimerExpiry u s
  | .windowEnd u => Sys2Proof.Machine.execWindowEnd u s
  | .probeIn u p => Sys2Proof.Machine.execProbeIn u p s
  | .settleExpiry u => Sys2Proof.Machine.execSettleExpiry u s
  | .flapEntryAged u => Sys2Proof.Machine.execFlapEntryAged u s
  | .drillEndTime u => Sys2Proof.Machine.execDrillEndTime u s
  | .conduitExpiry k => Sys2Proof.Machine.execConduitExpiry k s
  | .lossOfLock => Sys2Proof.Machine.execLossOfLock s
  | .lockRegained => Sys2Proof.Machine.execLockRegained s
  | .hello v => Sys2Proof.Machine.execHello v s
  | .lookup t g h => Sys2Proof.Machine.execLookup t g h s
  | .messageDiscard b => Sys2Proof.Machine.execMessageDiscard b s
  | .messageSent => Sys2Proof.Machine.execMessageSent s
  | .lookupTaken => Sys2Proof.Machine.execLookupTaken s
  | .lookupBucketReadDone => Sys2Proof.Machine.execLookupBucketReadDone s
  | .escapeReadDone => Sys2Proof.Machine.execEscapeReadDone s
  | .bucketAccessGrant => Sys2Proof.Machine.execBucketAccessGrant s
  | .parityFault b o => Sys2Proof.Machine.execParityFault b o s
  | .scrubTimerExpiry => Sys2Proof.Machine.execScrubTimerExpiry s
  | .scrubReadDone => Sys2Proof.Machine.execScrubReadDone s
  | .scrubWriteDone => Sys2Proof.Machine.execScrubWriteDone s
  | .snapshotReadDone => Sys2Proof.Machine.execSnapshotReadDone s
  | .snapshotEntryWritten => Sys2Proof.Machine.execSnapshotEntryWritten s
  | .workSelect => Sys2Proof.Machine.execWorkSelect s
  | .walkStepAccessDone => Sys2Proof.Machine.execWalkStepAccessDone s
  | .blockStepWriteDone => Sys2Proof.Machine.execBlockStepWriteDone s
  | .settlePassAccessDone => Sys2Proof.Machine.execSettlePassAccessDone s
  | .fixAccessDone => Sys2Proof.Machine.execFixAccessDone s
  | .sweepTimerExpiry => Sys2Proof.Machine.execSweepTimerExpiry s
  | .rowReadDone b => Sys2Proof.Machine.execRowReadDone b s
  | .orderSlotReadDone b => Sys2Proof.Machine.execOrderSlotReadDone b s
  | .drillStart => Sys2Proof.Machine.execDrillStart s
  | .drillEnd => Sys2Proof.Machine.execDrillEnd s
  | .release => Sys2Proof.Machine.execRelease s
  | .pin => Sys2Proof.Machine.execPin s
  | .unpin => Sys2Proof.Machine.execUnpin s
  | .conduitClear => Sys2Proof.Machine.execConduitClear s
  | .snapshot => Sys2Proof.Machine.execSnapshot s
  | .slotResultWritten => Sys2Proof.Machine.execSlotResultWritten s
  | .slotStateWritten => Sys2Proof.Machine.execSlotStateWritten s
  | .journalKindReadDone k => Sys2Proof.Machine.execJournalKindReadDone k s
  | .journalBodyWritten => Sys2Proof.Machine.execJournalBodyWritten s
  | .journalKindWritten => Sys2Proof.Machine.execJournalKindWritten s
  | .statusPageWriteDone => Sys2Proof.Machine.execStatusPageWriteDone s
  | .areaFault => Sys2Proof.Machine.execAreaFault s
  | .headerReadDone b => Sys2Proof.Machine.execHeaderReadDone b s
  | .startFresh => Sys2Proof.Machine.execStartFresh s
  | .startAdopt => Sys2Proof.Machine.execStartAdopt s
  | .stop => Sys2Proof.Machine.execStop s
  | .clear => Sys2Proof.Machine.execClear s
  | .nudge => Sys2Proof.Machine.execNudge s
  | .holdOn => Sys2Proof.Machine.execHoldOn s
  | .holdOff => Sys2Proof.Machine.execHoldOff s
  | .modeContinuous => Sys2Proof.Machine.execModeContinuous s
  | .modeOnDemand => Sys2Proof.Machine.execModeOnDemand s
  | .unknownCommand v => Sys2Proof.Machine.execUnknownCommand v s
  | .causeRead => Sys2Proof.Machine.execCauseRead s
  | .causeEnWrite v => Sys2Proof.Machine.execCauseEnWrite v s
  | .sweepPerWrite v => Sys2Proof.Machine.execSweepPerWrite v s
  | .registerWrite r v => Sys2Proof.Machine.execRegisterWrite r v s

end Sys2Proof.Machine
end

