-- ==== Sys2Proof/Safety.lean ====
section
/-! DEFINITION. What counts as a sound state of the device, in the terms the claims use: the forms and bounds that the
spec says always hold, and the part of Run Control that events leave alone. A step never faults (`Fault` has no value),
and refuses only a term that is no command (`Refusal.illFormed`). -/

namespace Sys2Proof.Machine

/-- Run Control but for CAUSE and the interrupts sent: what an event that sets causes leaves unchanged. -/
def RunControl.settings (c : RunControl) : RunControl := { c with cause := 0, interruptsSent := 0 }

/-- The Area Interface but for what records, accesses and completions change: the holding queue and gap, the writer's
phase, the accesses, the slot holds and the completions. -/
def AreaInterface.plan (a : AreaInterface) : AreaInterface :=
  { a with
    holding := [], gapCount := 0, firstDrop := none, lastDrop := none, writer := .idle, flight := none
    waiting := [], requested := [], slotHolds := Vector.replicate 16 none, completions := [] }

/-- What the last START took from the registers and the header: the base, the identity, G and J. -/
def AreaInterface.layout (a : AreaInterface) : BitVec 64 × Identity × Nat × Nat :=
  (a.base, a.identity, a.groupCount, a.journalLength)

/-- Every sparse table is in its canonical form: the bucket memory, the owner table, the group records and the group
rows' memories. -/
def State.Canonical (s : State) : Prop :=
  Memory.wf s.store.memory ∧ Sparse.wf Owner.free s.store.owners ∧ Sparse.wf GroupRecord.reset s.groups
    ∧ Sparse.wf RowMemory.reset s.area.groupRows

/-- No queue holds more than its capacity: 64 lookups; 8 answers, one place kept for a resolution in progress; 16
records; 64 fix items (R35, R36, R85, R159). -/
def State.WithinCapacity (s : State) : Prop :=
  s.port.queue.length ≤ Config.queueCapacity
    ∧ s.port.lane.length + (if s.port.resolution.isSome then 1 else 0) ≤ Config.laneCapacity
    ∧ s.area.holding.length ≤ Config.holdingCapacity
    ∧ s.store.fixQueue.length ≤ Config.fixCapacity

/-- While the receiver is OUT_OF_LOCK the link is DOWN, nothing is owed and nothing is being sent (R30, R33). -/
def State.LinkSound (s : State) : Prop :=
  s.port.lock = .outOfLock → s.port.link = .down ∧ s.port.answering = none ∧ s.port.sending = none

/-- The walk agenda holds at most one walk per uplink (R111). -/
def State.OneWalkEach (s : State) : Prop := ((s.engine.urgent ++ s.engine.restore).map (·.uplink)).Nodup

/-- The record of a sweep that has just started: no count, the reporting mark in mode ON_DEMAND, at uplink row 0
(R146). -/
def SweepRecord.begin (number : BitVec 32) (start : PartTime) (mode : SweepMode) : SweepRecord where
  number := number
  start := start
  reporting := decide (mode = .onDemand)
  handedOver := 0
  rejected := 0
  torn := 0
  deferred := 0
  orders := 0
  allUnchanged := true
  phase := .uplinkRow 0

/-! ### What the rules make of an uplink's record -/

/-- A declaration of DARK with its flap, and the quarantine at the flap limit (R12, R17). -/
def UplinkRecord.declared (r : UplinkRecord) (cause : DarkCause) (now : PartTime) : UplinkRecord :=
  let history := r.flaps.dropWhile (fun t => decide (1000000 * r.params.flapWindow < span t now)) ++ [now]
  if history.length = r.params.flapLimit then
    { r with state := .quarantined, darkCause := some cause, settleStart := none, settleExpiry := none, flaps := [] }
  else { r with state := .dark, darkCause := some cause, settleStart := none, settleExpiry := none, flaps := history }

/-- A failure: declared in UP and SETTLING, a restart of the proof in PROVING, the first finding of a drill in DRILL,
and nothing in the other states (R11, R15, R16, R21). -/
def UplinkRecord.failed (r : UplinkRecord) (cause : DarkCause) (now : PartTime) : UplinkRecord :=
  if r.state = .up ∨ r.state = .settling then r.declared cause now
  else if r.state = .proving then { r with missCount := 0, blindCount := 0, runCount := 0, mismatchMark := false }
  else if r.state = .drill then
    { r with drill := r.drill.map fun d => if d.finding = none then { d with finding := some cause } else d }
  else r

/-- The entry into UP from SETTLING, when the run count has reached the restore count, the settle time has elapsed and
the light is PRESENT (R14). -/
def UplinkRecord.settledAt (r : UplinkRecord) (now : PartTime) : UplinkRecord :=
  if r.params.restoreCount ≤ r.runCount ∧ settleElapsed r now = true ∧ r.light = .present then
    { r with state := .up, darkCause := none, settleStart := none, settleExpiry := none }
  else r

/-- The entry into UP from PROVING (R16). -/
def UplinkRecord.proven (r : UplinkRecord) : UplinkRecord :=
  if r.light = .present ∧ r.params.restoreCount ≤ r.runCount then { r with state := .up, darkCause := none } else r

/-- A change of light, delivered to the state machine (R3, R11, R15, R16, R21). -/
def UplinkRecord.lightChanged (r : UplinkRecord) (light : Light) (now : PartTime) : UplinkRecord :=
  if light = .lost then { r with light, lightTimer := none }.failed .lightLost now
  else if r.state = .proving then { r with light, lightTimer := none }.proven
  else { r with light, lightTimer := none }

/-- An affirming probe, delivered to the state machine (R8, R13, R14, R16). -/
def UplinkRecord.affirmed (r : UplinkRecord) (p : ProbeContent) (now : PartTime) : UplinkRecord :=
  let a := { r with peerSequence := some p.sequence, goodSeen := true, affirmingSeen := true,
                    runCount := min 255 (r.runCount + 1) }
  if r.state = .dark ∧ r.light = .present then
    { a with state := .settling, settleStart := some now
             settleExpiry := some (now + BitVec.ofNat 32 (1000 * r.params.settleTime))
             runCount := 1, missCount := 0, blindCount := 0, mismatchMark := false }.settledAt now
  else if r.state = .settling then a.settledAt now
  else if r.state = .proving then a.proven
  else a

/-- The window that ends is judged, a failure it amounts to is delivered, the miss count prevailing, and the next window
starts (R4, R9, R11, R15, R16, R21, R27). -/
def UplinkRecord.windowEnded (r : UplinkRecord) (now : PartTime) : UplinkRecord :=
  let j := r.judge
  let f :=
    if r.params.missLimit ≤ j.missCount then j.failed (if j.mismatchMark then .peerMismatch else .probeSilent) now
    else if r.params.missLimit ≤ j.blindCount then j.failed .farBlind now
    else j
  { f with windowEnd := some (now + BitVec.ofNat 32 (100 * r.params.probeInterval))
           goodSeen := false, affirmingSeen := false, mismatchSeen := false }

/-- The record once a drill in progress has ended: UP when the light is PRESENT, both counts are below the miss limit
and there is no finding, and DARK with the first finding otherwise (R22, R28). -/
def UplinkRecord.drillJudged (r : UplinkRecord) : UplinkRecord :=
  match r.drill with
  | none => r
  | some d =>
    if r.light = .present ∧ r.missCount < r.params.missLimit ∧ r.blindCount < r.params.missLimit ∧ d.finding = none then
      { r with state := .up, darkCause := none, drill := none }
    else { r with state := .dark, darkCause := d.finding, drill := none }

/-- Only the record of uplink `u` differs. -/
def State.OnlyUplink (s t : State) (u : Fin 32) : Prop := ∀ v, v ≠ u → t.uplink v = s.uplink v

/-! ### Alarms and recheck flags -/

/-- The alarm of a conduit that uplink `u` raises at `now`: a new one from CLEAR; in RAISED the later expiry and one
raise more (R44). -/
def raisedAlarm (u : Fin 32) (cause : DarkCause) (expiry now : PartTime) (alarm : Option Alarm) : Alarm :=
  match alarm with
  | none => { expiry, firstRaiser := u, cause, raisedAt := now, raiseCount := 1 }
  | some a => { a with
      expiry := if span now a.expiry < span now expiry then expiry else a.expiry
      raiseCount := min 255 (a.raiseCount + 1) }

/-- The Conduit Table once uplink `u` has raised the conduits of `mask` (R44). -/
def ConduitTable.raised (c : ConduitTable) (u : Fin 32) (cause : DarkCause) (mask : BitVec 64) (now : PartTime) :
    ConduitTable :=
  { c with alarms := Vector.ofFn fun k =>
      if mask.getLsbD k.val then some (raisedAlarm u cause (now + BitVec.ofNat 32 (1000 * c.hold)) now (c.alarms.get k))
      else c.alarms.get k }

/-- The Conduit Table once uplink `u` with the record `r` has been told of a failure: a declaration of DARK for
LIGHT_LOST or FAR_BLIND raises the uplink's mask (R12, R44). -/
def ConduitTable.told (c : ConduitTable) (r : UplinkRecord) (u : Fin 32) (cause : DarkCause) (now : PartTime) :
    ConduitTable :=
  if (r.state = .up ∨ r.state = .settling) ∧ (cause = .lightLost ∨ cause = .farBlind) then
    c.raised u cause r.params.conduitMask now
  else c

/-- The Conduit Table once a drill of uplink `u` has ended: a fall with the finding LIGHT_LOST or FAR_BLIND raises the
uplink's mask (R22, R44). -/
def ConduitTable.drillEnded (c : ConduitTable) (r : UplinkRecord) (u : Fin 32) (finding : Option DarkCause)
    (now : PartTime) : ConduitTable :=
  match finding with
  | some .lightLost => c.raised u .lightLost r.params.conduitMask now
  | some .farBlind => c.raised u .farBlind r.params.conduitMask now
  | _ => c

/-- The group record once the uplinks that `p` names have been handed over: a pending rebuild with one of them among its
staged members has its recheck flag set (R113, R136). -/
def GroupRecord.rechecked (r : GroupRecord) (p : Fin 32 → Bool) : GroupRecord :=
  { r with rebuild := r.rebuild.map fun b =>
      if b.staged.members.any fun m => p m.uplink then { b with recheck := true } else b }

/-! ### Load counts -/

/-- The buckets of a run whose last-written current member is uplink `u`'s (R81). -/
def LiveRun.load (run : LiveRun) (memory : List (Nat × Bucket)) (u : Fin 32) : Nat :=
  (run.blocks.map fun k => (List.range 64).countP fun o =>
    run.fields.uplinkOf (Memory.read memory (64 * k + o)).current == some u).sum

/-! ### The resolution link -/

/-- The port once the lookup at the head of its queue has been answered: the answer joins the lane, and a queue that
falls to 24 while paused lets the pipeline proceed, or withdraws a PAUSE not yet sent (R36, R37). -/
def Port.answered (p : Port) (a : Answer) : Port :=
  { p with
    queue := p.queue.tail, resolution := none, lane := p.lane ++ [a]
    paused := p.paused && decide (p.queue.length ≠ 25)
    flow := if p.queue.length = 25 ∧ p.paused = true then (if p.flow = .pause then .none else .proceed) else p.flow }

/-! ### Records and completions -/

/-- A record was produced at `now`: it waits in the holding queue, or was dropped because 16 waited (R159). -/
def State.Reports (t : State) (now : PartTime) (e : Entry) : Prop :=
  { time := now, entry := e } ∈ t.area.holding ∨ (16 ≤ t.area.holding.length ∧ t.area.lastDrop = some now)

/-- An order of `slot` completed between `s` and `t`: it is being written to its slot when RUNNING and held, and is
reported by ORDER_ENDED otherwise, without the slot when the hold was forgotten (R156). -/
def State.Completes (s t : State) (slot : Option (Fin 16)) (kind : OrderKind) (failed : Bool) (reason : OrderReason)
    (results : Results) : Prop :=
  match s.held slot with
  | some k =>
    if s.control.runState = .running then
      { slot := k, kind := kind.byte, failed, reason, results, time := s.now } ∈ t.area.completions
    else t.Reports s.now (.orderEnded (some k) kind.byte failed reason results) ∧ t.area.slotHolds.get k = none
  | none => t.Reports s.now (.orderEnded none kind.byte failed reason results)

/-- Between `s` and `t` exactly the records of `l` were produced, in this order: those that find room join the holding
queue, and the others are dropped into the gap (R159). -/
def State.Produced (s t : State) (l : List Entry) : Prop :=
  let room := 16 - s.area.holding.length
  t.area.holding = s.area.holding ++ (l.take room).map (fun e => { time := s.now, entry := e })
    ∧ (l.length ≤ room → t.area.gapCount = s.area.gapCount ∧ t.area.firstDrop = s.area.firstDrop
        ∧ t.area.lastDrop = s.area.lastDrop)
    ∧ (room < l.length → t.area.gapCount = min 65535 (s.area.gapCount + (l.length - room))
        ∧ t.area.lastDrop = some s.now
        ∧ t.area.firstDrop = if s.area.gapCount = 0 then some s.now else s.area.firstDrop)

/-- The record of a completion that is not written to its slot (R156). -/
def Completion.ended (c : Completion) : Entry := .orderEnded (some c.slot) c.kind c.failed c.reason c.results

/-- The records that the completion of an order produces: none where it is written to its slot, and ORDER_ENDED
otherwise, without the slot where its hold was forgotten (R156). -/
def State.ending (s : State) (slot : Option (Fin 16)) (kind : OrderKind) (failed : Bool) (reason : OrderReason)
    (results : Results) : List Entry :=
  match s.held slot with
  | some k => if s.control.runState = .running then [] else [.orderEnded (some k) kind.byte failed reason results]
  | none => [.orderEnded none kind.byte failed reason results]

/-- The slot whose completion the sweep in progress waits for (R155). -/
def State.waitedSlot (s : State) : Option (Fin 16) :=
  match s.area.sweep with
  | some r => match r.phase with | .slotWrite k => some k | _ => none
  | none => none

/-- The records of the orders that end with an abandoned sweep: the order in hand, whose TAKEN write has not completed,
with ABANDONED, and the one whose completion the sweep waits for, as it completed (R150, R156; log 14, log 17). -/
def State.sweepEnds (s : State) : List Entry :=
  if s.area.sweep = none then []
  else
    s.area.taking.toList.map (fun o =>
      .orderEnded (some o.slot) (BitVec.ofNat 8 o.kind.code) true .abandoned Results.zero)
    ++ (s.waitedSlot.bind s.completion).toList.map Completion.ended

/-- The record of an abandoned snapshot: ABANDONED with the buckets copied (R92), the entries handed over but not
written yet counted among them (log 54), the other results 0 (log 17). -/
def State.snapshotEnds (s : State) : List Entry :=
  s.store.snapshot.toList.map fun r =>
    .orderEnded (some r.slot) 7 true .abandoned { r1 := BitVec.ofNat 32 r.next, r2 := 0, r3 := 0, r4 := 0 }

/-- The records of the completions in progress that no sweep waits for, each as it completed (R156, R167). -/
def State.completionEnds (s : State) : List Entry :=
  (s.area.completions.filter fun c => decide (some c.slot ≠ s.waitedSlot)).map Completion.ended

/-- What a link reset or an area fault in STARTING or RUNNING abandons between `s` and `t`: the sweep, the snapshot,
every area access and the sweep timer. The records `ended` are produced and no others: one ORDER_ENDED for each order
that ends, the sweep's, the snapshot's and those of the completions in progress, in some order; their slot holds go
(R92, R150, R156, R167). -/
def State.Abandons (s t : State) (ended : List Entry) : Prop :=
  t.store = { s.store with
      snapshot := none
      access := if s.store.snapshot = none then s.store.access
        else s.store.access.map (fun a => if a.requester = .snapshot then { a with wanted := false } else a) }
  ∧ t.area = { s.area with
      sweep := none, sweepTimer := none, dueMark := false, completions := [], writer := .idle, stopTry := none
      startCommand := none, adoptPage := false, flight := none, waiting := [], requested := []
      taking := if s.area.sweep = none then s.area.taking else none
      slotHolds := t.area.slotHolds, holding := t.area.holding, gapCount := t.area.gapCount
      firstDrop := t.area.firstDrop, lastDrop := t.area.lastDrop }
  ∧ (∀ k, t.area.slotHolds.get k =
      if s.completion k ≠ none ∨ (s.area.sweep ≠ none ∧ ∃ o, s.area.taking = some o ∧ o.slot = k)
          ∨ ∃ r, s.store.snapshot = some r ∧ r.slot = k then none
      else s.area.slotHolds.get k)
  ∧ s.Produced t ended ∧ ended.Perm (s.sweepEnds ++ s.snapshotEnds ++ s.completionEnds)

/-! ### What a change of an uplink's state brings -/

/-- A change of an uplink's state: the state it leaves, the one it enters, and the dark cause after it. -/
structure Move where
  left    : UplinkState
  entered : UplinkState
  cause   : Option DarkCause
  deriving DecidableEq, Repr

/-- Its UPLINK_CHANGE record (R10). -/
def Move.record (u : Fin 32) (m : Move) : Entry := .uplinkChange u m.left m.entered m.cause

/-- The changes of state that lead from the record `r` to `r'` within one event on a light, a window, a probe or a
settle expiry: none where the state stays, through SETTLING from DARK to UP (R13, R14), through DARK into QUARANTINED
(R12, R17), and straight otherwise. -/
def UplinkRecord.movesTo (r r' : UplinkRecord) : List Move :=
  if r'.state = r.state then []
  else if r.state = .dark ∧ r'.state = .up then
    [{ left := .dark, entered := .settling, cause := r.darkCause }, { left := .settling, entered := .up, cause := none }]
  else if r'.state = .quarantined then
    [{ left := r.state, entered := .dark, cause := r'.darkCause },
     { left := .dark, entered := .quarantined, cause := r'.darkCause }]
  else [{ left := r.state, entered := r'.state, cause := r'.darkCause }]

/-- A unit in progress, marked as converted where it is a step of the walk of uplink `u` (R117). -/
def Work.converted (u : Fin 32) : Work → Work
  | .walkStep v g b converted phase => .walkStep v g b (converted || decide (v = u)) phase
  | .settlePass g b phase => .settlePass g b phase
  | .blockStep g p o writing => .blockStep g p o writing
  | .fix item phase => .fix item phase

/-- The Walk Engine once uplink `u` has been handed over for a walk: the walk joins the tail of its class, newly
created, or the one that uplink has in either class, converted; a step of it in progress is marked as converted (R112,
R117). -/
def WalkEngine.handed (e : WalkEngine) (u : Fin 32) (cls : WalkClass) (now : PartTime) : WalkEngine :=
  let found := (e.urgent ++ e.restore).find? fun w => w.uplink == u
  let walk : Walk := match found with
    | none => { uplink := u, cursor := none, groupsTouched := 0, bucketsMoved := 0, conversions := 0, start := now }
    | some w => { w with cursor := none, conversions := min 255 (w.conversions + 1) }
  let others (q : List Walk) : List Walk := q.filter fun w => w.uplink ≠ u
  { e with
    urgent := others e.urgent ++ if cls = .urgent then [walk] else []
    restore := others e.restore ++ if cls = .restore then [walk] else []
    work := if found = none then e.work else e.work.map (Work.converted u) }

/-- The Walk Engine once uplink `u` has made these changes of state: leaving UP an urgent walk, entering UP a restore
walk (R10). -/
def WalkEngine.moved (e : WalkEngine) (u : Fin 32) (now : PartTime) (moves : List Move) : WalkEngine :=
  moves.foldl (fun e m =>
    if m.left = .up ∧ m.entered ≠ .up then e.handed u .urgent now
    else if m.left ≠ .up ∧ m.entered = .up then e.handed u .restore now
    else e) e

/-- The conduits that become RAISED when uplink `u` raises its mask for a cause: those of the mask that are CLEAR
(R44). -/
def State.alarmed (s : State) (u : Fin 32) (raised : Option DarkCause) : List (Fin 64 × DarkCause) :=
  raised.toList.flatMap fun cause =>
    ((List.finRange 64).filter fun c => (s.uplink u).params.conduitMask.getLsbD c.val && (s.alarm c).isNone).map
      fun c => (c, cause)

/-- The records of an event on uplink `u`, in their order: its first change of state, a CONDUIT_ALARM for each conduit
it raises from CLEAR, by ascending number, and the change of state that follows, the move to QUARANTINED of a flap or
the entry into UP (R10, R13, R17, R44). -/
def State.inOrder (s : State) (u : Fin 32) (moves : List Move) (raised : Option DarkCause) : List Entry :=
  (moves.take 1).map (Move.record u)
    ++ (s.alarmed u raised).map (fun a =>
        .conduitAlarm a.1 u a.2 (s.now + BitVec.ofNat 32 (1000 * s.conduits.hold)))
    ++ (moves.drop 1).map (Move.record u)

/-- What an event on uplink `u` brings besides its record: the walks of its changes of state `moves`; their
UPLINK_CHANGE records, a CONDUIT_ALARM for each conduit it raises from CLEAR, and the records `others`, these and no
more, in some order; the cause URGENT when it leaves UP or raises a conduit from CLEAR, and GAP when the first record is
dropped; and the attention interrupt (R10, R44, R112, R159, R161, R162). -/
structure State.Effects (s t : State) (u : Fin 32) (moves : List Move) (raised : Option DarkCause)
    (others : List Entry) : Prop where
  engine : t.engine = s.engine.moved u s.now moves
  records : ∃ l, s.Produced t l ∧ l.Perm (moves.map (Move.record u)
    ++ (s.alarmed u raised).map (fun a =>
        .conduitAlarm a.1 u a.2 (s.now + BitVec.ofNat 32 (1000 * s.conduits.hold)))
    ++ others)
  cause : t.control.cause = s.control.cause
    ||| (if (∃ m ∈ moves, m.left = .up ∧ m.entered ≠ .up) ∨ s.alarmed u raised ≠ [] then 2 else 0)
    ||| (if s.area.gapCount = 0 ∧ t.area.gapCount ≠ 0 then 8 else 0)
  interrupts : t.control.interruptsSent = s.control.interruptsSent
    + if s.control.cause &&& s.control.causeEn = 0 ∧ t.control.cause &&& s.control.causeEn ≠ 0 then 1 else 0

/-- The recheck flags that an event on uplink `u` sets: of the pending rebuilds with a staged member whose uplink has in
its mask a conduit raised from CLEAR, and of those with `u` among their staged members where `handed` says so, and no
others (R48, R113, R136). -/
def State.Rechecks (s t : State) (u : Fin 32) (handed : Prop) [Decidable handed] (raised : Option DarkCause) : Prop :=
  ∀ g, t.group g = (s.group g).rechecked fun v => (decide (v = u) && decide handed)
    || (s.alarmed u raised).any fun a => (s.uplink v).params.conduitMask.getLsbD a.1.val

/-- The Area Interface but for records and accesses is as it was, and so are the completions and the slot holds. -/
def State.KeepsOrders (s t : State) : Prop :=
  t.area.plan = s.area.plan ∧ t.area.completions = s.area.completions ∧ t.area.slotHolds = s.area.slotHolds

/-- The cause for which a failure that the uplink's state machine is told of raises its conduits: LIGHT_LOST or
FAR_BLIND, declared in UP or SETTLING (R12, R44). -/
def UplinkRecord.raisedBy (r : UplinkRecord) (cause : DarkCause) : Option DarkCause :=
  if (r.state = .up ∨ r.state = .settling) ∧ (cause = .lightLost ∨ cause = .farBlind) then some cause else none

/-- The cause for which the end of a drill raises the uplink's conduits: the finding LIGHT_LOST or FAR_BLIND (R22,
R44). -/
def DrillRecord.raises (d : DrillRecord) : Option DarkCause :=
  d.finding.filter fun cause => decide (cause = .lightLost ∨ cause = .farBlind)

/-- The change of state that the end of a drill is (R22). -/
def UplinkRecord.drillMove (r : UplinkRecord) : Move :=
  { left := r.state, entered := r.drillJudged.state, cause := r.drillJudged.darkCause }

/-- The port once it has been given a PROBE_OUT: it joins the waiting probes of a READY link, or replaces the one of its
uplink in its place, and the transmitter takes a message if it can (R39, R41). -/
def Port.probed (p : Port) (probe : ProbeOut) : Port :=
  Port.transmit (if p.link = .down then p
    else { p with probes := if ∃ q ∈ p.probes, q.uplink = probe.uplink then
        p.probes.map fun q => if q.uplink = probe.uplink then probe else q
      else p.probes ++ [probe] })

/-! ### What the adoption of an uplink row makes of a record -/

/-- The record with the adopted fields of a row, the oldest flap entries removed until fewer than its flap limit are
left (R25 to R27). -/
def UplinkRecord.adopted (r : UplinkRecord) (p : UplinkParams) : UplinkRecord :=
  { r with params := p, flaps := r.flaps.drop (r.flaps.length - (p.flapLimit - 1)) }

/-- The record without the flap entries that its flap window has outlived (R17, R27). -/
def UplinkRecord.aged (r : UplinkRecord) (now : PartTime) : UplinkRecord :=
  { r with flaps := r.flaps.dropWhile fun t => decide (1000000 * r.params.flapWindow < span t now) }

/-- The record of an uplink that leaves service by an EMPTY or a disabled row: its window, marks, counts and last
accepted peer sequence go (R1, R4, R25). -/
def UplinkRecord.silenced (r : UplinkRecord) : UplinkRecord :=
  { r with
    windowEnd := none, goodSeen := false, affirmingSeen := false, mismatchSeen := false, missCount := 0, blindCount := 0
    runCount := 0, mismatchMark := false, quietWindows := 15, settleStart := none, settleExpiry := none
    peerSequence := none }

/-- The record of an uplink that a row moves into proof: its counts are 0, its quiet windows 15, its last accepted peer
sequence absent (R26). -/
def UplinkRecord.reproved (r : UplinkRecord) : UplinkRecord :=
  { r with
    state := .proving, darkCause := some .reconfig, missCount := 0, blindCount := 0, runCount := 0
    mismatchMark := false, quietWindows := 15, settleStart := none, settleExpiry := none, peerSequence := none }

/-- An area access is in progress or waits for its grant (R145). -/
def State.Wants (t : State) (a : AreaAccess) : Prop := t.inFlight = some a ∨ a ∈ t.area.waiting

/-- The sweep in progress, if any, stands at `phase`, its counts as they were. -/
def State.SweepAt (s t : State) (phase : SweepPhase) : Prop := t.area.sweep = s.area.sweep.map fun r => { r with phase }

/-- After slot `k`, one of 0 to 14, the sweep goes on to the next slot, whose read is requested (R146). -/
def State.NextSlot (s t : State) (k : Fin 16) : Prop :=
  ∀ h : k.val + 1 < 16, s.SweepAt t (.slotRead ⟨k.val + 1, h⟩) ∧ t.Wants (.slotRead ⟨k.val + 1, h⟩)

/-! ### Structures in the shared area -/

/-- A structure of `size` bytes with fields given as offset, size and value, each least significant byte first, and
every other byte 0 (R170). -/
def layOut (size : Nat) (fields : List (Nat × Nat × Nat)) : List Byte :=
  (List.range size).map fun i =>
    match fields.find? fun f => decide (f.1 ≤ i) && decide (i < f.1 + f.2.1) with
    | some (offset, _, value) => BitVec.ofNat 8 (value / 256 ^ (i - offset))
    | none => 0

/-- Four results from an offset on, as fields. -/
def Results.layout (r : Results) (offset : Nat) : List (Nat × Nat × Nat) :=
  [(offset, 4, r.r1.toNat), (offset + 4, 4, r.r2.toNat), (offset + 8, 4, r.r3.toNat), (offset + 12, 4, r.r4.toNat)]

/-- A row's type and number, as fields. -/
def RowId.layout (row : RowId) : List (Nat × Nat × Nat) :=
  match row with
  | .uplink u => [(8, 1, 0), (10, 2, u.val)]
  | .group g => [(8, 1, 1), (10, 2, g)]

/-- The kind of a record and the fields of its kind (spec 12, §12.4). -/
def Entry.layout : Entry → List (Nat × Nat × Nat)
  | .uplinkChange u p n c => [(0, 1, 1), (8, 1, u.val), (9, 1, p.code), (10, 1, n.code), (11, 1, causeCode c)]
  | .walkDone u cls conv touched moved duration =>
    [(0, 1, 2), (8, 1, u.val), (9, 1, cls.code), (10, 1, conv), (12, 2, touched), (16, 4, moved), (20, 4, duration.toNat)]
  | .groupStranded g e gen => [(0, 1, 3), (8, 2, g), (10, 2, e.getD 0xFFFF), (12, 4, gen.toNat)]
  | .groupRecovered g gen ms => [(0, 1, 4), (8, 2, g), (12, 4, gen.toNat), (16, 4, ms)]
  | .rowAdopted row kind gen size blocks entries =>
    (0, 1, 5) :: row.layout ++ [(9, 1, kind.code), (12, 4, gen.toNat), (16, 2, size), (18, 1, blocks), (19, 1, entries)]
  | .rowRejected row reason gen d1 d2 =>
    (0, 1, 6) :: row.layout ++ [(9, 1, reason.code), (12, 4, gen.toNat), (16, 4, d1.toNat), (20, 4, d2.toNat)]
  | .rowSuperseded g steps cancelled superseding =>
    [(0, 1, 7), (8, 2, g), (10, 1, steps), (12, 4, cancelled.toNat), (16, 4, superseding.toNat)]
  | .rebuildDone g size new previous duration blocks recheck =>
    [(0, 1, 8), (8, 2, g), (10, 2, size), (12, 4, new.toNat), (16, 4, previous.toNat), (20, 4, duration.toNat),
     (24, 1, blocks), (25, 1, recheck.toNat)]
  | .conduitAlarm c u cause expiry => [(0, 1, 9), (8, 1, c.val), (9, 1, u.val), (10, 1, cause.code), (12, 4, expiry.toNat)]
  | .conduitCleared c reason u count ms cause =>
    [(0, 1, 10), (8, 1, c.val), (9, 1, reason.code), (10, 1, u.val), (11, 1, count), (12, 4, ms), (16, 1, cause.code)]
  | .scrubFix g b block offset foundBy previous home current =>
    [(0, 1, 11), (8, 2, g), (10, 2, b), (12, 2, block), (14, 1, offset), (15, 1, foundBy.code), (16, 1, previous),
     (17, 1, home), (18, 1, current)]
  | .pinLapsed g slot u gen => [(0, 1, 12), (8, 2, g), (10, 1, slot), (11, 1, u.val), (12, 4, gen.toNat)]
  | .orderEnded slot kind failed reason results =>
    [(0, 1, 13), (8, 1, match slot with | some k => k.val | none => 0xFF), (9, 1, kind.toNat),
     (10, 1, if failed then 4 else 3), (11, 1, reason.code)] ++ results.layout 12
  | .sweepDone number start duration handed rejected torn deferred orders converged =>
    [(0, 1, 14), (8, 4, number.toNat), (12, 4, start.toNat), (16, 4, duration.toNat), (20, 2, handed), (22, 2, rejected),
     (24, 2, torn), (26, 2, deferred), (28, 1, orders), (29, 1, converged.toNat)]
  | .resumed reason count ms =>
    [(0, 1, 15), (8, 1, match reason with | none => 0 | some r => r.code), (10, 2, count), (12, 4, ms)]
  | .stopped number => [(0, 1, 16), (8, 4, number.toNat)]
  | .gap count first last =>
    [(0, 1, 17), (8, 2, count), (12, 4, (first.getD 0).toNat), (16, 4, (last.getD 0).toNat)]

/-! ### The scrubber -/

/-- The store once the scrubber has treated a bucket of the burst `b`: the next bucket of the block, the next block, or
the end of the burst (R88). -/
def BucketStore.scrubOn (m : BucketStore) (b : Burst) : BucketStore :=
  if b.offset + 1 < 64 then { m with burst := some { b with offset := b.offset + 1, phase := .wantRead } }
  else
    { m with
      scrubCursor := (m.scrubCursor + 1) % 2048
      burst := if 1 < b.blocksLeft then some { blocksLeft := b.blocksLeft - 1, offset := 0, phase := .wantRead }
        else none }

end Sys2Proof.Machine
end

