-- ==== Sys2Proof/Certificates/Slice0/Obligations.lean ====
section
/-! DEFINITION. The statements for the provers. -/

section Statements

open Sys2Proof Sys2Proof.Machine

/-! ### Steps -/

/-- A step takes the command at the front of the queue. -/
def Obligations.StepRunsTheFrontCommand : Prop :=
  ∀ (c : Instr) (rest : List Instr) (s : State), s.pending = c :: rest → step s = exec c { s with pending := rest }

/-- On an empty queue (the model's own choice, log 1): acts that are ready are queued; with none ready, part time
advances by 1 µs and exactly what falls due then is queued. What falls due: the light timer, the window end, the settle
expiry of a SETTLING uplink, a flap entry older than the flap window, the end of a drill, the expiry of an alarm, the
scrub timer, the sweep timer, and the 10 ms of an area access (R3, R4, R14, R17, R22, R45, R88, R147, R167; the timeout:
log 21; a settle expiry that has come falls due again at the next wrap: log 50). What is ready: a lookup to take, a unit
to select, a bucket access to grant (R36, R121, R82). -/
def Obligations.EmptyQueueAdvancesTime : Prop :=
  (∀ s : State, s.pending = [] →
    (s.readyActs = [] → ∃ t, step s = .next t ∧ (∀ c, c ∈ t.pending ↔ c ∈ s.tick.dueEvents)
      ∧ t = { s with control := { s.control with now := s.now + 1 }, openCount := t.openCount, pending := t.pending })
    ∧ (s.readyActs ≠ [] → ∃ t, step s = .next t ∧ (∀ c, c ∈ t.pending ↔ c ∈ s.readyActs)
      ∧ t = { s with openCount := t.openCount, pending := t.pending }))
  ∧ (∀ (s : State) (c : Instr), c ∈ s.dueEvents ↔
      (∃ u, c = .lightTimerExpiry u ∧ (s.uplink u).lightTimer = some s.now)
      ∨ (∃ u, c = .windowEnd u ∧ (s.uplink u).windowEnd = some s.now)
      ∨ (∃ u, c = .settleExpiry u ∧ (s.uplink u).state = .settling ∧ (s.uplink u).settleExpiry = some s.now)
      ∨ (∃ u t rest, c = .flapEntryAged u ∧ (s.uplink u).flaps = t :: rest
          ∧ 1000000 * (s.uplink u).params.flapWindow < span t s.now)
      ∨ (∃ u d, c = .drillEndTime u ∧ (s.uplink u).drill = some d ∧ d.endTime = s.now)
      ∨ (∃ k a, c = .conduitExpiry k ∧ s.alarm k = some a ∧ a.expiry = s.now)
      ∨ (c = .scrubTimerExpiry ∧ s.store.scrubTimer = s.now)
      ∨ (c = .sweepTimerExpiry ∧ s.area.sweepTimer = some s.now)
      ∨ (∃ f, c = .areaFault ∧ s.area.flight = some f ∧ f.granted + 10000 = s.now))
  ∧ (∀ (s : State) (c : Instr), c ∈ s.readyActs ↔
      (c = .lookupTaken ∧ s.port.queue ≠ [] ∧ s.port.resolution = none ∧ s.port.lane.length < 8)
      ∨ (c = .workSelect ∧ s.engine.work = none ∧ (s.engine.urgent ≠ [] ∨ s.engine.restore ≠ [] ∨ s.engine.intake ≠ []))
      ∨ (c = .bucketAccessGrant ∧ s.store.access = none
          ∧ (s.port.wantsAccess = true ∨ s.engineWaits = true ∨ s.scrubWaits = true ∨ s.snapshotWaits = true)))

/-- Every command that the device can receive completes with a next state, and a term that is no command is refused (the
latter: log 20). -/
def Obligations.EveryCommandCompletes : Prop :=
  ∀ (c : Instr) (s : State), (c.wellFormed = true → ∃ t, exec c s = .next t)
    ∧ (c.wellFormed = false → exec c s = .refused .illFormed)

/-! ### Resets -/

/-- What power-on leaves in the registers and tables (R29, R42, R51, R73, R93, R125, R157, R160, R169), for every line
and lock of the outside. The state after reset is the one that power-on leaves, from every state whose lines are
asserted, whose lock is OUT_OF_LOCK, whose queue of commands is empty and whose two outputs and counter are 0 (log 4,
log 22, log 23). The model's own choices: the base 0 (log 29), no access and no burst in progress (log 51), no class-3
grant yet (log 5, log 34), and the message being sent cut off (log 39). -/
def Obligations.PowerOnResetLeavesResetValues : Prop :=
  (∀ s : State, ∃ t, exec .powerOnReset s = .next t
     ∧ t.control.runState = .off ∧ t.control.areaLo = 0 ∧ t.control.areaHi = 0 ∧ t.control.cause = 0
     ∧ t.control.causeEn = 0 ∧ t.control.sweepPer = 10 ∧ t.control.mode = .continuous ∧ t.control.hold = false
     ∧ t.control.lastRefused = 0 ∧ t.control.headlessReason = none ∧ t.control.headlessSince = none ∧ t.now = 0
     ∧ t.control.interruptsSent = s.control.interruptsSent ∧ t.control.readData = s.control.readData
     ∧ t.monitor.lines = s.monitor.lines
     ∧ (∀ u, t.uplink u = { UplinkRecord.reset with
         lightTimer := if s.monitor.lines.get u = true then none else some 50 })
     ∧ (∀ c, t.alarm c = none) ∧ t.conduits.hold = 2000
     ∧ (∀ g, t.group g = GroupRecord.reset)
     ∧ (∀ k o, t.bucket k o = { home := 0, current := 0, faulted := false }) ∧ (∀ k, t.owner k = .free)
     ∧ t.freeBlockCount = 2048 ∧ (∀ u, t.store.loads.get u = 0) ∧ t.store.fixQueue = [] ∧ t.store.scrubCursor = 0
     ∧ t.store.scrubInterval = 10 ∧ t.store.scrubBurst = 2 ∧ t.store.snapshot = none ∧ t.store.scrubTimer = 10000
     ∧ t.store.burst = none ∧ t.store.access = none ∧ t.store.lastBackground = none
     ∧ t.port = { Port.reset with lock := s.port.lock }
     ∧ t.engine = WalkEngine.reset ∧ t.area = AreaInterface.reset)
  ∧ (∀ s : State, (∀ u, s.monitor.lines.get u = true) → s.port.lock = .outOfLock → s.control.readData = 0 →
      s.control.interruptsSent = 0 → s.openCount = 0 → s.pending = [] → exec .powerOnReset s = .next State.reset)

/-- A link reset sets the registers to their defaults and keeps the live state of every block (R29, R42, R73, R93, R125,
R157, R160, R167, R169). In OFF and HEADLESS nothing else changes, but that a START in progress is abandoned (log 16).
In STARTING and RUNNING the run state becomes HEADLESS; the sweep, the snapshot and every area access are abandoned,
with one ORDER_ENDED record for each order they end and no other record, in some order: ABANDONED for the snapshot (R92;
entries handed over but not written yet are counted: log 54; its results r2 to r4 are 0: log 17) and for an order not
handed over yet (R150, R156; log 14), and as it completed for an order whose completion is not written yet; CAUSE is 0
but for a GAP that these records set (log 46). -/
def Obligations.LinkResetKeepsLiveState : Prop :=
  ∀ s : State,
    let defaults : RunControl := { s.control with
      areaLo := 0, areaHi := 0, cause := 0, causeEn := 0, sweepPer := 10, mode := .continuous, hold := false
      lastRefused := 0 }
    (s.control.runState.active = false → exec .linkReset s = .next { s with
      control := defaults
      area := { s.area with startCommand := none, adoptPage := false, flight := none, waiting := [], requested := [] } })
    ∧ (s.control.runState.active = true → ∃ t ended, exec .linkReset s = .next t
      ∧ t.control = { defaults with
          cause := if s.area.gapCount = 0 ∧ t.area.gapCount ≠ 0 then Cause.gap.bit else 0
          runState := .headless, headlessReason := some .linkReset, headlessSince := some s.now }
      ∧ t.monitor = s.monitor ∧ t.conduits = s.conduits ∧ t.groups = s.groups ∧ t.port = s.port ∧ t.engine = s.engine
      ∧ t.pending = s.pending
      ∧ s.Abandons t ended)

/-! ### Registers and commands of RUN_CTRL -/

/-- HOLD_ON and HOLD_OFF set and clear HOLD in any run state, and change nothing else (R149). The mode commands: nothing
in the mode already in force; else the mode is set, and the sweep timer stops, or starts in RUNNING (R147, R164). The
writes of SWEEP_PER, AREA_LO and AREA_HI store their value, SWEEP_PER held within 1 to 1000; the area in use stays where
it is (R164). Which command a write of the register window is, at its offset and nowhere else (R164; spec 12.7). -/
def Obligations.HoldAndModeCommandsSetTheirRegisters : Prop :=
  ((∀ s : State,
      exec .holdOn s = .next { s with control := { s.control with hold := true } }
      ∧ exec .holdOff s = .next { s with control := { s.control with hold := false } })
   ∧ (∀ s : State,
        (s.control.mode = .continuous → exec .modeContinuous s = .next s)
        ∧ (s.control.mode = .onDemand → exec .modeOnDemand s = .next s)
        ∧ (s.control.mode = .onDemand → s.control.runState ≠ .running →
            exec .modeContinuous s = .next { s with control := { s.control with mode := .continuous } })
        ∧ (s.control.mode = .onDemand → s.control.runState = .running →
            exec .modeContinuous s = .next { s with
              control := { s.control with mode := .continuous }
              area := { s.area with sweepTimer := some (s.now + BitVec.ofNat 32 (100 * s.control.sweepPer)) } })
        ∧ (s.control.mode = .continuous →
            exec .modeOnDemand s = .next { s with
              control := { s.control with mode := .onDemand }, area := { s.area with sweepTimer := none } })))
  ∧ (∀ (s : State) (v : BitVec 32),
       exec (.sweepPerWrite v) s = .next { s with control := { s.control with
         sweepPer := if v.toNat < 1 then 1 else if 1000 < v.toNat then 1000 else v.toNat } }
       ∧ exec (.registerWrite .areaLo v) s = .next { s with control := { s.control with areaLo := v } }
       ∧ exec (.registerWrite .areaHi v) s = .next { s with control := { s.control with areaHi := v } })
  ∧ (∀ v : BitVec 32,
       Instr.ofRegisterWrite 0x00 v = some (.registerWrite .areaLo v)
       ∧ Instr.ofRegisterWrite 0x04 v = some (.registerWrite .areaHi v)
       ∧ Instr.ofRegisterWrite 0x08 v = some (Instr.ofRunCtrl v)
       ∧ Instr.ofRegisterWrite 0x14 v = some (.causeEnWrite v)
       ∧ Instr.ofRegisterWrite 0x18 v = some (.sweepPerWrite v)
       ∧ ∀ offset, offset ∉ [0x00, 0x04, 0x08, 0x14, 0x18] → Instr.ofRegisterWrite offset v = none)

/-- A read of CAUSE returns the causes and clears them all (R161). A write of CAUSE_EN stores the low seven bits, and
sends the attention interrupt exactly when the causes both set and enabled go from none to at least one (R162). Setting
a cause sends the attention interrupt exactly when no enabled cause was set and the new one is enabled; a cause already
set changes nothing (R161, R162). What a read of the other registers returns, at their offsets and nowhere else: AREA_LO
and AREA_HI, 0 of RUN_CTRL, CAUSE_EN, SWEEP_PER, and RUN_STAT with the run state, the mode, HOLD, CONVERGED, whether a
sweep is active and the last refused command; a read of CAUSE alone is a command (R164; spec 12.7). The model's own
choice: an interrupt counts as sent also where the PCIe link cannot carry it (log 22). -/
def Obligations.CauseRegistersReadAndEnable : Prop :=
  ((∀ s : State, exec .causeRead s = .next { s with control := { s.control with
      readData := s.control.cause, cause := 0 } })
   ∧ (∀ (s : State) (v : BitVec 32),
        exec (.causeEnWrite v) s = .next { s with control := { s.control with
          causeEn := v &&& 0x7F
          interruptsSent := s.control.interruptsSent +
            if s.control.cause &&& s.control.causeEn = 0 ∧ s.control.cause &&& (v &&& 0x7F) ≠ 0 then 1 else 0 } }))
  ∧ (∀ (s : State) (c : Cause),
       s.setCause c = { s with control := { s.control with
         cause := s.control.cause ||| c.bit
         interruptsSent := s.control.interruptsSent +
           if s.control.cause &&& s.control.causeEn = 0 ∧ c.bit &&& s.control.causeEn ≠ 0 then 1 else 0 } }
       ∧ (s.control.cause &&& c.bit = c.bit → s.setCause c = s))
  ∧ (∀ s : State,
       let c := s.control
       s.readRegister 0x00 = some c.areaLo ∧ s.readRegister 0x04 = some c.areaHi ∧ s.readRegister 0x08 = some 0
       ∧ s.readRegister 0x0C = some (BitVec.ofNat 32 (c.runState.code
           + (match c.mode with | .continuous => 0 | .onDemand => 4) + (if c.hold then 8 else 0)
           + (if s.area.converged then 16 else 0) + (if s.area.sweep = none then 0 else 32)
           + 256 * c.lastRefused.toNat))
       ∧ s.readRegister 0x10 = some c.cause ∧ s.readRegister 0x14 = some c.causeEn
       ∧ s.readRegister 0x18 = some (BitVec.ofNat 32 c.sweepPer)
       ∧ ∀ offset, offset ∉ [0x00, 0x04, 0x08, 0x0C, 0x10, 0x14, 0x18] → s.readRegister offset = none)
  ∧ (∀ offset, Instr.ofRegisterRead offset = if offset = 0x10 then some .causeRead else none)

/-- The command that a value written to RUN_CTRL is: its code 1 to 9, and UNKNOWN_COMMAND otherwise (R164, R165; spec
12.7). A refused command sets BAD_CTRL, is recorded as the last refused command and changes nothing else: START_FRESH,
START_ADOPT and CLEAR in STARTING or RUNNING, STOP outside them, all four while a header read is in flight, and a value
that names no command (R165). -/
def Obligations.RefusedCommandsChangeNothing : Prop :=
  ∀ (s : State) (v : BitVec 32),
    let refused (code : BitVec 4) : State :=
      State.setCause { s with control := { s.control with lastRefused := code } } .badCtrl
    (s.control.runState.active = true ∨ s.area.startCommand ≠ none →
      exec .startFresh s = .next (refused 1) ∧ exec .startAdopt s = .next (refused 2)
      ∧ exec .clear s = .next (refused 4))
    ∧ (s.control.runState.active = false ∨ s.area.startCommand ≠ none → exec .stop s = .next (refused 3))
    ∧ (v = 0 ∨ 9 < v.toNat → Instr.ofRunCtrl v = .unknownCommand v
        ∧ exec (.unknownCommand v) s = .next (refused 0xF))
    ∧ (List.range' 1 9).map (fun code => Instr.ofRunCtrl (BitVec.ofNat 32 code))
        = [.startFresh, .startAdopt, .stop, .clear, .nudge, .holdOn, .holdOff, .modeContinuous, .modeOnDemand]
    ∧ (Instr.ofRunCtrl v).wellFormed = true

/-- CLEAR in OFF or HEADLESS: every block takes its CLEAR values, the registers, the resolution link and the outside are
kept, and the run state becomes OFF (R165 and the reset rules of each chapter). The model's own choices: the base stays
as it was (log 29), no burst is in progress (log 19), the last class-3 grant is kept (log 34), the page of START_ADOPT
in progress is superseded (log 16). An area access in progress runs to its end (R145), and so does a bucket access, its
result discarded unless it is a lookup's (R42, R82, R106, R127). -/
def Obligations.ClearTakesClearValues : Prop :=
  ∀ s : State, s.control.runState.active = false → s.area.startCommand = none →
    ∃ t, exec .clear s = .next t
      ∧ t.control = { s.control with runState := .off, headlessReason := none, headlessSince := none }
      ∧ t.monitor.lines = s.monitor.lines ∧ t.port = s.port ∧ t.pending = s.pending
      ∧ (∀ u, t.uplink u = { UplinkRecord.reset with
          lightTimer := if s.monitor.lines.get u = true then none else some (s.now + 50) })
      ∧ (∀ c, t.alarm c = none) ∧ t.conduits.hold = 2000 ∧ (∀ g, t.group g = GroupRecord.reset)
      ∧ (∀ k o, t.bucket k o = { home := 0, current := 0, faulted := false }) ∧ (∀ k, t.owner k = .free)
      ∧ (∀ u, t.store.loads.get u = 0) ∧ t.store.fixQueue = [] ∧ t.store.scrubCursor = 0
      ∧ t.store.scrubInterval = 10 ∧ t.store.scrubBurst = 2 ∧ t.store.scrubTimer = s.now + 10000
      ∧ t.store.snapshot = none ∧ t.store.burst = none ∧ t.store.lastBackground = s.store.lastBackground
      ∧ t.store.access = (s.store.access.map fun a =>
          if a.requester = .lookup ∨ a.requester = .escape then a else { a with wanted := false })
      ∧ t.engine = WalkEngine.reset
      ∧ t.area = { AreaInterface.reset with base := s.area.base, flight := s.area.flight }

/-- An accepted START command takes the base from the registers and requests the header read, which begins at once, or
when the area access in progress, a page write of START_ADOPT, has run to its end (R145); START_ADOPT in OFF acts as
START_FRESH (R144, R164, R165) (the base in use: log 29; the rest of that page is superseded: log 16). A header that is
not good refuses the START command with HEADER_BAD, and the run state and every value a header supplies keep what they
held (R144, R165). When a header is good, byte by byte: the signature 3Ch 5Ah, the version 1, the group count from 1 to
2048, the journal length from 64 to 4096, the conduit hold from 100 to 10000, the intake weight from 1 to 15, the scrub
burst 1, 2, 4 or 8 and the scrub interval from 1 to 1000; and where its fields stand (R144, R170; spec 12.3; identity
bytes in the order listed: log 6). -/
def Obligations.StartCommandsReadTheHeader : Prop :=
  (∀ s : State, s.control.runState.active = false → s.area.startCommand = none →
     let base : BitVec 64 := (s.control.areaHi ++ s.control.areaLo) &&& ~~~(0xFFF : BitVec 64)
     let started (command : StartCommand) : State := { s with area := { s.area with
       base, startCommand := some command, adoptPage := false
       flight := some { access := .headerRead, address := base, data := [], granted := s.now } } }
     let waits (command : StartCommand) : State := { s with area := { s.area with
       base, startCommand := some command, adoptPage := false, waiting := s.area.waiting ++ [.headerRead] } }
     let begins (t : State) (command : StartCommand) : Prop := t.control = s.control ∧ t.monitor = s.monitor
       ∧ t.conduits = s.conduits ∧ t.groups = s.groups ∧ t.store = s.store ∧ t.port = s.port ∧ t.engine = s.engine
       ∧ t.area = { s.area with
           base, startCommand := some command, adoptPage := false, flight := t.area.flight, waiting := t.area.waiting
           requested := [] }
       ∧ t.Wants .headerRead ∧ (∀ f, s.area.flight = some f → t.area.flight = some f)
     let adopt : StartCommand := if s.control.runState = .off then .fresh else .adopt
     (∃ t, exec .startFresh s = .next t ∧ begins t .fresh) ∧ (∃ t, exec .startAdopt s = .next t ∧ begins t adopt)
     ∧ (s.area.flight = none → s.area.waiting = [] → s.area.requested = [] →
         exec .startFresh s = .next (started .fresh) ∧ exec .startAdopt s = .next (started adopt))
     ∧ (s.area.flight ≠ none → s.area.requested = [] →
         exec .startFresh s = .next (waits .fresh) ∧ exec .startAdopt s = .next (waits adopt)))
  ∧ (∀ (s : State) (bytes : List Byte) (command : StartCommand),
       bytes.length = 256 → s.inFlight = some .headerRead → s.area.startCommand = some command →
       headerGood bytes = false →
       exec (.headerReadDone bytes) s = .next (State.setCause { s with area := { s.area with
         startCommand := none, adoptPage := false, flight := none, waiting := [], requested := [] } } .headerBad))
  ∧ (∀ bytes : List Byte, bytes.length = 256 →
       let field := byteAt bytes
       let word (i : Nat) : Nat := field i + 256 * field (i + 1)
       (headerGood bytes = true ↔
         field 0 = 0x3C ∧ field 1 = 0x5A ∧ field 2 = 1 ∧ field 3 = 0
         ∧ (1 ≤ word 12 ∧ word 12 ≤ 2048) ∧ (64 ≤ word 14 ∧ word 14 ≤ 4096) ∧ (100 ≤ word 16 ∧ word 16 ≤ 10000)
         ∧ (1 ≤ field 18 ∧ field 18 ≤ 15) ∧ (field 19 = 1 ∨ field 19 = 2 ∨ field 19 = 4 ∨ field 19 = 8)
         ∧ (1 ≤ word 20 ∧ word 20 ≤ 1000))
       ∧ (∀ i, areaField bytes i 2 = word i)
       ∧ identityAt bytes 4 = #v[bytes.getD 4 0, bytes.getD 5 0, bytes.getD 6 0, bytes.getD 7 0, bytes.getD 8 0,
           bytes.getD 9 0])

/-- START_FRESH with a good header: the values of the header, all other live state as CLEAR sets it, STARTING, and the
first sweep at once with the read of uplink row 0 (R144, R146, R165). The model's own choices: no burst in progress, and
the scrub timer started with the header's interval (log 19); the last class-3 grant kept (log 34). -/
def Obligations.FreshStartClearsAndSweeps : Prop :=
  ∀ (s : State) (bytes : List Byte),
    bytes.length = 256 → s.inFlight = some .headerRead → s.area.startCommand = some .fresh →
    headerGood bytes = true → s.control.runState.active = false →
    ∃ t, exec (.headerReadDone bytes) s = .next t
      ∧ t.control = { s.control with runState := .starting, headlessReason := none, headlessSince := none }
      ∧ t.conduits.hold = areaField bytes 16 2 ∧ (∀ c, t.alarm c = none)
      ∧ t.engine = { WalkEngine.reset with weight := byteAt bytes 18 }
      ∧ t.monitor.lines = s.monitor.lines ∧ t.port = s.port ∧ t.pending = s.pending
      ∧ (∀ u, t.uplink u = { UplinkRecord.reset with
          lightTimer := if s.monitor.lines.get u = true then none else some (s.now + 50) })
      ∧ (∀ g, t.group g = GroupRecord.reset)
      ∧ t.store = { s.store with
          memory := [], owners := [], loads := Vector.replicate 32 0, fixQueue := [], snapshot := none
          scrubCursor := 0, burst := none
          scrubInterval := areaField bytes 20 2, scrubBurst := byteAt bytes 19
          scrubTimer := s.now + BitVec.ofNat 32 (1000 * areaField bytes 20 2)
          access := s.store.access.map fun a =>
            if a.requester = .lookup ∨ a.requester = .escape then a else { a with wanted := false } }
      ∧ t.area = { AreaInterface.reset with
          base := s.area.base, identity := identityAt bytes 4, groupCount := areaField bytes 12 2
          journalLength := areaField bytes 14 2, sweepNumber := 1
          sweep := some (SweepRecord.begin 1 s.now s.control.mode)
          flight := some
            { access := .rowRead (.uplink 0), address := s.area.base + 256, data := [], granted := s.now } }

/-- START_ADOPT with a good header: all live state is kept but for what the header supplies, the slot holds are
forgotten, no sweep timer runs and no sweep is due, the journal starts again at slot 0, and the first write of the
status page is requested; the run state is kept until the page is written (R157, R160, R163, R165) (the base in use: log
29; the cut of the page into writes: log 12). -/
def Obligations.AdoptStartKeepsLiveState : Prop :=
  ∀ (s : State) (bytes : List Byte),
    bytes.length = 256 → s.inFlight = some .headerRead → s.area.startCommand = some .adopt →
    headerGood bytes = true → s.control.runState.active = false →
    ∃ t, exec (.headerReadDone bytes) s = .next t
      ∧ t.control = s.control ∧ t.groups = s.groups ∧ t.port = s.port ∧ t.conduits.alarms = s.conduits.alarms
      ∧ t.conduits.hold = areaField bytes 16 2
      ∧ t.engine = { s.engine with weight := byteAt bytes 18 }
      ∧ t.store = { s.store with scrubBurst := byteAt bytes 19, scrubInterval := areaField bytes 20 2 }
      ∧ t.monitor.lines = s.monitor.lines
      ∧ (∀ u, t.uplink u = { s.uplink u with drill := (s.uplink u).drill.map fun d => { d with slot := none } })
      ∧ t.area = { s.area with
          identity := identityAt bytes 4, groupCount := areaField bytes 12 2, journalLength := areaField bytes 14 2
          sweepTimer := none, dueMark := false
          uplinkRows := Vector.replicate 32 { tornCount := 0, lastRejected := none }, groupRows := []
          slotHolds := Vector.replicate 16 none, converged := false, position := 0, blocked := false
          startCommand := none, adoptPage := true
          flight := t.area.flight, waiting := t.area.waiting, requested := [] }
      ∧ t.Wants (.pageWrite 0)
      ∧ (s.area.waiting = [] → s.area.requested = [] →
          ∃ f, t.area.flight = some f ∧ f.access = .pageWrite 0 ∧ f.granted = s.now)

/-- STOP in STARTING or RUNNING: the sweep, the snapshot and the sweep timer go, with one ORDER_ENDED record for each
order they end, whose slot hold goes with it, and no other record, in some order: ABANDONED for the snapshot (R92;
entries handed over but not written yet are counted: log 54; its results r2 to r4 are 0: log 17) and for an order not
handed over yet (R150, R156; log 14), and as it completed for the order whose completion the sweep waits for (R150,
R156; log 44). With no journal access in progress and no STOPPED record tried yet: with the blocked mark set or a record
waiting, the STOPPED record is discarded, neither held nor counted in the gap, and the run state becomes HEADLESS with
reason STOP, the other completions in progress reported too (log 15); with neither, the kind of the slot at the write
position is read and the run state is kept. With a journal access in progress it is waited for, and the run state is
kept (R166) (that a kind read counts as a journal access, that STOPPED carries the moment of STOP, and a second STOP:
log 13; that a write in flight completes, where R160's table differs: log 45). -/
def Obligations.StopEntersHeadless : Prop :=
  ∀ s : State, s.control.runState.active = true → s.area.startCommand = none →
    let stopped : Record := { time := s.now, entry := .stopped s.area.sweepNumber }
    let waited (k : Fin 16) : Prop := ∃ r, s.area.sweep = some r ∧ r.phase = .slotWrite k
    let inHand (o : OrderInHand) : Prop := s.area.sweep ≠ none ∧ s.area.taking = some o
    ∃ t ended, exec .stop s = .next t ∧ t.area.sweep = none ∧ t.store.snapshot = none ∧ t.area.sweepTimer = none
      ∧ t.area.dueMark = false ∧ t.monitor = s.monitor ∧ t.groups = s.groups ∧ t.port = s.port ∧ t.engine = s.engine
      ∧ t.conduits = s.conduits ∧ t.store = { s.store with snapshot := none, access := t.store.access }
      ∧ s.Produced t ended
      ∧ ended.Perm (s.sweepEnds ++ s.snapshotEnds ++ if t.control.runState = .headless then s.completionEnds else [])
      ∧ (∀ k, waited k ∨ t.control.runState = .headless → t.completion k = none)
      ∧ (∀ c ∈ s.area.completions, ¬waited c.slot → t.control.runState ≠ .headless → c ∈ t.area.completions)
      ∧ (∀ k, let ends := (∃ r, s.store.snapshot = some r ∧ r.slot = k) ∨ (∃ o, inHand o ∧ o.slot = k)
            ∨ (s.completion k ≠ none ∧ (waited k ∨ t.control.runState = .headless))
          (ends → t.area.slotHolds.get k = none) ∧ (¬ends → t.area.slotHolds.get k = s.area.slotHolds.get k))
      ∧ (s.area.writer = .idle → s.area.stopTry = none → s.area.blocked = true ∨ t.area.holding ≠ [] →
          t.control.runState = .headless ∧ t.control.headlessReason = some .stop
          ∧ t.control.headlessSince = some s.now ∧ t.area.flight = none ∧ t.area.waiting = [])
      ∧ (s.area.writer = .idle → s.area.stopTry = none → s.area.blocked = false → t.area.holding = [] →
          t.control.settings = s.control.settings ∧ t.area.writer = .kindRead ∧ t.Wants .journalKindRead
          ∧ t.area.stopTry = some { record := stopped, begun := true })
      ∧ (s.area.writer ≠ .idle → s.area.stopTry = none →
          t.control.settings = s.control.settings ∧ t.area.writer = s.area.writer
          ∧ t.area.stopTry = some { record := stopped, begun := false }
          ∧ ∀ f, s.area.flight = some f →
              f.access = .journalKindRead ∨ f.access = .journalBody ∨ f.access = .journalKind →
              t.area.flight = some f)
      ∧ (∀ tried, s.area.stopTry = some tried → t.area.stopTry = some tried ∧ t.control.settings = s.control.settings)
      ∧ (s.area.writer = .idle → s.area.stopTry = none → s.area.blocked = false → s.area.holding = [] →
          s.area.sweep = none → s.store.snapshot = none → s.area.flight = none → s.area.waiting = [] →
          s.area.requested = [] →
          t.control = s.control
          ∧ t.area.flight = some { access := .journalKindRead
                                   address := s.area.base + BitVec.ofNat 64
                                     (journalOffset s.area.groupCount s.area.position)
                                   data := [], granted := s.now })

/-- NUDGE: no effect in OFF and HEADLESS; while a sweep is in progress in STARTING or RUNNING it sets the due mark; with
none in progress it starts one in RUNNING and in STARTING after START_ADOPT, where the headless reason stands, and none
in STARTING after START_FRESH, whose sweep the command itself starts (R147, R148). A sweep that starts requests the read
of uplink row 0 (R146). SWEEP_TIMER_EXPIRY at its part time: the timer starts again with the period in force, and a
sweep starts or the due mark is set (R147, R148). -/
def Obligations.SweepsStartOnTimerAndNudge : Prop :=
  (∀ s : State,
     (s.control.runState.active = false → exec .nudge s = .next s)
     ∧ (s.control.runState = .starting → s.control.headlessReason = none → s.area.sweep = none →
         exec .nudge s = .next s)
     ∧ (s.control.runState = .running ∨ s.control.runState = .starting
           ∧ (s.control.headlessReason ≠ none ∨ s.area.sweep ≠ none) →
         ∃ t, exec .nudge s = .next t ∧ t.control = s.control
         ∧ t.monitor = s.monitor ∧ t.store = s.store ∧ t.port = s.port ∧ t.engine = s.engine ∧ t.groups = s.groups
         ∧ (∀ r, s.area.sweep = some r → t.area.sweep = some r ∧ t.area.dueMark = true
             ∧ t.area.sweepNumber = s.area.sweepNumber)
         ∧ (s.area.sweep = none → t.area.dueMark = s.area.dueMark ∧ t.area.sweepNumber = s.area.sweepNumber + 1
             ∧ t.area.sweep = some (SweepRecord.begin (s.area.sweepNumber + 1) s.now s.control.mode)
             ∧ t.Wants (.rowRead (.uplink 0)))))
  ∧ (∀ s : State, s.area.sweepTimer = some s.now →
       ∃ t, exec .sweepTimerExpiry s = .next t ∧ t.control = s.control ∧ t.monitor = s.monitor ∧ t.store = s.store
         ∧ t.port = s.port ∧ t.engine = s.engine ∧ t.groups = s.groups
         ∧ t.area.sweepTimer = some (s.now + BitVec.ofNat 32 (100 * s.control.sweepPer))
         ∧ (∀ r, s.area.sweep = some r → t.area.sweep = some r ∧ t.area.dueMark = true
             ∧ t.area.sweepNumber = s.area.sweepNumber)
         ∧ (s.area.sweep = none → t.area.dueMark = s.area.dueMark ∧ t.area.sweepNumber = s.area.sweepNumber + 1
             ∧ t.area.sweep = some (SweepRecord.begin (s.area.sweepNumber + 1) s.now s.control.mode)
             ∧ t.Wants (.rowRead (.uplink 0))))

/-- AREA_FAULT sets its cause and abandons the access; STARTING or RUNNING becomes HEADLESS with reason AREA_FAULT, and
the sweep, the snapshot and every area access are abandoned with one ORDER_ENDED record for each order they end and no
other record, in some order: ABANDONED for the snapshot (R92; entries handed over but not written yet are counted: log
54; its results r2 to r4 are 0: log 17) and for an order whose TAKEN write has not completed, and as it completed for an
order whose completion is not written yet (R150, R156, R167) (of accesses other than the one that failed: log 15). A
fault on a header read leaves OFF as it is and gives HEADLESS its reason (R165); one on a page write of START_ADOPT also
gives it its entry time, and a header read that waits is granted (R145, R160) (such a write after a later START command
or CLEAR: log 16). -/
def Obligations.AreaFaultEntersHeadless : Prop :=
  ∀ s : State, s.area.flight ≠ none →
    ∃ t, exec .areaFault s = .next t
      ∧ t.control.cause &&& Cause.areaFault.bit = Cause.areaFault.bit
      ∧ t.monitor = s.monitor ∧ t.conduits = s.conduits ∧ t.groups = s.groups ∧ t.port = s.port ∧ t.engine = s.engine
      ∧ t.store.memory = s.store.memory ∧ t.store.owners = s.store.owners ∧ t.area.layout = s.area.layout
      ∧ t.area.position = s.area.position
      ∧ (s.control.runState.active = true → t.control.settings = { s.control.settings with
            runState := .headless, headlessReason := some .areaFault, headlessSince := some s.now }
          ∧ ∃ ended, s.Abandons t ended)
      ∧ (s.control.runState.active = false → t.store = s.store
          ∧ (s.inFlight = some .headerRead → t.area = { s.area with
              startCommand := none, adoptPage := false, flight := none, waiting := [], requested := [] })
          ∧ (s.inFlight ≠ some .headerRead →
              t.area = { s.area with
                adoptPage := false, flight := t.area.flight, waiting := t.area.waiting, requested := [] }
              ∧ (s.area.requested = [] → s.area.waiting = [] → t.area.flight = none ∧ t.area.waiting = [])
              ∧ (∀ a rest, s.area.requested = [] → s.area.waiting = a :: rest → t.inFlight = some a
                  ∧ t.area.waiting = rest)))
      ∧ (s.control.runState = .off → t.control.runState = .off)
      ∧ (s.control.runState = .headless → t.control.runState = .headless
          ∧ t.control.headlessReason = some .areaFault
          ∧ t.control.headlessSince
            = if s.inFlight = some .headerRead then s.control.headlessSince else some s.now)

/-! ### Uplinks -/

/-- DARK_SENSE_LINE_CHANGE: a level that agrees with the light cancels the light timer; one that disagrees starts it at
the light debounce, or changes the light at once with a debounce of 0; a level that is no change does nothing (R3) (the
last: log 2). LIGHT_TIMER_EXPIRY at its part time: the light changes to agree with the line, with what the state machine
makes of it (R3, R11, R15, R16, R21). A light LOST that is declared raises the conduits of the uplink's mask (R12, R44).
Each change of state brings its UPLINK_CHANGE record, its walk and its recheck flags, each conduit raised from CLEAR its
CONDUIT_ALARM record, leaving UP and such a raise the cause URGENT, and no other record is produced (R10, R44, R48,
R112, R113). The records stand in their order: the UPLINK_CHANGE to DARK, the CONDUIT_ALARM records by ascending conduit
number, the UPLINK_CHANGE to QUARANTINED of a flap (R17, R44). -/
def Obligations.LightFollowsTheLineAfterTheDebounce : Prop :=
  (∀ (u : Fin 32) (asserted : Bool) (s : State),
     let r := s.uplink u
     let light : Light := if asserted then .lost else .present
     let wired (timer : Option PartTime) : State := { s with monitor := {
       uplinks := s.monitor.uplinks.set u { r with lightTimer := timer }
       lines := s.monitor.lines.set u asserted } }
     (s.monitor.lines.get u = asserted → exec (.darkSenseLineChange u asserted) s = .next s)
     ∧ (s.monitor.lines.get u ≠ asserted → r.light = light →
         exec (.darkSenseLineChange u asserted) s = .next (wired none))
     ∧ (s.monitor.lines.get u ≠ asserted → r.light ≠ light → 0 < r.params.lightDebounce →
         exec (.darkSenseLineChange u asserted) s
           = .next (wired (some (s.now + BitVec.ofNat 32 r.params.lightDebounce))))
     ∧ (s.monitor.lines.get u ≠ asserted → r.light ≠ light → r.params.lightDebounce = 0 →
         ∃ t, exec (.darkSenseLineChange u asserted) s = .next t ∧ t.uplink u = r.lightChanged light s.now
           ∧ s.OnlyUplink t u ∧ t.monitor.lines = s.monitor.lines.set u asserted
           ∧ t.conduits = (if asserted then s.conduits.told r u .lightLost s.now else s.conduits)
           ∧ t.control.settings = s.control.settings ∧ t.store = s.store ∧ t.port = s.port
           ∧ s.Effects t u (r.movesTo (r.lightChanged light s.now)) (if asserted then r.raisedBy .lightLost else none) []
           ∧ s.Produced t (s.inOrder u (r.movesTo (r.lightChanged light s.now))
               (if asserted then r.raisedBy .lightLost else none))
           ∧ s.Rechecks t u (r.movesTo (r.lightChanged light s.now) ≠ [])
               (if asserted then r.raisedBy .lightLost else none)
           ∧ s.KeepsOrders t))
  ∧ (∀ (u : Fin 32) (s : State), (s.uplink u).lightTimer = some s.now →
       let asserted := s.monitor.lines.get u
       let moves := (s.uplink u).movesTo ((s.uplink u).lightChanged (if asserted then .lost else .present) s.now)
       let raised := if asserted then (s.uplink u).raisedBy .lightLost else none
       ∃ t, exec (.lightTimerExpiry u) s = .next t
         ∧ t.uplink u = (s.uplink u).lightChanged (if asserted then .lost else .present) s.now
         ∧ t.conduits = (if asserted then s.conduits.told (s.uplink u) u .lightLost s.now else s.conduits)
         ∧ s.OnlyUplink t u ∧ t.monitor.lines = s.monitor.lines ∧ t.control.settings = s.control.settings
         ∧ t.store = s.store ∧ t.port = s.port
         ∧ s.Effects t u moves raised [] ∧ s.Produced t (s.inOrder u moves raised)
         ∧ s.Rechecks t u (moves ≠ []) raised ∧ s.KeepsOrders t)

/-- WINDOW_END: the window is judged, the failure it amounts to is delivered (a FAR_BLIND that is declared raises the
conduits of the uplink's mask: R12, R44), the next window starts at the old end, and one PROBE_OUT is emitted and its
sequence number used up unless the run state is OFF: it carries the local identity, the uplink, the seen flag and the
sequence number, joins the waiting probes of a READY link or replaces the one of its uplink, and the transmitter takes a
message if it can (R4, R5, R6, R9, R18, R39, R41). A declaration brings the records, walks, recheck flags and causes of
its changes of state and raises, and no other record is produced (R10, R44, R48, R112, R113): first the UPLINK_CHANGE to
DARK, then the CONDUIT_ALARM records by ascending conduit number, then the UPLINK_CHANGE to QUARANTINED of a flap (R17,
R44). The counts of a window that ends, by its marks (R9). -/
def Obligations.WindowEndJudgesItsMarks : Prop :=
  (∀ (u : Fin 32) (s : State), (s.uplink u).windowEnd = some s.now →
     let r := (s.uplink u).windowEnded s.now
     let j := (s.uplink u).judge
     let probe : ProbeOut := { uplink := u, content := {
       identity := s.area.identity, uplink := BitVec.ofNat 8 u.val
       seen := decide (r.state ≠ .quarantined ∧ r.quietWindows + 1 < r.params.missLimit)
       sequence := (s.uplink u).txSequence } }
     let moves := (s.uplink u).movesTo r
     let raised := if j.missCount < j.params.missLimit ∧ j.params.missLimit ≤ j.blindCount then j.raisedBy .farBlind
       else none
     ∃ t, exec (.windowEnd u) s = .next t
       ∧ t.uplink u = { r with txSequence := r.txSequence + (if s.control.runState = .off then 0 else 1) }
       ∧ t.conduits = (if j.missCount < j.params.missLimit ∧ j.params.missLimit ≤ j.blindCount then
           s.conduits.told j u .farBlind s.now else s.conduits)
       ∧ s.OnlyUplink t u ∧ t.monitor.lines = s.monitor.lines ∧ t.control.settings = s.control.settings
       ∧ t.store = s.store ∧ t.port.queue = s.port.queue ∧ t.port.lane = s.port.lane
       ∧ s.Effects t u moves raised [] ∧ s.Produced t (s.inOrder u moves raised)
       ∧ s.Rechecks t u (moves ≠ []) raised ∧ s.KeepsOrders t
       ∧ (s.control.runState = .off → t.port = s.port)
       ∧ (s.control.runState ≠ .off → s.port.link = .down → t.port = s.port.transmit)
       ∧ (s.control.runState ≠ .off → s.port.link = .ready →
           (∀ q ∈ s.port.probes, q.uplink ≠ u) →
           t.port = Port.transmit { s.port with probes := s.port.probes ++ [probe] })
       ∧ (s.control.runState ≠ .off → s.port.link = .ready → (∃ q ∈ s.port.probes, q.uplink = u) →
           t.port = Port.transmit { s.port with probes := s.port.probes.map fun q =>
             if q.uplink = u then probe else q }))
  ∧ (∀ r : UplinkRecord,
       (r.affirmingSeen = true → r.judge = { r with
         missCount := 0, blindCount := 0, mismatchMark := false, quietWindows := 0 })
       ∧ (r.affirmingSeen = false → r.goodSeen = true → r.judge = { r with
           missCount := 0, blindCount := min 15 (r.blindCount + 1), runCount := 0, mismatchMark := false
           quietWindows := 0 })
       ∧ (r.affirmingSeen = false → r.goodSeen = false → r.judge = { r with
           missCount := min 15 (r.missCount + 1), runCount := 0, quietWindows := min 15 (r.quietWindows + 1)
           mismatchMark := r.mismatchMark || r.mismatchSeen }))

/-- PROBE_IN: classified against the record of its uplink, it sets the marks of its class; an affirming probe raises the
run count and is delivered to the state machine; it is discarded while the link is DOWN, with an uplink above 31 or in a
state that does not probe (R7, R8, R13, R14, R16, R40). Its changes of state bring their records, walks and recheck
flags, and no other record is produced (R10, R112, R113); from DARK the record of SETTLING stands before that of UP
(R13, R14). -/
def Obligations.ProbeSetsTheMarksOfItsClass : Prop :=
  ∀ (n : Byte) (p : ProbeContent) (s : State), ∃ t, exec (.probeIn n p) s = .next t
    ∧ t.port = s.port ∧ t.store = s.store ∧ t.monitor.lines = s.monitor.lines
    ∧ t.control.settings = s.control.settings
    ∧ (s.port.link = .down ∨ 32 ≤ n.toNat → t = s)
    ∧ (∀ u : Fin 32, n.toNat = u.val → s.port.link = .ready →
        let r := s.uplink u
        let mismatched := p.identity ≠ r.params.peerIdentity ∨ p.uplink ≠ r.params.peerUplink
        let stale := ∃ l, r.peerSequence = some l ∧ ((p.sequence - l).toNat = 0 ∨ 32767 < (p.sequence - l).toNat)
        s.OnlyUplink t u ∧ t.conduits = s.conduits
        ∧ s.Effects t u (r.movesTo (t.uplink u)) none [] ∧ s.Produced t (s.inOrder u (r.movesTo (t.uplink u)) none)
        ∧ s.Rechecks t u (r.movesTo (t.uplink u) ≠ []) none
        ∧ s.KeepsOrders t
        ∧ (r.state.probing = false → t.uplink u = r)
        ∧ (r.state.probing = true → mismatched → t.uplink u = { r with mismatchSeen := true })
        ∧ (r.state.probing = true → ¬mismatched → stale → t.uplink u = r)
        ∧ (r.state.probing = true → ¬mismatched → ¬stale → p.seen = false →
            t.uplink u = { r with peerSequence := some p.sequence, goodSeen := true })
        ∧ (r.state.probing = true → ¬mismatched → ¬stale → p.seen = true → t.uplink u = r.affirmed p s.now))

/-- SETTLE_EXPIRY at its part time: the uplink enters UP when the run count has reached the restore count, the settle
time has elapsed and the light is PRESENT, with the record, the walk and the recheck flags of that change, and stays
SETTLING otherwise (R10, R14, R112, R113) (elapsed time modulo 2^32: log 7). The model's own choice: the record that
stays SETTLING keeps its settle expiry, which is checked again at every later moment equal to it (log 50).
FLAP_ENTRY_AGED: entries at the head of the flap history whose age exceeds the flap window are removed, and nothing else
changes (R17). -/
def Obligations.SettleExpiryAndFlapAge : Prop :=
  (∀ (u : Fin 32) (s : State), (s.uplink u).state = .settling → (s.uplink u).settleExpiry = some s.now →
     ∃ t, exec (.settleExpiry u) s = .next t ∧ t.uplink u = (s.uplink u).settledAt s.now ∧ s.OnlyUplink t u
       ∧ t.monitor.lines = s.monitor.lines ∧ t.control.settings = s.control.settings ∧ t.store = s.store
       ∧ t.port = s.port ∧ t.conduits = s.conduits
       ∧ s.Effects t u ((s.uplink u).movesTo ((s.uplink u).settledAt s.now)) none []
       ∧ s.Produced t (s.inOrder u ((s.uplink u).movesTo ((s.uplink u).settledAt s.now)) none)
       ∧ s.Rechecks t u ((s.uplink u).movesTo ((s.uplink u).settledAt s.now) ≠ []) none ∧ s.KeepsOrders t)
  ∧ (∀ (u : Fin 32) (s : State), exec (.flapEntryAged u) s = .next { s with monitor := { s.monitor with
       uplinks := s.monitor.uplinks.set u { s.uplink u with
         flaps := (s.uplink u).flaps.dropWhile fun t =>
           decide (1000000 * (s.uplink u).params.flapWindow < span t s.now) } } })

/-- DRILL_END_TIME at its part time: the drill is judged, UP when the light is PRESENT, both counts are below the miss
limit and there is no finding, and DARK with the first finding otherwise, LIGHT_LOST and FAR_BLIND raising the conduits
of the uplink's mask; its record is removed and its DRILL_START order completes DONE with the results of R23 (R22, R23,
R44) (with no finding, no cause: log 31). The change of state and the raises bring their records, walk, recheck flags
and causes, and no other record is produced but the order's (R10, R44, R48, R112, R113, R156). -/
def Obligations.DrillEndTimeJudgesTheDrill : Prop :=
  ∀ (u : Fin 32) (s : State) (d : DrillRecord), (s.uplink u).drill = some d → d.endTime = s.now →
    let r := s.uplink u
    let sound := r.light = .present ∧ r.missCount < r.params.missLimit ∧ r.blindCount < r.params.missLimit
      ∧ d.finding = none
    let ends (t : State) (state cause : BitVec 32) : Prop :=
      let results : Results :=
        { r1 := state, r2 := cause
          r3 := BitVec.ofNat 32 (match d.walkResult with
            | some w => w.1
            | none => match s.walkOf u with | some w => w.bucketsMoved | none => 0)
          r4 := match d.walkResult with | some w => w.2 | none => 0 }
      s.Completes t d.slot .drillStart false .none results
      ∧ s.Effects t u [r.drillMove] d.raises (s.ending d.slot .drillStart false .none results)
    ∃ t, exec (.drillEndTime u) s = .next t ∧ s.OnlyUplink t u ∧ t.monitor.lines = s.monitor.lines
      ∧ t.conduits = s.conduits.drillEnded r u d.finding s.now
      ∧ t.control.settings = s.control.settings ∧ t.store = s.store ∧ t.port = s.port
      ∧ s.Rechecks t u True d.raises
      ∧ (sound → t.uplink u = { r with state := .up, darkCause := none, drill := none } ∧ ends t 3 0)
      ∧ (¬sound → t.uplink u = { r with state := .dark, darkCause := d.finding, drill := none }
          ∧ ends t 4 (BitVec.ofNat 32 (causeCode d.finding)))

/-- Every change of an uplink's state: the state and its dark cause, absent in UP; an UPLINK_CHANGE record; leaving UP a
walk at the tail of URGENT and the cause URGENT, entering UP a walk at the tail of RESTORE; a walk of that uplink that
exists is converted, a step of it in progress being marked as converted (R117), and an uplink never has two; and the
recheck flag of every pending rebuild with the uplink among its staged members is set (R10, R111 to R113, R136). -/
def Obligations.StateChangeHasItsCommonEffects : Prop :=
  ∀ (s : State) (u : Fin 32) (new : UplinkState) (cause : Option DarkCause),
    let t := s.changeState u new cause
    let r := s.uplink u
    let kept := if new = .up then none else cause
    let walk : Walk := match s.walkOf u with
      | none => { uplink := u, cursor := none, groupsTouched := 0, bucketsMoved := 0, conversions := 0, start := s.now }
      | some w => { w with cursor := none, conversions := min 255 (w.conversions + 1) }
    let work : Option Work := match s.walkOf u, s.engine.work with
      | some _, some (.walkStep v g b converted phase) => some (.walkStep v g b (converted || decide (v = u)) phase)
      | _, other => other
    t.uplink u = { r with state := new, darkCause := kept } ∧ s.OnlyUplink t u
    ∧ s.Produced t [.uplinkChange u r.state new kept]
    ∧ (r.state = .up → new ≠ .up → t.control.cause &&& 2 = 2 ∧ t.engine = { s.engine with
        urgent := (s.engine.urgent.filter fun w => w.uplink ≠ u) ++ [walk]
        restore := s.engine.restore.filter fun w => w.uplink ≠ u
        work })
    ∧ (r.state ≠ .up → new = .up → t.engine = { s.engine with
        urgent := s.engine.urgent.filter fun w => w.uplink ≠ u
        restore := (s.engine.restore.filter fun w => w.uplink ≠ u) ++ [walk]
        work })
    ∧ ((r.state = .up ↔ new = .up) → t.engine = s.engine)
    ∧ (∀ g, t.group g = (s.group g).rechecked fun v => decide (v = u))
    ∧ t.store = s.store ∧ t.port = s.port ∧ t.conduits = s.conduits

/-! ### Conduits -/

/-- A raise: from CLEAR the conduit becomes RAISED with the raiser, the cause and the count 1, a CONDUIT_ALARM record
and the cause URGENT; in RAISED its expiry becomes the later one and its count one more, and neither a record is
produced nor a cause set (R44). CONDUIT_EXPIRY at its part time: the conduit becomes CLEAR with a CONDUIT_CLEARED
record, reason EXPIRY, its time in ms rounded down (R45; the rounding: log 40). A raise from CLEAR and a clear set the
recheck flag of every pending rebuild with a staged member whose uplink has the conduit in its mask (R48, R113, R136).
An uplink is shadowed exactly while it is UP and its adopted conduit mask includes a RAISED conduit (R47). -/
def Obligations.ConduitsRaiseAndExpire : Prop :=
  (∀ (s : State) (u : Fin 32) (cause : DarkCause) (c : Fin 64),
     let t := s.raiseConduit u cause c
     let expiry := s.now + BitVec.ofNat 32 (1000 * s.conduits.hold)
     (∀ d, d ≠ c → t.alarm d = s.alarm d) ∧ t.monitor = s.monitor ∧ t.engine = s.engine
     ∧ t.conduits.hold = s.conduits.hold
     ∧ (s.alarm c = none →
         t.alarm c = some { expiry, firstRaiser := u, cause, raisedAt := s.now, raiseCount := 1 }
         ∧ t.Reports s.now (.conduitAlarm c u cause expiry) ∧ t.control.cause &&& 2 = 2
         ∧ ∀ g, t.group g = (s.group g).rechecked fun v => (s.uplink v).params.conduitMask.getLsbD c.val)
     ∧ (∀ a, s.alarm c = some a →
         t = s.setAlarm c (some { a with
           expiry := if span s.now a.expiry < span s.now expiry then expiry else a.expiry
           raiseCount := min 255 (a.raiseCount + 1) })))
  ∧ (∀ (c : Fin 64) (s : State) (a : Alarm), s.alarm c = some a → a.expiry = s.now →
       ∃ t, exec (.conduitExpiry c) s = .next t ∧ t.alarm c = none ∧ (∀ d, d ≠ c → t.alarm d = s.alarm d)
         ∧ t.Reports s.now (.conduitCleared c .expiry a.firstRaiser a.raiseCount (span a.raisedAt s.now / 1000) a.cause)
         ∧ (∀ g, t.group g = (s.group g).rechecked fun v => (s.uplink v).params.conduitMask.getLsbD c.val)
         ∧ t.monitor = s.monitor ∧ t.store = s.store ∧ t.port = s.port ∧ t.engine = s.engine
         ∧ t.control.settings = s.control.settings ∧ t.conduits.hold = s.conduits.hold)
  ∧ (∀ (s : State) (u : Fin 32), s.shadowed u = true ↔
      (s.uplink u).state = .up ∧ ∃ c : Fin 64, (s.uplink u).params.conduitMask.getLsbD c.val = true ∧ s.alarm c ≠ none)

/-! ### Orders -/

/-- A RELEASE order handed over: an uplink above 31 fails with BAD_ARG, one not QUARANTINED with BAD_STATE; otherwise
the uplink enters PROVING with its flap history empty and its counts 0, and the order completes DONE (R19). A
DRILL_START order handed over: BAD_ARG for an uplink above 31 or a duration outside 1 to 3600 s, BAD_STATE for an uplink
that is not UP; otherwise the uplink enters DRILL with a drill record, and the order completes later (R20). The change
of state brings its UPLINK_CHANGE record, its recheck flags and, for a drill that starts, its urgent walk and URGENT,
and no other record is produced but that of an order that completes without its slot (R10, R112, R113, R156). The
model's own choice: the results of a DRILL_START that fails are 0 (log 17). -/
def Obligations.ReleaseAndDrillStartOrders : Prop :=
  let fails (s t : State) (o : OrderInHand) (kind : OrderKind) (reason : OrderReason) : Prop :=
    t.monitor = s.monitor ∧ t.engine = s.engine ∧ t.groups = s.groups
    ∧ s.Completes t (some o.slot) kind true reason Results.zero
    ∧ s.Produced t (s.ending (some o.slot) kind true reason Results.zero)
  (∀ (s : State) (o : OrderInHand), s.orderTaken .release = some o →
     ∃ t, exec .release s = .next t ∧ t.store = s.store ∧ t.port = s.port ∧ t.conduits = s.conduits
       ∧ t.control.settings = s.control.settings
       ∧ (32 ≤ o.argA.toNat → fails s t o .release .badArg)
       ∧ (∀ u : Fin 32, o.argA.toNat = u.val → (s.uplink u).state ≠ .quarantined → fails s t o .release .badState)
       ∧ (∀ u : Fin 32, o.argA.toNat = u.val → (s.uplink u).state = .quarantined →
           t.uplink u = { s.uplink u with
             state := .proving, flaps := [], missCount := 0, blindCount := 0, runCount := 0, mismatchMark := false }
           ∧ s.OnlyUplink t u ∧ s.Completes t (some o.slot) .release false .none Results.zero
           ∧ s.Effects t u [{ left := .quarantined, entered := .proving, cause := (s.uplink u).darkCause }] none
               (s.ending (some o.slot) .release false .none Results.zero)
           ∧ s.Rechecks t u True none))
  ∧ (∀ (s : State) (o : OrderInHand), s.orderTaken .drillStart = some o →
       ∃ t, exec .drillStart s = .next t ∧ t.store = s.store ∧ t.port = s.port ∧ t.conduits = s.conduits
         ∧ t.control.settings = s.control.settings
         ∧ (32 ≤ o.argA.toNat ∨ o.argB.toNat = 0 ∨ 3600 < o.argB.toNat → fails s t o .drillStart .badArg)
         ∧ (∀ u : Fin 32, o.argA.toNat = u.val → 1 ≤ o.argB.toNat → o.argB.toNat ≤ 3600 → (s.uplink u).state ≠ .up →
             fails s t o .drillStart .badState)
         ∧ (∀ u : Fin 32, o.argA.toNat = u.val → 1 ≤ o.argB.toNat → o.argB.toNat ≤ 3600 → (s.uplink u).state = .up →
             t.uplink u = { s.uplink u with
               state := .drill, darkCause := some .drill
               drill := some { endTime := s.now + BitVec.ofNat 32 (1000000 * o.argB.toNat), slot := some o.slot
                               finding := none, walkResult := none } }
             ∧ s.OnlyUplink t u ∧ t.area.completions = s.area.completions
             ∧ s.Effects t u [{ left := .up, entered := .drill, cause := some .drill }] none []
             ∧ s.Rechecks t u True none))

/-- A DRILL_END order handed over: BAD_ARG for an uplink above 31, BAD_STATE for one without a drill; otherwise the
drill is judged as at its end time, and its DRILL_START order and the DRILL_END order complete DONE (R22, R24). The two
orders stand in different slots, as two orders that are both held do. A drill that falls with LIGHT_LOST or FAR_BLIND
raises the conduits of the uplink's mask (R44). The change of state and the raises bring their records, walk, recheck
flags and causes, and no other record is produced but those of the two orders, in some order (R10, R48, R112, R113,
R156). The model's own choices: with no finding, no cause (log 31); the results of a failing DRILL_END (log 17). -/
def Obligations.DrillEndEndsTheDrill : Prop :=
  ∀ (s : State) (o : OrderInHand), s.orderTaken .drillEnd = some o →
    let fails (t : State) (reason : OrderReason) : Prop :=
      t.monitor = s.monitor ∧ t.conduits = s.conduits ∧ t.engine = s.engine ∧ t.groups = s.groups
      ∧ s.Completes t (some o.slot) .drillEnd true reason Results.zero
      ∧ s.Produced t (s.ending (some o.slot) .drillEnd true reason Results.zero)
    ∃ t, exec .drillEnd s = .next t ∧ t.store = s.store ∧ t.port = s.port
      ∧ t.control.settings = s.control.settings
      ∧ (32 ≤ o.argA.toNat → fails t .badArg)
      ∧ (∀ u : Fin 32, o.argA.toNat = u.val → (s.uplink u).state ≠ .drill → fails t .badState)
      ∧ (∀ (u : Fin 32) (d : DrillRecord), o.argA.toNat = u.val → (s.uplink u).state = .drill →
          (s.uplink u).drill = some d → d.slot ≠ some o.slot →
          let results := drillResults d (s.walkOf u) ((s.uplink u).drillSound d)
          t.uplink u = (s.uplink u).drillJudged
          ∧ t.conduits = s.conduits.drillEnded (s.uplink u) u d.finding s.now
          ∧ s.OnlyUplink t u
          ∧ s.Completes t d.slot .drillStart false .none results
          ∧ s.Completes t (some o.slot) .drillEnd false .none Results.zero
          ∧ s.Effects t u [(s.uplink u).drillMove] d.raises
              (s.ending d.slot .drillStart false .none results
                ++ s.ending (some o.slot) .drillEnd false .none Results.zero)
          ∧ s.Rechecks t u True d.raises)

/-- A PIN order handed over: BAD_ARG for a group outside the plan, a slot above 15 or a slot without a member, BAD_STATE
for a group that is not LIVE; otherwise the pin is that slot and the order completes DONE with the earlier pin and the
member's uplink (R69). An UNPIN order handed over: BAD_ARG for a group outside the plan, BAD_STATE for one that is not
LIVE; otherwise the pin is absent and the order completes DONE with the earlier pin (R70). The model's own choice: the
results of a PIN or UNPIN that fails are 0 (log 17). -/
def Obligations.PinOrdersSetThePin : Prop :=
  (∀ (s : State) (o : OrderInHand), s.Canonical → s.orderTaken .pin = some o →
     let g := o.argA.toNat
     let slot := o.argB.toNat
     ∃ t, exec .pin s = .next t ∧ t.store = s.store ∧ t.port = s.port ∧ t.monitor = s.monitor ∧ t.engine = s.engine
       ∧ t.conduits = s.conduits ∧ t.control.settings = s.control.settings ∧ (∀ h, h ≠ g → t.group h = s.group h)
       ∧ (s.area.groupCount ≤ g ∨ 15 < slot → t.groups = s.groups
           ∧ s.Completes t (some o.slot) .pin true .badArg Results.zero)
       ∧ (g < s.area.groupCount → slot ≤ 15 → (s.group g).live = none → t.groups = s.groups
           ∧ s.Completes t (some o.slot) .pin true .badState Results.zero)
       ∧ (∀ run, g < s.area.groupCount → slot ≤ 15 → (s.group g).live = some run → run.fields.members[slot]? = none →
           t.groups = s.groups ∧ s.Completes t (some o.slot) .pin true .badArg Results.zero)
       ∧ (∀ run m, g < s.area.groupCount → slot ≤ 15 → (s.group g).live = some run →
           run.fields.members[slot]? = some m → t.group g = { s.group g with pin := some slot }
           ∧ s.Completes t (some o.slot) .pin false .none
               { r1 := BitVec.ofNat 32 ((s.group g).pin.getD 0xFF), r2 := BitVec.ofNat 32 m.uplink.val, r3 := 0
                 r4 := 0 }))
  ∧ (∀ (s : State) (o : OrderInHand), s.Canonical → s.orderTaken .unpin = some o →
       let g := o.argA.toNat
       ∃ t, exec .unpin s = .next t ∧ t.store = s.store ∧ t.port = s.port ∧ t.monitor = s.monitor ∧ t.engine = s.engine
         ∧ t.conduits = s.conduits ∧ t.control.settings = s.control.settings ∧ (∀ h, h ≠ g → t.group h = s.group h)
         ∧ (s.area.groupCount ≤ g → t.groups = s.groups
             ∧ s.Completes t (some o.slot) .unpin true .badArg Results.zero)
         ∧ (g < s.area.groupCount → (s.group g).live = none → t.groups = s.groups
             ∧ s.Completes t (some o.slot) .unpin true .badState Results.zero)
         ∧ (∀ run, g < s.area.groupCount → (s.group g).live = some run → t.group g = { s.group g with pin := none }
             ∧ s.Completes t (some o.slot) .unpin false .none
                 { r1 := BitVec.ofNat 32 ((s.group g).pin.getD 0xFF), r2 := 0, r3 := 0, r4 := 0 }))

/-- A CONDUIT_CLEAR order handed over: BAD_ARG for a conduit above 63; DONE with results 0 for a conduit that is CLEAR,
with no record of a clear; one that is RAISED clears with reason ORDER, the order completes DONE with 1 and its raise
count, and the recheck flags of R48 are set (R46, R48). The model's own choices: the results of the order that fails
(log 17), the rounding of the time RAISED (log 40). -/
def Obligations.ConduitClearOrderClears : Prop :=
  ∀ (s : State) (o : OrderInHand), s.orderTaken .conduitClear = some o →
    ∃ t, exec .conduitClear s = .next t ∧ t.store = s.store ∧ t.port = s.port ∧ t.monitor = s.monitor
      ∧ t.engine = s.engine ∧ t.conduits.hold = s.conduits.hold ∧ t.control.settings = s.control.settings
      ∧ (64 ≤ o.argA.toNat → t.conduits = s.conduits
          ∧ s.Completes t (some o.slot) .conduitClear true .badArg Results.zero)
      ∧ (∀ c : Fin 64, o.argA.toNat = c.val → t.alarm c = none ∧ (∀ d, d ≠ c → t.alarm d = s.alarm d)
          ∧ (s.alarm c = none → s.Completes t (some o.slot) .conduitClear false .none Results.zero
              ∧ t.groups = s.groups
              ∧ (s.control.runState = .running → s.held (some o.slot) ≠ none → t.area.holding = s.area.holding))
          ∧ (∀ a, s.alarm c = some a →
              t.Reports s.now
                (.conduitCleared c .order a.firstRaiser a.raiseCount (span a.raisedAt s.now / 1000) a.cause)
              ∧ (∀ g, t.group g = (s.group g).rechecked fun v => (s.uplink v).params.conduitMask.getLsbD c.val)
              ∧ s.Completes t (some o.slot) .conduitClear false .none
                  { r1 := 1, r2 := BitVec.ofNat 32 a.raiseCount, r3 := 0, r4 := 0 }))

/-- A SNAPSHOT order handed over: the tests of R90 in their order, and otherwise the snapshot record of the group's live
run; the order completes later (R90). The model's own choice: the results of a SNAPSHOT that fails at its tests are 0
(log 17). -/
def Obligations.SnapshotOrderBeginsASnapshot : Prop :=
  ∀ (s : State) (o : OrderInHand), s.orderTaken .snapshot = some o →
    let g := o.argA.toNat
    let aligned := o.buffer.toNat % 4 = 0
    ∃ t, exec .snapshot s = .next t ∧ t.port = s.port ∧ t.monitor = s.monitor ∧ t.engine = s.engine
      ∧ t.groups = s.groups ∧ t.conduits = s.conduits ∧ t.control.settings = s.control.settings
      ∧ (s.area.groupCount ≤ g ∨ ¬aligned → t.store = s.store
          ∧ s.Completes t (some o.slot) .snapshot true .badArg Results.zero)
      ∧ (g < s.area.groupCount → aligned → (s.group g).live = none → t.store = s.store
          ∧ s.Completes t (some o.slot) .snapshot true .badState Results.zero)
      ∧ (∀ run, g < s.area.groupCount → aligned → (s.group g).live = some run →
          o.length.toNat < 4 * run.fields.bucketSize → t.store = s.store
          ∧ s.Completes t (some o.slot) .snapshot true .badArg Results.zero)
      ∧ (∀ run, g < s.area.groupCount → aligned → (s.group g).live = some run →
          4 * run.fields.bucketSize ≤ o.length.toNat → s.store.snapshot ≠ none → t.store = s.store
          ∧ s.Completes t (some o.slot) .snapshot true .badState Results.zero)
      ∧ (∀ run, g < s.area.groupCount → aligned → (s.group g).live = some run →
          4 * run.fields.bucketSize ≤ o.length.toNat → s.store.snapshot = none →
          t.store.snapshot = some
            { slot := o.slot, group := g, blocks := run.blocks, generation := (s.group g).adoptedGeneration
              buffer := o.buffer, next := 0, faulted := 0, start := s.now, reading := false }
          ∧ t.store = { s.store with snapshot := t.store.snapshot }
          ∧ t.area.completions = s.area.completions)

/-! ### The resolution link -/

/-- LOSS_OF_LOCK takes the link DOWN, empties its queues and abandons the resolution and the message being sent; an
access for a lookup runs to its end, its result discarded. LOCK_REGAINED leaves the link DOWN (R30, R32, R33). HELLO
makes an answering HELLO pending with the version received, and the transmitter takes it when idle; on a READY link it
first restarts the link, which keeps the waiting probes and the message being sent (R31, R32). The model's own choice: a
loss of lock in OUT_OF_LOCK and a lock regained in IN_LOCK change nothing (log 2). -/
def Obligations.LockAndHelloChangeTheLink : Prop :=
  (∀ s : State,
     (s.port.lock = .outOfLock → exec .lossOfLock s = .next s)
     ∧ (s.port.lock = .inLock → exec .lossOfLock s = .next { s with
         port := { link := .down, lock := .outOfLock, answering := none, queue := [], resolution := none, lane := []
                   paused := false, flow := .none, probes := [], lastTaken := s.port.lastTaken, sending := none }
         store := { s.store with access := s.store.access.map fun a =>
           if a.requester = .lookup ∨ a.requester = .escape then { a with wanted := false } else a } })
     ∧ (s.port.lock = .inLock → exec .lockRegained s = .next s)
     ∧ (s.port.lock = .outOfLock →
         exec .lockRegained s = .next { s with port := { s.port with lock := .inLock, link := .down } }))
  ∧ (∀ (version : Byte) (s : State),
       (s.port.lock = .outOfLock → exec (.hello version) s = .next s)
       ∧ (s.port.lock = .inLock → s.port.link = .down → exec (.hello version) s = .next { s with port := { s.port with
           answering := some version, sending := some (s.port.sending.getD .hello) } })
       ∧ (s.port.lock = .inLock → s.port.link = .ready → exec (.hello version) s = .next { s with
           port := { s.port with
             link := .down, queue := [], resolution := none, lane := [], paused := false, flow := .none
             answering := some version, sending := some (s.port.sending.getD .hello) }
           store := { s.store with access := s.store.access.map fun a =>
             if a.requester = .lookup ∨ a.requester = .escape then { a with wanted := false } else a } }))

/-- A LOOKUP joins the tail of the queue, and at depth 48 the pipeline is paused; with 64 waiting it is answered REFUSED
when the lane has room beside a resolution in progress, and is discarded otherwise; while the link is DOWN it is
discarded (R34, R35, R37). -/
def Obligations.LookupJoinsTheQueue : Prop :=
  ∀ (tag : BitVec 6) (group hash : BitVec 16) (s : State),
    let p := s.port
    let joined (q : Port) : Host.Outcome State Fault Refusal := .next { s with port := q.transmit }
    let room := p.lane.length + (if p.resolution.isSome then 1 else 0) < 8
    (p.link = .down → exec (.lookup tag group hash) s = .next s)
    ∧ (p.link = .ready → p.queue.length < 64 →
        exec (.lookup tag group hash) s = joined { p with
          queue := p.queue ++ [{ tag, group, hash }]
          paused := if p.queue.length = 47 then true else p.paused
          flow := if p.queue.length = 47 ∧ p.paused = false then .pause else p.flow })
    ∧ (p.link = .ready → 64 ≤ p.queue.length → room →
        exec (.lookup tag group hash) s = joined { p with
          lane := p.lane ++ [{ tag, outcome := .refused, uplink := 0, escaped := false }] })
    ∧ (p.link = .ready → 64 ≤ p.queue.length → ¬room →
        exec (.lookup tag group hash) s = joined p)

/-- A message given as raw bytes is discarded without effect out of lock, with a bad frame check, or when it is no
message that the pipeline sends; one that is, has the effect of its own command (R34; a length that is not the kind's:
log 25). -/
def Obligations.BadMessagesAreDiscarded : Prop :=
  ∀ (bytes : List Byte) (s : State),
    (s.port.lock = .outOfLock ∨ linkCheck bytes = false ∨ (∀ k, bytes.head? = some k → k ≠ 1 ∧ k ≠ 2 ∧ k ≠ 5) →
      exec (.messageDiscard bytes) s = .next s)
    ∧ (s.port.lock = .inLock → Arrival.parse bytes = none → exec (.messageDiscard bytes) s = .next s)
    ∧ (∀ version, s.port.lock = .inLock → Arrival.parse bytes = some (.hello version) →
        exec (.messageDiscard bytes) s = exec (.hello version) s)
    ∧ (∀ l, s.port.lock = .inLock → Arrival.parse bytes = some (.lookup l) →
        exec (.messageDiscard bytes) s = exec (.lookup l.tag l.group l.hash) s)
    ∧ (∀ uplink content, s.port.lock = .inLock → Arrival.parse bytes = some (.probeIn uplink content) →
        exec (.messageDiscard bytes) s = exec (.probeIn uplink content) s)

/-- MESSAGE_SENT: an answering HELLO makes the link READY when the version received is 1, and DOWN with no probe waiting
otherwise; an answer leaves the head of the lane, and a probe the head of the waiting probes unless a newer one has
taken its place; then the transmitter takes the next message (R31, R39, R41; the replaced probe: log 8). The order of
the transmitter: nothing while it sends; an answering HELLO, also while DOWN; in READY the flow-control message; then
the heads of the lane and of the waiting probes, the kind not taken last when both wait (R41) (that the flow-control
mark clears at the taking: log 9). The model's own choice: MESSAGE_SENT with no message being sent changes nothing (log
2). -/
def Obligations.SentMessageGivesWayToTheNext : Prop :=
  (∀ s : State,
     let p := s.port
     let sent (q : Port) : Host.Outcome State Fault Refusal :=
       .next { s with port := Port.transmit { q with sending := none } }
     (p.sending = none → exec .messageSent s = .next s)
     ∧ (p.sending = some .hello → p.answering = some 1 →
         exec .messageSent s = sent { p with answering := none, link := .ready })
     ∧ (p.sending = some .hello → p.answering ≠ some 1 →
         exec .messageSent s = sent { p with answering := none, link := .down, probes := [] })
     ∧ (p.sending = some .pause ∨ p.sending = some .proceed → exec .messageSent s = sent p)
     ∧ (∀ a, p.sending = some (.answer a) → exec .messageSent s = sent { p with lane := p.lane.tail })
     ∧ (∀ q rest, p.sending = some (.probe q) → p.probes = q :: rest →
         exec .messageSent s = sent { p with probes := rest })
     ∧ (∀ q, p.sending = some (.probe q) → p.probes.head? ≠ some q → exec .messageSent s = sent p))
  ∧ (∀ p : Port,
       (p.sending ≠ none → p.transmit = p)
       ∧ (p.sending = none → p.answering ≠ none → p.transmit = { p with sending := some .hello })
       ∧ (p.answering = none → p.link = .down → p.transmit = p)
       ∧ (p.sending = none → p.answering = none → p.link = .ready →
           (p.flow = .pause → p.transmit = { p with sending := some .pause, flow := .none })
           ∧ (p.flow = .proceed → p.transmit = { p with sending := some .proceed, flow := .none })
           ∧ (∀ a rest, p.flow = .none → p.lane = a :: rest → p.probes = [] ∨ p.lastTaken = .probe →
               p.transmit = { p with sending := some (.answer a), lastTaken := .answer })
           ∧ (∀ q rest, p.flow = .none → p.probes = q :: rest → p.lane = [] ∨ p.lastTaken = .answer →
               p.transmit = { p with sending := some (.probe q), lastTaken := .probe })
           ∧ (p.flow = .none → p.lane = [] → p.probes = [] → p.transmit = p)))

/-! ### Lookup resolution -/

/-- LOOKUP_TAKEN: the head lookup is answered at the taking by the first of the checks of R95 that applies, or its
bucket read is requested with the taking view held: the run state, the group count, the plan mark, the record of the
group, the state and the shadowed attribute of every uplink, and, for a stranded group with an escape group, the record
of that group; with no lookup waiting, a resolution in progress or a full lane nothing is taken (R36, R37, R94 to
R99). -/
def Obligations.LookupTakenAnswersOrReads : Prop :=
  ∀ (s : State) (l : Lookup) (rest : List Lookup),
    let p := s.port
    let g := s.group l.group.toNat
    let answered (a : Answer) : Prop := exec .lookupTaken s = .next { s with port := (p.answered a).transmit }
    let taken := p.queue = l :: rest ∧ p.resolution = none ∧ p.lane.length < 8
    let named := s.control.runState ≠ .off ∧ l.group.toNat < s.area.groupCount
    (p.queue = [] ∨ p.resolution ≠ none ∨ 8 ≤ p.lane.length → exec .lookupTaken s = .next s)
    ∧ (taken → s.control.runState = .off → answered { tag := l.tag, outcome := .notReady, uplink := 0, escaped := false })
    ∧ (taken → s.control.runState ≠ .off → s.area.groupCount ≤ l.group.toNat →
        answered { tag := l.tag, outcome := .badGroup, uplink := 0, escaped := false })
    ∧ (taken → named → g.live = none → g.rebuild = none → answered
        { tag := l.tag, outcome := if s.area.planMark then .badGroup else .notReady, uplink := 0, escaped := false })
    ∧ (taken → named → g.live = none → g.rebuild ≠ none →
        answered { tag := l.tag, outcome := .notReady, uplink := 0, escaped := false })
    ∧ (∀ run slot m, taken → named → g.live = some run → g.pin = some slot → run.fields.members[slot]? = some m →
        (s.uplink m.uplink).state = .up →
        answered { tag := l.tag, outcome := .uplink, uplink := m.uplink, escaped := false })
    ∧ (∀ run, taken → named → g.live = some run →
        (∀ slot m, g.pin = some slot → run.fields.members[slot]? = some m → (s.uplink m.uplink).state ≠ .up) →
        let stranded := ∀ m ∈ run.fields.members, (s.uplink m.uplink).state ≠ .up
        ∃ view : TakingView, exec .lookupTaken s = .next { s with port := { p with
          resolution := some { lookup := l, view, phase := .wantRead } } }
          ∧ view.runState = s.control.runState ∧ view.groupCount = s.area.groupCount ∧ view.planMark = s.area.planMark
          ∧ view.group = { state := .live, live := some run, pin := g.pin }
          ∧ (∀ u, view.states.get u = (s.uplink u).state) ∧ (∀ u, view.shadowed.get u = s.shadowed u)
          ∧ (¬stranded ∨ run.fields.escape = none → view.escape = none)
          ∧ (∀ e, stranded → run.fields.escape = some e → view.escape =
              some { state := (s.group e).state, live := (s.group e).live, pin := (s.group e).pin }))

/-- LOOKUP_BUCKET_READ_DONE: a group that was not stranded at the taking is answered by the bucket settled under the
taking view, the bucket taken as faulted when its block has left the run or it was read faulted; a stranded group is
answered by its escape group, by NO_ROUTE, or by a second read; a fault in a block of the run is offered for fix; and an
answered lookup leaves the queue, with what that does to the flow control (R36, R37, R85, R100 to R104). -/
def Obligations.LookupReadIsSettledAndAnswered : Prop :=
  ∀ (s : State) (a : BucketAccess) (r : Resolution) (run : LiveRun),
    s.accessOf .lookup = some a → a.wanted = true → s.port.resolution = some r → r.view.group.live = some run →
    let up : Fin 32 → Bool := fun u => decide (r.view.states.get u = .up)
    let shadowed : Fin 32 → Bool := fun u => r.view.shadowed.get u
    let g := r.lookup.group.toNat
    let b := r.lookup.hash.toNat % run.fields.bucketSize
    let owns := a.owner = .run g (b / 64)
    let offered := s.offerFix
      { group := g, bucket := b, block := run.blocks.getD (b / 64) 0, offset := b % 64, foundBy := .lookup }
    let settled := if owns ∧ a.bucket.faulted = false then run.fields.settle up shadowed b a.bucket.home a.bucket.current
      else run.fields.settle up shadowed b (run.fields.homeOf b) (run.fields.homeOf b)
    let noRoute : Answer := { tag := r.lookup.tag, outcome := .noRoute, uplink := 0, escaped := false }
    ∃ t, exec .lookupBucketReadDone s = .next t ∧ t.monitor = s.monitor ∧ t.groups = s.groups ∧ t.area = s.area
      ∧ t.control = s.control ∧ t.conduits = s.conduits
      ∧ (owns → a.bucket.faulted = true → t.engine = offered.engine
          ∧ t.store = { s.store with access := none, fixQueue := offered.store.fixQueue })
      ∧ (¬owns ∨ a.bucket.faulted = false → t.engine = s.engine ∧ t.store = { s.store with access := none })
      ∧ (run.fields.isStranded up = false → t.port = (s.port.answered (match settled.bind run.fields.uplinkOf with
            | some u => { tag := r.lookup.tag, outcome := .uplink, uplink := u, escaped := false }
            | none => noRoute)).transmit)
      ∧ (run.fields.isStranded up = true →
          (∀ e other, r.view.escape = some e → e.live = some other → other.fields.isStranded up = true) →
          t.port = (s.port.answered noRoute).transmit)
      ∧ (∀ e other, run.fields.isStranded up = true → r.view.escape = some e → e.live = some other →
          other.fields.isStranded up = false →
          (∀ slot u, e.pin = some slot → other.fields.uplinkOf slot = some u → up u = true →
            t.port = (s.port.answered
              { tag := r.lookup.tag, outcome := .uplink, uplink := u, escaped := true }).transmit)
          ∧ ((∀ slot u, e.pin = some slot → other.fields.uplinkOf slot = some u → up u = false) →
              t.port = { s.port with resolution := some { r with phase := .wantEscape } }))

/-- ESCAPE_READ_DONE: the lookup is answered by the escape group's bucket settled under the taking view, with the
escaped mark; a fault in a block of the escape group's run is offered for fix; and the lookup leaves the queue, with
what that does to the flow control (R36, R37, R85, R104). -/
def Obligations.EscapeReadIsSettledAndAnswered : Prop :=
  ∀ (s : State) (a : BucketAccess) (r : Resolution) (named run : LiveRun) (e : GroupView) (g : Nat),
    s.accessOf .escape = some a → a.wanted = true → s.port.resolution = some r →
    r.view.group.live = some named → named.fields.escape = some g → r.view.escape = some e → e.live = some run →
    let up : Fin 32 → Bool := fun u => decide (r.view.states.get u = .up)
    let shadowed : Fin 32 → Bool := fun u => r.view.shadowed.get u
    let b := r.lookup.hash.toNat % run.fields.bucketSize
    let owns := a.owner = .run g (b / 64)
    let offered := s.offerFix
      { group := g, bucket := b, block := run.blocks.getD (b / 64) 0, offset := b % 64, foundBy := .lookup }
    let settled := if owns ∧ a.bucket.faulted = false then
        run.fields.settle up shadowed b a.bucket.home a.bucket.current
      else run.fields.settle up shadowed b (run.fields.homeOf b) (run.fields.homeOf b)
    ∃ t, exec .escapeReadDone s = .next t ∧ t.monitor = s.monitor ∧ t.groups = s.groups ∧ t.area = s.area
      ∧ t.control = s.control ∧ t.conduits = s.conduits
      ∧ (owns → a.bucket.faulted = true → t.engine = offered.engine
          ∧ t.store = { s.store with access := none, fixQueue := offered.store.fixQueue })
      ∧ (¬owns ∨ a.bucket.faulted = false → t.engine = s.engine ∧ t.store = { s.store with access := none })
      ∧ t.port = (s.port.answered (match settled.bind run.fields.uplinkOf with
        | some u => { tag := r.lookup.tag, outcome := .uplink, uplink := u, escaped := true }
        | none => { tag := r.lookup.tag, outcome := .noRoute, uplink := 0, escaped := false })).transmit

/-- Settling a bucket: its home in a revertive group while that is UP; else its current member while that is UP and is
PRIMARY or no PRIMARY member is UP; else the entry of the live roster at the bucket's position; and no member exactly
when none is UP (R60, R61). The live roster is the first tier that is not empty, its members in slot order, each as
often as its weight (R58); the home roster is that of the PRIMARY members, or of the STANDBY ones where there is no
PRIMARY (R57). What is written: a clean bucket its new member only; a faulted bucket its home and the settled member, or
the home for none (R62, R63); a block step writes the home and the member settled from it (R63, R134). A member that
settling names is UP; the weights of a row are 1 to 8 (R52). -/
def Obligations.SettledMemberIsUp : Prop :=
  (∀ (f : GroupFields) (up shadowed : Fin 32 → Bool) (b h c : Nat),
    let slotUp (k : Nat) : Prop := ∃ m, f.members[k]? = some m ∧ up m.uplink = true
    let slotPrimary (k : Nat) : Prop := ∃ m, f.members[k]? = some m ∧ m.role = .primary
    let primaryUp := ∃ m ∈ f.members, m.role = .primary ∧ up m.uplink = true
    let first := f.revertive = true ∧ slotUp h
    let second := slotUp c ∧ (slotPrimary c ∨ ¬primaryUp)
    let roster := f.liveRoster up shadowed
    (first → f.settle up shadowed b h c = some h)
    ∧ (¬first → second → f.settle up shadowed b h c = some c)
    ∧ (¬first → ¬second → (∃ m ∈ f.members, up m.uplink = true) →
        f.settle up shadowed b h c = some (roster.getD (b % roster.length) 0))
    ∧ ((∀ m ∈ f.members, up m.uplink = false) → f.settle up shadowed b h c = none))
  ∧ (∀ (f : GroupFields) (up shadowed : Fin 32 → Bool),
      let inTier (t : Fin 4) (m : Member) : Bool := up m.uplink
        && (match t with
          | 0 => decide (m.role = .primary) && !shadowed m.uplink
          | 1 => decide (m.role = .primary) && shadowed m.uplink
          | 2 => decide (m.role = .standby) && !shadowed m.uplink
          | 3 => decide (m.role = .standby) && shadowed m.uplink)
      ((∀ m ∈ f.members, up m.uplink = false) → f.liveRoster up shadowed = [])
      ∧ ∀ t, (∃ m ∈ f.members, inTier t m = true) → (∀ t' < t, ∀ m ∈ f.members, inTier t' m = false) →
          f.liveRoster up shadowed = f.members.zipIdx.flatMap fun m =>
            if inTier t m.1 then List.replicate m.1.weight m.2 else [])
  ∧ (∀ (f : GroupFields) (b : Nat),
      let listed : Role := if ∃ m ∈ f.members, m.role = .primary then .primary else .standby
      let roster := f.members.zipIdx.flatMap fun m => if m.1.role = listed then List.replicate m.1.weight m.2 else []
      f.homeOf b = roster.getD (b % roster.length) 0)
  ∧ (∀ (f : GroupFields) (up shadowed : Fin 32 → Bool) (b : Nat) (bucket : Bucket),
      let home := f.homeOf b
      let fromHome := (f.settle up shadowed b home home).getD home
      let settled := f.settle up shadowed b bucket.home bucket.current
      (bucket.faulted = true → f.rewrite up shadowed b bucket = some (home, fromHome, true))
      ∧ (∀ m, bucket.faulted = false → settled = some m → m ≠ bucket.current →
          f.rewrite up shadowed b bucket = some (bucket.home, m, false))
      ∧ (bucket.faulted = false → settled = none ∨ settled = some bucket.current →
          f.rewrite up shadowed b bucket = none)
      ∧ f.stagedBucket up shadowed b = { home, current := fromHome, faulted := false })
  ∧ (∀ (f : GroupFields) (up shadowed : Fin 32 → Bool) (b h c : Nat), (∀ m ∈ f.members, 1 ≤ m.weight) →
      (f.settle up shadowed b h c = none ↔ ∀ m ∈ f.members, up m.uplink = false)
      ∧ ∀ slot, f.settle up shadowed b h c = some slot → ∃ m, f.members[slot]? = some m ∧ up m.uplink = true)

/-! ### The bucket store -/

/-- PARITY_FAULT marks the bucket it finds corrupted, both values kept, in a block of any owner, and changes nothing
else; every write of a bucket clears the mark: a write into a live run, a block step's and the scrubber's (R83). -/
def Obligations.ParityFaultMarksOneBucket : Prop :=
  (∀ (block : Fin 2048) (offset : Fin 64) (s : State), Memory.wf s.store.memory →
    ∃ t, exec (.parityFault block offset) s = .next t
      ∧ t = { s with store := { s.store with memory := t.store.memory } }
      ∧ t.bucket block.val offset.val = { s.bucket block.val offset.val with faulted := true }
      ∧ ∀ i, i ≠ 64 * block.val + offset.val → Memory.read t.store.memory i = Memory.read s.store.memory i)
  ∧ (∀ (s : State) (g b home current : Nat) (finder : Option FoundBy) (run : LiveRun), Memory.wf s.store.memory →
      (s.group g).live = some run →
      (s.writeLiveBucket g b home current finder).bucket (run.blocks.getD (b / 64) 0) (b % 64)
        = { home, current, faulted := false })
  ∧ (∀ (s : State) (g position offset : Nat) (r : Rebuild), Memory.wf s.store.memory → (s.group g).rebuild = some r →
      ((s.writeStagedBucket g position offset).bucket (r.blocks.getD position 0) offset).faulted = false)
  ∧ (∀ (s : State) (b : Burst), Memory.wf s.store.memory → b.phase = .wantWrite → s.owner s.store.scrubCursor = .free →
      (s.grantScrub b).bucket s.store.scrubCursor b.offset = Bucket.reset)

/-- A fix offered is absorbed when an item with the same group and bucket waits, joins the fix queue and the intake
queue while fewer than 64 wait, and is dropped otherwise (R85). -/
def Obligations.FixOffersJoinOnce : Prop :=
  ∀ (s : State) (item : FixItem),
    ((∃ i ∈ s.store.fixQueue, i.group = item.group ∧ i.bucket = item.bucket) → s.offerFix item = s)
    ∧ ((∀ i ∈ s.store.fixQueue, i.group ≠ item.group ∨ i.bucket ≠ item.bucket) → s.store.fixQueue.length < 64 →
        s.offerFix item = { s with
          store := { s.store with fixQueue := s.store.fixQueue ++ [item] }
          engine := { s.engine with intake := s.engine.intake ++ [.fix item.group item.bucket] } })
    ∧ (64 ≤ s.store.fixQueue.length → s.offerFix item = s)

/-- The scrubber: SCRUB_TIMER_EXPIRY starts the timer again, and a burst unless one is in progress; a read that is clean
goes on to the next bucket; a faulted one is offered for fix in a block of a live run, sets the recheck flag of a
rebuild that holds the block, and is rewritten in a free block; the write goes on to the next bucket (R88, R89) (the
owner at the grant: log 28). -/
def Obligations.ScrubberTreatsEachBucket : Prop :=
  (∀ s : State, s.store.scrubTimer = s.now → exec .scrubTimerExpiry s = .next { s with store := { s.store with
      scrubTimer := s.now + BitVec.ofNat 32 (1000 * s.store.scrubInterval)
      burst := some (s.store.burst.getD { blocksLeft := s.store.scrubBurst, offset := 0, phase := .wantRead }) } })
  ∧ (∀ (s : State) (a : BucketAccess) (b : Burst), s.accessOf .scrubRead = some a → a.wanted = true →
      s.store.burst = some b →
      let done : BucketStore := { s.store with access := none }
      (a.bucket.faulted = false → exec .scrubReadDone s = .next { s with store := done.scrubOn b })
      ∧ (a.bucket.faulted = true → a.owner = .free →
          exec .scrubReadDone s = .next { s with store := { done with burst := some { b with phase := .wantWrite } } })
      ∧ (∀ g position, a.bucket.faulted = true → a.owner = .run g position →
          let offered := s.offerFix { group := g, bucket := 64 * position + b.offset, block := s.store.scrubCursor
                                      offset := b.offset, foundBy := .scrubber }
          exec .scrubReadDone s = .next { s with
            engine := offered.engine
            store := { done with fixQueue := offered.store.fixQueue }.scrubOn b })
      ∧ (∀ g position, a.bucket.faulted = true → a.owner = .reserved g position →
          exec .scrubReadDone s = .next { s with
            groups := if ∃ r, (s.group g).rebuild = some r ∧ r.blocks[position]? = some s.store.scrubCursor then
                (s.markRebuild g).groups
              else s.groups
            store := done.scrubOn b }))
  ∧ (∀ (s : State) (a : BucketAccess) (b : Burst), s.accessOf .scrubWrite = some a → a.wanted = true →
      s.store.burst = some b →
      exec .scrubWriteDone s = .next { s with store := BucketStore.scrubOn { s.store with access := none } b })

/-- Snapshots: each bucket read hands one entry to the area at the buffer address of its bucket, and counts the faulted
ones; when the last entry has been written the order completes DONE with R91's results, and the record goes (R91). -/
def Obligations.SnapshotWritesItsEntries : Prop :=
  (∀ (s : State) (a : BucketAccess) (r : SnapshotRecord), s.accessOf .snapshot = some a → a.wanted = true →
    s.store.snapshot = some r →
    ∃ t, exec .snapshotReadDone s = .next t
      ∧ t.store.snapshot = some { r with
          next := r.next + 1, reading := false, faulted := r.faulted + if a.bucket.faulted then 1 else 0 }
      ∧ t.store = { s.store with access := none, snapshot := t.store.snapshot }
      ∧ t.Wants (.snapshotEntry r.slot (r.buffer + BitVec.ofNat 64 (4 * r.next))
          [BitVec.ofNat 8 a.bucket.home, BitVec.ofNat 8 a.bucket.current, if a.bucket.faulted then 1 else 0, 0]
          (decide (r.next + 1 = 64 * r.blocks.length)))
      ∧ t.monitor = s.monitor ∧ t.groups = s.groups ∧ t.engine = s.engine ∧ t.port = s.port ∧ t.control = s.control)
  ∧ ∀ (s : State) (slot : Fin 16) (address : BitVec 64) (entry : List Byte) (last : Bool) (r : SnapshotRecord),
    s.inFlight = some (.snapshotEntry slot address entry last) → s.store.snapshot = some r →
    ∃ t, exec .snapshotEntryWritten s = .next t ∧ t.monitor = s.monitor ∧ t.groups = s.groups ∧ t.engine = s.engine
      ∧ t.port = s.port ∧ t.control.settings = s.control.settings
      ∧ (last = true → slot = r.slot → r.next = 64 * r.blocks.length →
          t.store = { s.store with snapshot := none }
          ∧ s.Completes t (some r.slot) .snapshot false .none
              { r1 := BitVec.ofNat 32 (64 * r.blocks.length), r2 := BitVec.ofNat 32 r.faulted, r3 := r.generation
                r4 := s.now - r.start })
      ∧ (last = false ∨ slot ≠ r.slot → t.store = s.store)

/-- BUCKET_ACCESS_GRANT: nothing while an access is in progress; then a lookup first, then the Walk Engine, then the
scrubber and the snapshot, alternating when both wait; a read returns the bucket as it stands, and a write takes effect
on its bucket and no other: of a walk step, a settle pass, a fix or a block step, the load counts following in a live
run, SCRUB_FIX reported for a fault, and the buckets moved counted for a walk; of the scrubber, home 0 and current 0 in
a free block; where the scrubber and the snapshot both wait and neither has been granted yet, one of the two is, which
the spec leaves open (log 5) (R81, R82, R86, R87, R89, R115, R134, R140; that an access takes effect at its grant: log
10; that the scrubber's write leaves a block alone that is no longer free: log 38). -/
def Obligations.GrantsFollowTheClasses : Prop :=
  ∀ s : State,
    let idle := s.store.access = none
    let noLookup := s.port.wantsAccess = false
    let read (requester : Requester) (block offset : Nat) : BucketAccess :=
      { requester, wanted := true, bucket := s.bucket block offset, owner := s.owner block }
    let reads (t : State) (requester : Requester) (run : LiveRun) (b : Nat) : Prop := t.port = s.port
      ∧ t.groups = s.groups ∧ t.monitor = s.monitor
      ∧ t.store = { s.store with access := some (read requester (run.blocks.getD (b / 64) 0) (b % 64)) }
    let one (c : Prop) [Decidable c] : Nat := if c then 1 else 0
    let writes (t : State) (requester : Requester) (run : LiveRun) (g b home current : Nat) (found : Option FoundBy) :
        Prop :=
      let block := run.blocks.getD (b / 64) 0
      let old := (s.bucket block (b % 64)).current
      t.port = s.port ∧ t.groups = s.groups ∧ t.monitor = s.monitor
      ∧ t.store = { s.store with
          access := t.store.access, memory := t.store.memory, loads := t.store.loads }
      ∧ (∃ a, t.store.access = some a ∧ a.requester = requester ∧ a.wanted = true)
      ∧ t.bucket block (b % 64) = { home, current, faulted := false }
      ∧ (∀ i, i ≠ 64 * block + b % 64 → Memory.read t.store.memory i = Memory.read s.store.memory i)
      ∧ (old = current → t.store.loads = s.store.loads)
      ∧ (old ≠ current → ∀ v, t.store.loads.get v = s.store.loads.get v - one (run.fields.uplinkOf old = some v)
          + one (run.fields.uplinkOf current = some v))
      ∧ (found = none → t.area.holding = s.area.holding)
      ∧ (∀ f, found = some f → t.Reports s.now (.scrubFix g b block (b % 64) f old home current))
    (s.port.wantsAccess = true ↔
      ∃ r, s.port.resolution = some r ∧ (r.phase = .wantRead ∨ r.phase = .wantEscape))
    ∧ (s.engineWaits = true ↔ ∃ w, s.engine.work = some w ∧ match w with
        | .walkStep _ _ _ _ phase => phase ≠ .reading ∧ phase ≠ .writing
        | .settlePass _ _ phase => phase ≠ .reading ∧ phase ≠ .writing
        | .blockStep _ _ _ writing => writing = false
        | .fix _ phase => phase ≠ .reading ∧ phase ≠ .writing)
    ∧ (s.scrubWaits = true ↔ ∃ b, s.store.burst = some b ∧ (b.phase = .wantRead ∨ b.phase = .wantWrite))
    ∧ (s.snapshotWaits = true ↔ ∃ r, s.store.snapshot = some r ∧ r.reading = false ∧ r.next < 64 * r.blocks.length)
    ∧ (s.store.access ≠ none → exec .bucketAccessGrant s = .next s)
    ∧ (∀ r run, idle → s.port.resolution = some r → r.phase = .wantRead → r.view.group.live = some run →
        let b := r.lookup.hash.toNat % run.fields.bucketSize
        ∃ t, exec .bucketAccessGrant s = .next t ∧ t.engine = s.engine
          ∧ t.port = { s.port with resolution := some { r with phase := .reading } }
          ∧ t.store = { s.store with access := some (read .lookup (run.blocks.getD (b / 64) 0) (b % 64)) })
    ∧ (∀ r e run, idle → s.port.resolution = some r → r.phase = .wantEscape → r.view.escape = some e →
        e.live = some run →
        let b := r.lookup.hash.toNat % run.fields.bucketSize
        ∃ t, exec .bucketAccessGrant s = .next t ∧ t.engine = s.engine
          ∧ t.port = { s.port with resolution := some { r with phase := .readingEscape } }
          ∧ t.store = { s.store with access := some (read .escape (run.blocks.getD (b / 64) 0) (b % 64)) })
    ∧ (∀ u g b converted run, idle → noLookup → s.engine.work = some (.walkStep u g b converted .wantRead) →
        (s.group g).live = some run →
        ∃ t, exec .bucketAccessGrant s = .next t ∧ reads t .walkStep run b
          ∧ t.engine = { s.engine with work := some (.walkStep u g b converted .reading) })
    ∧ (∀ g b run, idle → noLookup → s.engine.work = some (.settlePass g b .wantRead) → (s.group g).live = some run →
        ∃ t, exec .bucketAccessGrant s = .next t ∧ reads t .settlePass run b
          ∧ t.engine = { s.engine with work := some (.settlePass g b .reading) })
    ∧ (∀ item, idle → noLookup → s.engine.work = some (.fix item .wantRead) →
        ∃ t, exec .bucketAccessGrant s = .next t ∧ t.port = s.port ∧ t.groups = s.groups ∧ t.monitor = s.monitor
          ∧ t.engine = { s.engine with work := some (.fix item .reading) }
          ∧ t.store = { s.store with access := some (read .fix item.block item.offset) })
    ∧ (∀ u g b converted home current found run, idle → noLookup → Memory.wf s.store.memory →
        s.engine.work = some (.walkStep u g b converted (.wantWrite home current found)) →
        (s.group g).live = some run →
        let moved : Walk → Walk := fun w =>
          if w.uplink = u ∧ (s.bucket (run.blocks.getD (b / 64) 0) (b % 64)).current ≠ current then
            { w with bucketsMoved := min 1048575 (w.bucketsMoved + 1) }
          else w
        ∃ t, exec .bucketAccessGrant s = .next t
          ∧ writes t .walkStep run g b home current (if found then some .walkStep else none)
          ∧ t.engine = { s.engine with
              work := some (.walkStep u g b converted .writing)
              urgent := s.engine.urgent.map moved, restore := s.engine.restore.map moved })
    ∧ (∀ g b home current found run, idle → noLookup → Memory.wf s.store.memory →
        s.engine.work = some (.settlePass g b (.wantWrite home current found)) → (s.group g).live = some run →
        ∃ t, exec .bucketAccessGrant s = .next t
          ∧ writes t .settlePass run g b home current (if found then some .settlePass else none)
          ∧ t.engine = { s.engine with work := some (.settlePass g b .writing) })
    ∧ (∀ item home current found run, idle → noLookup → Memory.wf s.store.memory →
        s.engine.work = some (.fix item (.wantWrite home current found)) → (s.group item.group).live = some run →
        ∃ t, exec .bucketAccessGrant s = .next t
          ∧ writes t .fix run item.group item.bucket home current (some item.foundBy)
          ∧ t.engine = { s.engine with work := some (.fix item .writing) })
    ∧ (∀ g position offset r, idle → noLookup → Memory.wf s.store.memory →
        s.engine.work = some (.blockStep g position offset false) → (s.group g).rebuild = some r →
        let block := r.blocks.getD position 0
        let home := r.staged.homeOf (64 * position + offset)
        let member := r.staged.settle s.isUp s.shadowed (64 * position + offset) home home
        ∃ t, exec .bucketAccessGrant s = .next t ∧ t.port = s.port ∧ t.groups = s.groups ∧ t.monitor = s.monitor
          ∧ t.engine = { s.engine with work := some (.blockStep g position offset true) }
          ∧ t.store = { s.store with access := t.store.access, memory := t.store.memory }
          ∧ (∃ a, t.store.access = some a ∧ a.requester = .blockStep ∧ a.wanted = true)
          ∧ t.bucket block offset = { home, current := member.getD home, faulted := false }
          ∧ (∀ i, i ≠ 64 * block + offset → Memory.read t.store.memory i = Memory.read s.store.memory i))
    ∧ (idle → noLookup → s.engineWaits = false → s.scrubWaits = false → s.snapshotWaits = false →
        ∃ t, exec .bucketAccessGrant s = .next t ∧ t.store = s.store ∧ t.port = s.port ∧ t.engine = s.engine)
    ∧ (∀ b, idle → noLookup → s.engineWaits = false → s.store.burst = some b →
        s.snapshotWaits = false ∨ s.store.lastBackground = some .snapshot →
        let block := s.store.scrubCursor
        (b.phase = .wantRead → ∃ t, exec .bucketAccessGrant s = .next t ∧ t.port = s.port ∧ t.engine = s.engine
          ∧ t.groups = s.groups ∧ t.monitor = s.monitor
          ∧ t.store = { s.store with
              access := some (read .scrubRead block b.offset), burst := some { b with phase := .reading }
              lastBackground := some .scrubber })
        ∧ (b.phase = .wantWrite → Memory.wf s.store.memory →
          ∃ t a, exec .bucketAccessGrant s = .next t ∧ t.port = s.port ∧ t.engine = s.engine
            ∧ t.groups = s.groups ∧ t.monitor = s.monitor ∧ a.requester = .scrubWrite ∧ a.wanted = true
            ∧ t.store = { s.store with
                access := some a, memory := t.store.memory, burst := some { b with phase := .writing }
                lastBackground := some .scrubber }
            ∧ (s.owner block = .free → t.bucket block b.offset = { home := 0, current := 0, faulted := false })
            ∧ (s.owner block ≠ .free → t.store.memory = s.store.memory)
            ∧ ∀ i, i ≠ 64 * block + b.offset → Memory.read t.store.memory i = Memory.read s.store.memory i))
    ∧ (∀ r, idle → noLookup → s.engineWaits = false → s.store.snapshot = some r → s.snapshotWaits = true →
        s.scrubWaits = false ∨ s.store.lastBackground = some .scrubber →
        ∃ t, exec .bucketAccessGrant s = .next t ∧ t.port = s.port ∧ t.engine = s.engine
          ∧ t.store.access = some (read .snapshot (r.blocks.getD (r.next / 64) 0) (r.next % 64))
          ∧ t.store.lastBackground = some .snapshot ∧ t.store.snapshot = some { r with reading := true }
          ∧ t.store.burst = s.store.burst ∧ t.store.memory = s.store.memory ∧ t.store.loads = s.store.loads)
    ∧ (idle → noLookup → s.engineWaits = false → s.scrubWaits = true → s.snapshotWaits = true →
        s.store.lastBackground = none →
        ∃ t granted, exec .bucketAccessGrant s = .next t ∧ t.store.lastBackground = some granted
          ∧ ∃ other, other ≠ granted
            ∧ ∃ t', exec .bucketAccessGrant { s with store := { s.store with lastBackground := some other } } = .next t'
              ∧ t.store = t'.store ∧ t.port = t'.port ∧ t.engine = t'.engine ∧ t.groups = t'.groups
              ∧ t.monitor = t'.monitor ∧ t.conduits = t'.conduits ∧ t.control = t'.control)

/-! ### The Walk Engine -/

/-- WORK_SELECT: nothing while a unit is in progress; then the head URGENT walk; then the head RESTORE walk, unless an
intake item waits and the restore tally has reached the intake weight; then the head of the intake queue, which clears
the tally (R121, R122). A walk steps on the first group of its uplink's list above its cursor (R114); one without such a
group ends, of either class and whatever else waits: it leaves its queue with WALK_DONE, an URGENT one gives a drill of
its uplink that has no walk result its buckets moved and its duration, and selection goes on from there (R21, R118,
R121) (that one command makes one selection: log 30). -/
def Obligations.SelectionFollowsThePriority : Prop :=
  ∀ s : State,
    let e := s.engine
    let selected (engine : WalkEngine) : Prop := ∃ t, exec .workSelect s = .next t ∧ t.engine = engine
      ∧ t.monitor = s.monitor ∧ t.store = s.store ∧ t.groups = s.groups ∧ t.port = s.port ∧ t.conduits = s.conduits
    let nextStep (w : Walk) : Option Nat :=
      (e.index.get w.uplink).find? fun g => w.cursor.all fun c => decide (c < g)
    let ended (t : State) (w : Walk) (cls : WalkClass) (engine : WalkEngine) : Prop :=
      s.Produced t [.walkDone w.uplink cls w.conversions w.groupsTouched w.bucketsMoved (s.now - w.start)]
      ∧ t.engine = engine ∧ t.store = s.store ∧ t.groups = s.groups ∧ t.port = s.port ∧ t.conduits = s.conduits
      ∧ t.control.settings = s.control.settings ∧ t.monitor.lines = s.monitor.lines ∧ s.OnlyUplink t w.uplink
      ∧ (cls = .restore → t.uplink w.uplink = s.uplink w.uplink)
      ∧ (cls = .urgent → t.uplink w.uplink = { s.uplink w.uplink with
          drill := (s.uplink w.uplink).drill.map fun d =>
            { d with walkResult := some (d.walkResult.getD (w.bucketsMoved, s.now - w.start)) } })
    let turn := e.intake = [] ∨ e.tally < e.weight
    (e.work ≠ none → exec .workSelect s = .next s)
    ∧ (∀ w rest g, e.work = none → e.urgent = w :: rest → nextStep w = some g →
        selected { e with work := some (.walkStep w.uplink g 0 false .wantRead) })
    ∧ (∀ w rest g, e.work = none → e.urgent = [] → e.restore = w :: rest → turn →
        nextStep w = some g →
        selected { e with
          work := some (.walkStep w.uplink g 0 false .wantRead)
          tally := if e.tally < e.weight then e.tally + 1 else e.tally })
    ∧ (∀ g p rest, e.work = none → e.urgent = [] → e.restore = [] ∨ ¬turn → e.intake = .blockStep g p :: rest →
        selected { e with intake := rest, tally := 0, work := some (.blockStep g p 0 false) })
    ∧ (∀ g rest, e.work = none → e.urgent = [] → e.restore = [] ∨ ¬turn → e.intake = .settlePass g :: rest →
        selected { e with
          intake := rest, tally := 0
          work := if (s.group g).live = none then none else some (.settlePass g 0 .wantRead) })
    ∧ (∀ g b item rest, e.work = none → e.urgent = [] → e.restore = [] ∨ ¬turn → e.intake = .fix g b :: rest →
        (s.store.fixQueue.find? fun i => i.group == g && i.bucket == b) = some item →
        ∃ t, exec .workSelect s = .next t ∧ t.monitor = s.monitor ∧ t.groups = s.groups ∧ t.port = s.port
          ∧ t.engine = { e with intake := rest, tally := 0, work := some (.fix item .wantRead) }
          ∧ t.store = { s.store with
              fixQueue := s.store.fixQueue.filter fun j => !(j.group == g && j.bucket == b) })
    ∧ (e.work = none → e.urgent = [] → e.restore = [] → e.intake = [] → selected e)
    ∧ (∀ w, e.work = none → e.urgent = [w] → e.restore = [] → e.intake = [] → nextStep w = none →
        ∃ t, exec .workSelect s = .next t ∧ ended t w .urgent { e with urgent := [] })
    ∧ (∀ w, e.work = none → e.urgent = [] → e.restore = [w] → e.intake = [] → nextStep w = none →
        ∃ t, exec .workSelect s = .next t ∧ ended t w .restore { e with restore := [] })
    ∧ (∀ w rest, e.work = none → e.urgent = w :: rest → nextStep w = none →
        ∃ t, ended t w .urgent { e with urgent := rest } ∧ exec .workSelect s = exec .workSelect t)
    ∧ (∀ w rest, e.work = none → e.urgent = [] → e.restore = w :: rest → turn → nextStep w = none →
        ∃ t, ended t w .restore { e with restore := rest } ∧ exec .workSelect s = exec .workSelect t)

/-- The flip (R137, R138): the reservation becomes the live run with the staged fields, its blocks read RUN and the old
run's blocks are FREE, the old run's buckets leave the load counts and the new run's join them (R80, R81), the member
index follows the new member list (R109), the generations are the row's, the rebuild is gone, its index reservation is
released; a pin is kept where its slot still holds the same uplink and lapses otherwise (R71), the strandedness is
compared (R65), a snapshot of the group ends with RUN_REPLACED (R91), and a set recheck flag queues a settle pass. The
records, these and no more, in this order: REBUILD_DONE, PIN_LAPSED, GROUP_STRANDED or GROUP_RECOVERED (R138), and then
the snapshot's ORDER_ENDED where its completion is not written to its slot (R137, R156); GROUP_STRANDED sets URGENT
(R65). A reservation's blocks are distinct, and none is a block of the live run. The model's own choices: a read of the
snapshot that has been granted is not counted (log 42), its results r2 to r4 are 0 (log 17), and the time stranded of
GROUP_RECOVERED is rounded down to ms (log 40). -/
def Obligations.FlipReplacesTheLiveRun : Prop :=
  ∀ (s : State) (g : Nat) (b : Rebuild) (rest : List IntakeItem), s.Canonical →
    s.engine.work = none → s.engine.urgent = [] → s.engine.restore = [] ∨ s.engine.weight ≤ s.engine.tally →
    s.engine.intake = .flip g :: rest → (s.group g).rebuild = some b → b.blocks.Nodup →
    (∀ run, (s.group g).live = some run → ∀ k ∈ run.blocks, k ∉ b.blocks) →
    let new : LiveRun := { fields := b.staged, blocks := b.blocks }
    let oldMembers : List Member := match (s.group g).live with | some run => run.fields.members | none => []
    let oldLoad (u : Fin 32) : Nat := match (s.group g).live with
      | some run => run.load s.store.memory u
      | none => 0
    let among (ms : List Member) (u : Fin 32) : Prop := ∃ m ∈ ms, m.uplink = u
    let r := s.group g
    let stranded := ∀ m ∈ b.staged.members, (s.uplink m.uplink).state ≠ .up
    let lapsed : List Entry := match r.pin with
      | none => []
      | some slot => match oldMembers[slot]? with
        | none => []
        | some m => if (b.staged.members[slot]?).map (·.uplink) = some m.uplink then []
          else [.pinLapsed g slot m.uplink b.generation]
    let compared : List Entry :=
      if r.reported = .active ∧ stranded then [.groupStranded g b.staged.escape b.generation]
      else if r.reported = .stranded ∧ ¬stranded then
        [.groupRecovered g b.generation (span (r.strandedSince.getD s.now) s.now / 1000)]
      else []
    let replaced : List Entry := match s.store.snapshot with
      | none => []
      | some n => if n.group = g then s.ending (some n.slot) .snapshot true .runReplaced
          { r1 := BitVec.ofNat 32 n.next, r2 := 0, r3 := 0, r4 := 0 }
        else []
    ∃ t, exec .workSelect s = .next t ∧ t.engine.work = none ∧ t.port = s.port ∧ t.monitor = s.monitor
      ∧ t.store.memory = s.store.memory ∧ t.conduits = s.conduits
      ∧ (t.group g).live = some new ∧ (t.group g).rebuild = none
      ∧ (t.group g).adoptedGeneration = b.generation ∧ (t.group g).liveGeneration = b.generation
      ∧ (t.group g).reported = (if stranded then .stranded else .active)
      ∧ (t.group g).strandedSince
        = (if r.reported = .active ∧ stranded then some s.now
          else if r.reported = .stranded ∧ ¬stranded then none else r.strandedSince)
      ∧ (∀ h, h ≠ g → t.group h = s.group h)
      ∧ (∀ i k, b.blocks[i]? = some k → t.owner k = .run g i)
      ∧ (∀ run, (s.group g).live = some run → ∀ k ∈ run.blocks, t.owner k = .free)
      ∧ (∀ u, t.store.loads.get u = s.store.loads.get u - oldLoad u + new.load s.store.memory u)
      ∧ (∀ u, among b.staged.members u → t.engine.index.get u
          = (s.engine.index.get u).filter (· < g) ++ g :: (s.engine.index.get u).filter (g < ·))
      ∧ (∀ u, ¬among b.staged.members u → among oldMembers u →
          t.engine.index.get u = (s.engine.index.get u).filter (· ≠ g))
      ∧ (∀ u, ¬among b.staged.members u → ¬among oldMembers u → t.engine.index.get u = s.engine.index.get u)
      ∧ t.engine.entriesInUse = s.engine.entriesInUse + b.staged.members.length - oldMembers.length
      ∧ t.engine.entriesReserved = s.engine.entriesReserved - b.indexReservation ∧ t.engine.tally = 0
      ∧ ((s.group g).pin = none → (t.group g).pin = none)
      ∧ (∀ slot m, (s.group g).pin = some slot → oldMembers[slot]? = some m →
          ((b.staged.members[slot]?).map (·.uplink) = some m.uplink → (t.group g).pin = some slot)
          ∧ ((b.staged.members[slot]?).map (·.uplink) ≠ some m.uplink → (t.group g).pin = none))
      ∧ (∀ r, s.store.snapshot = some r → r.group = g → t.store.snapshot = none
          ∧ s.Completes t (some r.slot) .snapshot true .runReplaced
              { r1 := BitVec.ofNat 32 r.next, r2 := 0, r3 := 0, r4 := 0 })
      ∧ (∀ r, s.store.snapshot = some r → r.group ≠ g → t.store.snapshot = some r)
      ∧ (b.recheck = true → .settlePass g ∈ t.engine.intake) ∧ (b.recheck = false → t.engine.intake = rest)
      ∧ s.Produced t (.rebuildDone g b.staged.bucketSize b.generation r.adoptedGeneration (s.now - b.adoptedAt)
          b.blocks.length b.recheck :: (lapsed ++ compared ++ replaced))
      ∧ t.control.settings = s.control.settings
      ∧ t.control.cause = s.control.cause ||| (if r.reported = .active ∧ stranded then 2 else 0)
          ||| (if s.area.gapCount = 0 ∧ t.area.gapCount ≠ 0 then 8 else 0)
      ∧ t.control.interruptsSent = s.control.interruptsSent
          + if s.control.cause &&& s.control.causeEn = 0 ∧ t.control.cause &&& s.control.causeEn ≠ 0 then 1 else 0

/-- A bucket read by a walk step or a settle pass: a bucket to be rewritten waits for its write, and any other, and one
whose write has completed, gives way to the next bucket; after the last the step ends: the walk's cursor stands at the
group unless it was converted, one more group is touched, the group's strandedness is compared, and the recheck flag of
its rebuild is set (R63, R115 to R117, R140). -/
def Obligations.StepsAndPassesTreatEachBucket : Prop :=
  ∀ (s : State) (a : BucketAccess) (g b : Nat) (run : LiveRun), s.Canonical → a.wanted = true →
    (s.group g).live = some run →
    let write := run.fields.rewrite s.isUp s.shadowed b a.bucket
    let kept (t : State) : Prop := t.store = { s.store with access := none } ∧ t.monitor = s.monitor ∧ t.port = s.port
    let ended (t : State) : Prop := kept t ∧ (∀ h, h ≠ g → t.group h = s.group h)
      ∧ (t.group g).reported = (if ∃ m ∈ run.fields.members, (s.uplink m.uplink).state = .up then .active else .stranded)
      ∧ (t.group g).rebuild = (s.group g).rebuild.map (fun r => { r with recheck := true })
    (∀ u converted, s.accessOf .walkStep = some a →
      let stepped : Walk → Walk := fun w => if w.uplink = u then
          { w with groupsTouched := min 65535 (w.groupsTouched + 1), cursor := if converted then w.cursor else some g }
        else w
      let goesOn := ∃ t, exec .walkStepAccessDone s = .next t ∧ kept t ∧ t.groups = s.groups
        ∧ t.engine = { s.engine with work := some (.walkStep u g (b + 1) converted .wantRead) }
      let ends := ∃ t, exec .walkStepAccessDone s = .next t ∧ ended t
        ∧ t.engine = { s.engine with
            work := none, urgent := s.engine.urgent.map stepped, restore := s.engine.restore.map stepped }
      (∀ home current found, s.engine.work = some (.walkStep u g b converted .reading) →
        write = some (home, current, found) →
        exec .walkStepAccessDone s = .next { s with
          store := { s.store with access := none }
          engine := { s.engine with work := some (.walkStep u g b converted (.wantWrite home current found)) } })
      ∧ ((s.engine.work = some (.walkStep u g b converted .reading) ∧ write = none)
            ∨ s.engine.work = some (.walkStep u g b converted .writing) →
          (b + 1 < run.fields.bucketSize → goesOn) ∧ (run.fields.bucketSize ≤ b + 1 → ends)))
    ∧ (s.accessOf .settlePass = some a →
      let goesOn := ∃ t, exec .settlePassAccessDone s = .next t ∧ kept t ∧ t.groups = s.groups
        ∧ t.engine = { s.engine with work := some (.settlePass g (b + 1) .wantRead) }
      let ends := ∃ t, exec .settlePassAccessDone s = .next t ∧ ended t ∧ t.engine = { s.engine with work := none }
      (∀ home current found, s.engine.work = some (.settlePass g b .reading) → write = some (home, current, found) →
        exec .settlePassAccessDone s = .next { s with
          store := { s.store with access := none }
          engine := { s.engine with work := some (.settlePass g b (.wantWrite home current found)) } })
      ∧ ((s.engine.work = some (.settlePass g b .reading) ∧ write = none)
            ∨ s.engine.work = some (.settlePass g b .writing) →
          (b + 1 < run.fields.bucketSize → goesOn) ∧ (run.fields.bucketSize ≤ b + 1 → ends)))

/-- A group's strandedness is reported when it changes: GROUP_STRANDED with the cause URGENT, or GROUP_RECOVERED with
the time stranded, in ms rounded down; a group whose strandedness is as reported is left alone (R65) (the rounding: log
40). -/
def Obligations.StrandednessIsReportedOnChange : Prop :=
  ∀ (s : State) (g : Nat) (run : LiveRun), Sparse.wf GroupRecord.reset s.groups → (s.group g).live = some run →
    let r := s.group g
    let t := s.compareStrandedness g
    let stranded := ∀ m ∈ run.fields.members, (s.uplink m.uplink).state ≠ .up
    (r.reported = .active → stranded → t.group g = { r with reported := .stranded, strandedSince := some s.now }
        ∧ t.Reports s.now (.groupStranded g run.fields.escape r.adoptedGeneration) ∧ t.control.cause &&& 2 = 2)
    ∧ (∀ since, r.reported = .stranded → r.strandedSince = some since → ¬stranded →
        t.group g = { r with reported := .active, strandedSince := none }
        ∧ t.Reports s.now (.groupRecovered g r.adoptedGeneration (span since s.now / 1000)))
    ∧ (r.reported = .active → ¬stranded → t = s) ∧ (r.reported = .stranded → stranded → t = s)

/-- BLOCK_STEP_WRITE_DONE: the next bucket of the block, and after bucket 63 the next block step or the flip joins the
intake queue and progress advances (R134). FIX_ACCESS_DONE: a fix whose bucket is still faulted in a block that is still
the run's is written its home and settled member, and any other ends (R86). -/
def Obligations.BlockStepsAndFixesAdvance : Prop :=
  (∀ (s : State) (a : BucketAccess) (g p o : Nat) (b : Rebuild), s.accessOf .blockStep = some a → a.wanted = true →
    s.engine.work = some (.blockStep g p o true) → (s.group g).rebuild = some b →
    let done : BucketStore := { s.store with access := none }
    (o + 1 < 64 → exec .blockStepWriteDone s = .next { s with
      store := done, engine := { s.engine with work := some (.blockStep g p (o + 1) false) } })
    ∧ (64 ≤ o + 1 → p + 1 < b.blocks.length → exec .blockStepWriteDone s = .next { s with
        store := done
        groups := (s.setGroup g { s.group g with rebuild := some { b with progress := .step (p + 1) } }).groups
        engine := { s.engine with work := none, intake := s.engine.intake ++ [.blockStep g (p + 1)] } })
    ∧ (64 ≤ o + 1 → b.blocks.length ≤ p + 1 → exec .blockStepWriteDone s = .next { s with
        store := done
        groups := (s.setGroup g { s.group g with rebuild := some { b with progress := .flip } }).groups
        engine := { s.engine with work := none, intake := s.engine.intake ++ [.flip g] } }))
  ∧ ∀ (s : State) (a : BucketAccess) (item : FixItem), s.accessOf .fix = some a → a.wanted = true →
    let done : BucketStore := { s.store with access := none }
    let stillFaulted := a.owner = .run item.group (item.bucket / 64) ∧ a.bucket.faulted = true
    let ended : Host.Outcome State Fault Refusal := .next { s with store := done, engine := { s.engine with work := none } }
    (∀ run, s.engine.work = some (.fix item .reading) → stillFaulted → (s.group item.group).live = some run →
      let home := run.fields.homeOf item.bucket
      exec .fixAccessDone s = .next { s with
        store := done
        engine := { s.engine with work := some (.fix item (.wantWrite home
          ((run.fields.settle s.isUp s.shadowed item.bucket home home).getD home) true)) } })
    ∧ (s.engine.work = some (.fix item .reading) → ¬stillFaulted → exec .fixAccessDone s = ended)
    ∧ (s.engine.work = some (.fix item .writing) → exec .fixAccessDone s = ended)

/-! ### Sweeps, rows and orders -/

/-- ROW_READ_DONE: the row is torn, unchanged, a standing rejection or, under HOLD, deferred, each with its counts and
marks, the rejection with TORN at the eighth torn read; any row but an unchanged one is noted for CONVERGED (R154); and
the sweep goes on to the next row, and after the last to slot 0, whose read is requested (R146, R149, R151). -/
def Obligations.RowReadIsTreatedByItsGenerations : Prop :=
  ∀ (s : State) (bytes : List Byte) (row : RowId) (r : SweepRecord), s.Canonical → bytes.length = 128 →
    s.inFlight = some (.rowRead row) → s.area.sweep = some r →
    let head := headGeneration bytes
    let tail := tailGeneration bytes
    let m := s.rowMemory row
    let standing := head = tail ∧ head ≠ s.liveGeneration row ∧ m.lastRejected = some head
    let changed := head = tail ∧ head ≠ s.liveGeneration row ∧ m.lastRejected ≠ some head
    let next : SweepPhase := match row with
      | .uplink u => if h : u.val + 1 < 32 then .uplinkRow ⟨u.val + 1, h⟩
        else if 0 < s.area.groupCount then .groupRow 0 else .slotRead 0
      | .group g => if g + 1 < s.area.groupCount then .groupRow (g + 1) else .slotRead 0
    let read : AreaAccess := match row with
      | .uplink u => if h : u.val + 1 < 32 then .rowRead (.uplink ⟨u.val + 1, h⟩)
        else if 0 < s.area.groupCount then .rowRead (.group 0) else .slotRead 0
      | .group g => if g + 1 < s.area.groupCount then .rowRead (.group (g + 1)) else .slotRead 0
    ∃ t q, exec (.rowReadDone bytes) s = .next t ∧ t.area.sweep = some q ∧ q.phase = next ∧ q.number = r.number
      ∧ t.Wants read
      ∧ t.conduits.hold = s.conduits.hold ∧ t.control.settings = s.control.settings ∧ t.store.memory = s.store.memory
      ∧ (∀ other, other ≠ row → t.rowMemory other = s.rowMemory other)
      ∧ (head ≠ tail ∨ head ≠ s.liveGeneration row → q.allUnchanged = false)
      ∧ (¬changed ∨ s.control.hold = true → t.monitor = s.monitor ∧ t.groups = s.groups ∧ t.store = s.store
          ∧ t.engine = s.engine ∧ t.port = s.port ∧ t.conduits = s.conduits ∧ q.handedOver = r.handedOver
          ∧ t.area.slotHolds = s.area.slotHolds)
      ∧ (head ≠ tail → m.tornCount < 7 → t.rowMemory row = { m with tornCount := m.tornCount + 1 }
          ∧ q.torn = r.torn + 1 ∧ q.rejected = r.rejected)
      ∧ (head ≠ tail → 7 ≤ m.tornCount → t.rowMemory row = { m with tornCount := 0 }
          ∧ q.torn = r.torn + 1 ∧ q.rejected = r.rejected + 1 ∧ t.Reports s.now (.rowRejected row .torn head tail 0))
      ∧ (head = tail → head = s.liveGeneration row → t.rowMemory row = { tornCount := 0, lastRejected := none }
          ∧ q.torn = r.torn ∧ q.rejected = r.rejected ∧ q.deferred = r.deferred ∧ q.allUnchanged = r.allUnchanged)
      ∧ (standing → t.rowMemory row = { m with tornCount := 0 } ∧ q.rejected = r.rejected ∧ q.deferred = r.deferred)
      ∧ (changed → s.control.hold = true → t.rowMemory row = { m with tornCount := 0 }
          ∧ q.rejected = r.rejected ∧ q.deferred = r.deferred + 1)

/-- The checks of a changed row, the first failure rejecting it with its code and details: the ones-complement sum
(BAD_CHECK), the kind and the ranges in layout order (BAD_FIELD with the field's offset), for a group row two slots with
one uplink (DUP_MEMBER with the two slots; which pair where there are several: log 18) and its own number as escape
group (SELF_ESCAPE); and what a row that passes asks for (R152, R171; spec 12.3; identity bytes in the order listed: log
6). -/
def Obligations.PlanRowsAreChecked : Prop :=
  (∀ bytes : List Byte, bytes.length = 128 →
    let field := byteAt bytes
    let word (i : Nat) : Nat := field i + 256 * field (i + 1)
    let total := ((List.range 64).map fun i => word (2 * i)).sum
    areaCheck bytes = true ↔ 0 < total ∧ total % 65535 = 0)
  ∧ (∀ bytes : List Byte, bytes.length = 128 →
      let field := byteAt bytes
      let word (i : Nat) : Nat := field i + 256 * field (i + 1)
      let fields : List (Nat × Nat × Nat × Nat) :=
        [(5, field 5, 0, 1), (6, field 6, 0, 31), (7, field 7, 2, 15), (14, word 14, 1, 1000), (18, word 18, 0, 1000),
         (20, word 20, 1, 600), (22, field 22, 1, 255), (23, field 23, 2, 15)]
      let good (f : Nat × Nat × Nat × Nat) : Prop := f.2.2.1 ≤ f.2.1 ∧ f.2.1 ≤ f.2.2.2
      (areaCheck bytes = false → checkUplinkRow bytes = .error { reason := .badCheck, detail1 := 0, detail2 := 0 })
      ∧ (areaCheck bytes = true →
          (field 4 = 0 → checkUplinkRow bytes = .ok { kind := .empty, params := UplinkParams.default })
          ∧ (2 < field 4 → checkUplinkRow bytes = .error { reason := .badField, detail1 := 4, detail2 := 0 })
          ∧ (∀ before f after, field 4 = 1 ∨ field 4 = 2 → fields = before ++ f :: after → (∀ p ∈ before, good p) → ¬good f →
              checkUplinkRow bytes = .error { reason := .badField, detail1 := f.1, detail2 := 0 })
          ∧ (field 4 = 1 ∨ field 4 = 2 → (∀ p ∈ fields, good p) → checkUplinkRow bytes = .ok
              { kind := if field 4 = 1 then .enabled else .disabled
                params :=
                  { peerIdentity := #v[bytes.getD 8 0, bytes.getD 9 0, bytes.getD 10 0, bytes.getD 11 0, bytes.getD 12 0,
                      bytes.getD 13 0]
                    peerUplink := bytes.getD 6 0
                    conduitMask := BitVec.ofNat 64 (word 24 + 2 ^ 16 * word 26 + 2 ^ 32 * word 28 + 2 ^ 48 * word 30)
                    probeInterval := word 14, missLimit := field 7, restoreCount := field 22, settleTime := word 16
                    lightDebounce := word 18, flapWindow := word 20, flapLimit := field 23
                    initialMode := if field 5 = 0 then .prove else .trust } })))
  ∧ (∀ (bytes : List Byte) (groupCount g : Nat), bytes.length = 128 →
      let field := byteAt bytes
      let escape := field 8 + 256 * field 9
      let present := (bytes.getD 7 0).getLsbD 1
      let check := checkGroupRow groupCount g bytes
      let fields : List (Nat × Bool) :=
        [(5, decide (1 ≤ field 5 ∧ field 5 ≤ 16)), (6, decide (field 6 ≤ 4)), (8, !present || decide (escape < groupCount))]
        ++ (List.range (field 5)).flatMap fun k =>
          [(12 + 4 * k, decide (field (12 + 4 * k) ≤ 31)),
           (13 + 4 * k, decide (1 ≤ field (13 + 4 * k) ∧ field (13 + 4 * k) ≤ 8)),
           (14 + 4 * k, decide (field (14 + 4 * k) ≤ 1))]
      let passes := areaCheck bytes = true ∧ field 4 = 1 ∧ ∀ p ∈ fields, p.2 = true
      let same (i j : Nat) : Prop := i < j ∧ j < field 5 ∧ field (12 + 4 * i) = field (12 + 4 * j)
      (areaCheck bytes = false → check = .error { reason := .badCheck, detail1 := 0, detail2 := 0 })
      ∧ (areaCheck bytes = true → field 4 = 0 → check = .ok none)
      ∧ (areaCheck bytes = true → 1 < field 4 → check = .error { reason := .badField, detail1 := 4, detail2 := 0 })
      ∧ (∀ before offset after, areaCheck bytes = true → field 4 = 1 → fields = before ++ (offset, false) :: after →
          (∀ p ∈ before, p.2 = true) → check = .error { reason := .badField, detail1 := offset, detail2 := 0 })
      ∧ (∀ i j, passes → same i j → (∀ k, k < i → ¬same k j) → (∀ k l, l < j → ¬same k l) →
          check = .error { reason := .dupMember, detail1 := i, detail2 := j })
      ∧ (passes → (∀ i j, ¬same i j) → present = true → escape = g →
          check = .error { reason := .selfEscape, detail1 := 0, detail2 := 0 })
      ∧ (passes → (∀ i j, ¬same i j) → present = false ∨ escape ≠ g → check = .ok (some
          { members := (List.range (field 5)).map fun k =>
              { uplink := Fin.ofNat 32 (field (12 + 4 * k)), weight := field (13 + 4 * k)
                role := if field (14 + 4 * k) = 0 then .primary else .standby }
            bucketSize := 64 * 2 ^ field 6, revertive := (bytes.getD 7 0).getLsbD 0
            escape := if present then some escape else none })))

/-- A changed uplink row that passes its checks is adopted: its generation, a ROW_ADOPTED record, a drill in progress
ended first as R28 gives, its order FAILED with PLAN_CHANGED, and the record its kind gives: the window, marks and
counts cleared by an EMPTY and a disabled row (R4, R25), the proof begun by an enabled row that enables or re-peers
(R26), the record kept but for the adopted fields otherwise (R27), the flap history cut to the new limit and aged (R17,
R27). The row that enables starts the first window and emits a PROBE_OUT (R4, R5, R26). Each change of state and raise
brings its record, walk, recheck flags and causes, a changed shadowed attribute sets the recheck flags too, and no other
record is produced (R10, R48, R49, R112, R113). One that fails a check is rejected for its reason and remembered; each
is counted by the sweep (R22, R23, R25 to R29, R152, R153) (with no finding, no cause: log 31). In the first sweep after
START_ADOPT, where R124 adopts no row and R153 hands a row over at once, a free value says which holds (log 47); the
model's own choice: a row that is not handed over is left as it is, uncounted, for the next sweep (log 57). -/
def Obligations.ChangedUplinkRowIsAdoptedOrRejected : Prop :=
  ∀ (s : State) (bytes : List Byte) (u : Fin 32), bytes.length = 128 → s.inFlight = some (.rowRead (.uplink u)) →
    s.control.hold = false →
    let generation := headGeneration bytes
    let r := s.uplink u
    let j : UplinkRecord := { r.drillJudged with generation }
    generation = tailGeneration bytes → generation ≠ r.generation →
    (s.rowMemory (.uplink u)).lastRejected ≠ some generation →
    let adopts : Prop := ¬(s.control.runState = .starting ∧ s.control.headlessReason ≠ none)
      ∨ Config.adoptsInFirstSweep = true
    let counts (t : State) (handedOver rejected : Nat) : Prop := ∀ q, s.area.sweep = some q → ∃ p, t.area.sweep = some p
      ∧ p.handedOver = q.handedOver + handedOver ∧ p.rejected = q.rejected + rejected ∧ p.deferred = q.deferred
    let raised : Option DarkCause := r.drill.bind DrillRecord.raises
    let brings (t : State) (kind : RowKind) (moves : List Move) : Prop :=
      let all := (match r.drill with | none => [] | some _ => [r.drillMove]) ++ moves
      let ended : List Entry := match r.drill with
        | none => []
        | some d => s.ending d.slot .drillStart true .planChanged (drillResults d (s.walkOf u) (r.drillSound d))
      s.Effects t u all raised (.rowAdopted (.uplink u) kind generation 0 0 0 :: ended)
      ∧ s.Rechecks t u (all ≠ [] ∨ s.shadowed u ≠ t.shadowed u) raised
    ∃ t, exec (.rowReadDone bytes) s = .next t ∧ s.OnlyUplink t u ∧ t.store = s.store
      ∧ (∀ why, checkUplinkRow bytes = .error why → t.monitor = s.monitor ∧ t.conduits = s.conduits
          ∧ t.groups = s.groups ∧ t.engine = s.engine ∧ t.port = s.port ∧ counts t 0 1
          ∧ t.rowMemory (.uplink u) = { tornCount := 0, lastRejected := some generation }
          ∧ s.Produced t [.rowRejected (.uplink u) why.reason generation (BitVec.ofNat 32 why.detail1)
              (BitVec.ofNat 32 why.detail2)])
      ∧ (∀ row, checkUplinkRow bytes = .ok row → adopts ∨ (t.monitor = s.monitor ∧ t.conduits = s.conduits
          ∧ t.groups = s.groups ∧ t.engine = s.engine ∧ t.port = s.port ∧ t.area.holding = s.area.holding ∧ counts t 0 0
          ∧ t.rowMemory (.uplink u) = { s.rowMemory (.uplink u) with tornCount := 0 }))
      ∧ (∀ row, checkUplinkRow bytes = .ok row → adopts → counts t 1 0
          ∧ t.rowMemory (.uplink u) = { tornCount := 0, lastRejected := none }
          ∧ t.conduits = s.conduits.drillEnded r u (r.drill.bind (·.finding)) s.now
          ∧ (∀ d, r.drill = some d → s.Completes t d.slot .drillStart true .planChanged
              { r1 := if j.state = .up then 3 else 4
                r2 := if j.state = .up then 0 else BitVec.ofNat 32 (causeCode d.finding)
                r3 := BitVec.ofNat 32 (match d.walkResult with
                  | some w => w.1
                  | none => match s.walkOf u with | some w => w.bucketsMoved | none => 0)
                r4 := match d.walkResult with | some w => w.2 | none => 0 })
          ∧ (row.kind = .empty → j.state = .unconfigured → j.darkCause = some .removed →
              t.uplink u = j ∧ t.port = s.port ∧ brings t .empty [])
          ∧ (row.kind = .empty → j.state ≠ .unconfigured ∨ j.darkCause ≠ some .removed →
              t.uplink u = { j.silenced with
                state := .unconfigured, darkCause := some .removed, params := UplinkParams.default, flaps := [] }
              ∧ t.port = s.port
              ∧ brings t .empty [{ left := j.state, entered := .unconfigured, cause := some .removed }])
          ∧ (row.kind = .disabled → j.state = .adminDown → j.darkCause = some .admin →
              t.uplink u = (j.adopted row.params).aged s.now ∧ t.port = s.port ∧ brings t .disabled [])
          ∧ (row.kind = .disabled → j.state ≠ .adminDown ∨ j.darkCause ≠ some .admin →
              t.uplink u = { ((j.adopted row.params).aged s.now).silenced with
                state := .adminDown, darkCause := some .admin }
              ∧ t.port = s.port
              ∧ brings t .disabled [{ left := j.state, entered := .adminDown, cause := some .admin }])
          ∧ (row.kind = .enabled → j.state.probing = true →
              row.params.peerIdentity = r.params.peerIdentity → row.params.peerUplink = r.params.peerUplink →
              t.uplink u = (j.adopted row.params).aged s.now ∧ t.port = s.port ∧ brings t .enabled [])
          ∧ (row.kind = .enabled → j.state.probing = true →
              row.params.peerIdentity ≠ r.params.peerIdentity ∨ row.params.peerUplink ≠ r.params.peerUplink →
              t.uplink u = ((j.adopted row.params).aged s.now).reproved ∧ t.port = s.port
              ∧ brings t .enabled [{ left := j.state, entered := .proving, cause := some .reconfig }])
          ∧ (row.kind = .enabled → j.state.probing = false →
              let trusted := row.params.initialMode = .trust ∧ r.light = .present
              let begun : UplinkRecord := { ((j.adopted row.params).aged s.now).reproved with
                windowEnd := some (s.now + BitVec.ofNat 32 (100 * row.params.probeInterval))
                goodSeen := false, affirmingSeen := false, mismatchSeen := false
                txSequence := r.txSequence + if s.control.runState = .off then 0 else 1 }
              let proof : Move := { left := j.state, entered := .proving, cause := some .reconfig }
              (s.control.runState = .off → t.port = s.port)
              ∧ (s.control.runState ≠ .off → t.port = s.port.probed { uplink := u, content := {
                  identity := s.area.identity, uplink := BitVec.ofNat 8 u.val, seen := false
                  sequence := r.txSequence } })
              ∧ (¬trusted → t.uplink u = begun ∧ brings t .enabled [proof])
              ∧ (trusted → t.uplink u = { begun with state := .up, darkCause := none }
                  ∧ brings t .enabled [proof, { left := .proving, entered := .up, cause := none }])))

/-- A newer row cancels a pending rebuild: its blocks are FREE, its index reservation is returned, its block step or
flip leaves the intake queue or is abandoned, its record goes, the live generation is the adopted one for the moment,
and ROW_SUPERSEDED is produced (R130). Then a changed group row that fails a check is rejected for its reason, before
any supersede; an EMPTY row leaves the group UNPLANNED with the row's generation, its blocks, load contributions and
index entries returned, a snapshot of it ended with RUN_REPLACED (its results r2 to r4 are 0: log 17), and a walk step,
a settle pass or a fix on it ended (R86, R117, R131; a fix whose read waits: log 27); a planned row creates the rebuild
of its fields on the lowest-numbered free blocks, as many as it asks for, ascending, none of a lower number left out,
and is rejected with NO_BLOCKS or NO_INDEX when there is no room, the live generation the adopted one (R76, R78, R79,
R81, R91, R110, R128, R132, R133, R152, R153) (that R133 is followed here where R54 reads otherwise: log 41; that a
snapshot's granted read is not counted: log 42). In the first sweep after START_ADOPT, where R124 adopts no row and R153
hands a row over at once, a free value says which holds (log 47); the model's own choice: a row that is not handed over
is left as it is, uncounted, for the next sweep (log 57). -/
def Obligations.ChangedGroupRowIsAdoptedOrRejected : Prop :=
  (∀ (s : State) (g : Nat) (generation : Generation) (b : Rebuild), s.Canonical → (s.group g).rebuild = some b →
    let t := s.supersede g generation
    let building := ∃ p o w, s.engine.work = some (.blockStep g p o w)
    t.group g = { s.group g with rebuild := none, liveGeneration := (s.group g).adoptedGeneration }
    ∧ (∀ h, h ≠ g → t.group h = s.group h)
    ∧ (∀ k, t.owner k = if k ∈ b.blocks then .free else s.owner k)
    ∧ t.store = { s.store with owners := t.store.owners, access := t.store.access }
    ∧ t.engine = { s.engine with
        entriesReserved := s.engine.entriesReserved - b.indexReservation
        intake := s.engine.intake.filter fun i => match i with
          | .blockStep h _ => decide (h ≠ g)
          | .flip h => decide (h ≠ g)
          | _ => true
        work := t.engine.work }
    ∧ (building → t.engine.work = none ∧ t.store.access = s.store.access.map fun a =>
        if a.requester = .blockStep then { a with wanted := false } else a)
    ∧ (¬building → t.engine.work = s.engine.work ∧ t.store.access = s.store.access)
    ∧ t.monitor = s.monitor ∧ t.conduits = s.conduits ∧ t.port = s.port
    ∧ t.Reports s.now (.rowSuperseded g (match b.progress with | .step p => p | .flip => b.blocks.length) b.generation
        generation))
  ∧ (∀ (s : State) (bytes : List Byte) (g : Nat), s.Canonical → bytes.length = 128 →
    s.inFlight = some (.rowRead (.group g)) → s.control.hold = false →
    let generation := headGeneration bytes
    generation = tailGeneration bytes → generation ≠ (s.group g).liveGeneration →
    (s.rowMemory (.group g)).lastRejected ≠ some generation →
    let adopts : Prop := ¬(s.control.runState = .starting ∧ s.control.headlessReason ≠ none)
      ∨ Config.adoptsInFirstSweep = true
    let counts (t : State) (handedOver rejected : Nat) : Prop := ∀ q, s.area.sweep = some q → ∃ p, t.area.sweep = some p
      ∧ p.handedOver = q.handedOver + handedOver ∧ p.rejected = q.rejected + rejected ∧ p.deferred = q.deferred
    let u := s.supersede g generation
    let stops (t : State) (requester : Requester) : Prop := t.engine.work = none
      ∧ ∀ a, s.store.access = some a → a.requester = requester → t.store.access = some { a with wanted := false }
    let walksKept (t : State) : Prop := t.engine.urgent = s.engine.urgent ∧ t.engine.restore = s.engine.restore
    let among (ms : List Member) (v : Fin 32) : Prop := ∃ m ∈ ms, m.uplink = v
    ∃ t, exec (.rowReadDone bytes) s = .next t ∧ (∀ h, h ≠ g → t.group h = s.group h) ∧ t.monitor = s.monitor
      ∧ t.store.memory = s.store.memory
      ∧ (∀ why, checkGroupRow s.area.groupCount g bytes = .error why → t.groups = s.groups ∧ t.store = s.store
          ∧ t.engine = s.engine ∧ (t.rowMemory (.group g)).lastRejected = some generation ∧ counts t 0 1
          ∧ t.Reports s.now (.rowRejected (.group g) why.reason generation (BitVec.ofNat 32 why.detail1)
              (BitVec.ofNat 32 why.detail2)))
      ∧ (∀ asked, checkGroupRow s.area.groupCount g bytes = .ok asked → adopts ∨ (t.groups = s.groups
          ∧ t.store = s.store ∧ t.engine = s.engine ∧ t.area.holding = s.area.holding ∧ counts t 0 0
          ∧ t.rowMemory (.group g) = { s.rowMemory (.group g) with tornCount := 0 }))
      ∧ (∀ asked, checkGroupRow s.area.groupCount g bytes = .ok asked → adopts →
          ∀ b, (s.group g).rebuild = some b → t.Reports s.now (.rowSuperseded g
            (match b.progress with | .step p => p | .flip => b.blocks.length) b.generation generation))
      ∧ (checkGroupRow s.area.groupCount g bytes = .ok none → adopts →
          t.group g = { GroupRecord.reset with liveGeneration := generation }
          ∧ t.rowMemory (.group g) = RowMemory.reset ∧ counts t 1 0
          ∧ t.Reports s.now (.rowAdopted (.group g) .empty generation 0 0 0)
          ∧ ((s.group g).live = none → t.store = u.store ∧ t.engine = u.engine)
          ∧ (∀ run, (s.group g).live = some run →
              (∀ k, t.owner k = if k ∈ run.blocks then .free else u.owner k)
              ∧ (∀ v, t.store.loads.get v = s.store.loads.get v - run.load s.store.memory v)
              ∧ (∀ v, among run.fields.members v → t.engine.index.get v = (s.engine.index.get v).filter (· ≠ g))
              ∧ (∀ v, ¬among run.fields.members v → t.engine.index.get v = s.engine.index.get v)
              ∧ t.engine.entriesInUse = s.engine.entriesInUse - run.fields.members.length
              ∧ (∀ v b converted phase, s.engine.work = some (.walkStep v g b converted phase) →
                  let stepped : Walk → Walk := fun w => if w.uplink = v then
                      { w with groupsTouched := min 65535 (w.groupsTouched + 1)
                               cursor := if converted then w.cursor else some g }
                    else w
                  stops t .walkStep ∧ t.engine.urgent = s.engine.urgent.map stepped
                  ∧ t.engine.restore = s.engine.restore.map stepped)
              ∧ (∀ b phase, s.engine.work = some (.settlePass g b phase) → stops t .settlePass ∧ walksKept t)
              ∧ (∀ item phase, s.engine.work = some (.fix item phase) → item.group = g → phase ≠ .wantRead →
                  stops t .fix ∧ walksKept t)
              ∧ (∀ item, s.engine.work = some (.fix item .wantRead) → t.engine.work = s.engine.work ∧ walksKept t)
              ∧ (∀ r, s.store.snapshot = some r → r.group = g → t.store.snapshot = none
                  ∧ s.Completes t (some r.slot) .snapshot true .runReplaced
                      { r1 := BitVec.ofNat 32 r.next, r2 := 0, r3 := 0, r4 := 0 })
              ∧ (∀ r, s.store.snapshot = some r → r.group ≠ g → t.store.snapshot = some r)))
      ∧ (∀ f, checkGroupRow s.area.groupCount g bytes = .ok (some f) → adopts →
          let asked := f.bucketSize / 64
          let entries := f.members.length - (match (s.group g).live with
            | some run => run.fields.members.length
            | none => 0)
          let left : GroupRecord := { u.group g with liveGeneration := (u.group g).adoptedGeneration }
          (u.freeBlockCount < asked → t.group g = left ∧ t.store = u.store ∧ t.engine = u.engine
            ∧ (t.rowMemory (.group g)).lastRejected = some generation ∧ counts t 0 1
            ∧ t.Reports s.now (.rowRejected (.group g) .noBlocks generation (BitVec.ofNat 32 asked)
                (BitVec.ofNat 32 u.freeBlockCount)))
          ∧ (asked ≤ u.freeBlockCount → u.freeIndexEntries < entries → t.group g = left ∧ t.engine = u.engine
              ∧ (∀ k, t.owner k = u.owner k) ∧ (t.rowMemory (.group g)).lastRejected = some generation ∧ counts t 0 1
              ∧ t.Reports s.now (.rowRejected (.group g) .noIndex generation (BitVec.ofNat 32 entries)
                  (BitVec.ofNat 32 u.freeIndexEntries)))
          ∧ (asked ≤ u.freeBlockCount → entries ≤ u.freeIndexEntries →
              (∃ blocks : List Nat, blocks.length = asked ∧ blocks.Pairwise (· < ·)
                ∧ (∀ k ∈ blocks, k < 2048 ∧ u.owner k = .free)
                ∧ (∀ k ∈ blocks, ∀ free < k, u.owner free = .free → free ∈ blocks)
                ∧ t.group g = { u.group g with
                    liveGeneration := generation
                    rebuild := some { staged := f, generation, blocks, indexReservation := entries, progress := .step 0
                                      recheck := false, adoptedAt := s.now } }
                ∧ (∀ i k, blocks[i]? = some k → t.owner k = .reserved g i)
                ∧ (∀ k, k ∉ blocks → t.owner k = u.owner k))
              ∧ t.engine.intake = u.engine.intake ++ [.blockStep g 0]
              ∧ t.engine.entriesReserved = u.engine.entriesReserved + entries
              ∧ t.rowMemory (.group g) = RowMemory.reset ∧ counts t 1 0
              ∧ t.Reports s.now (.rowAdopted (.group g) .planned generation f.bucketSize asked entries))))

/-- ORDER_SLOT_READ_DONE: a slot that is held or does not read POSTED is left alone; a bad check or an unknown kind
completes the order FAILED with its reason; any other order is taken: the hold is set, TAKEN is written, and the sweep
counts one order more. The sweep waits for the TAKEN write, hands the order over, and waits for a completion that is
being written to the slot; the next slot is read once that is written, or at once where there is nothing to wait for
(R146, R155; that the sweep waits so for BAD_CHECK and BAD_KIND too: log 52; after slot 15: FlushEndsBeforeThePage). The
two writes of a completion follow each other, and after the second the slot's hold is absent (R155, R156). The check is
the ones-complement sum of bytes 0 to 31 with the state taken as POSTED (R171), and the order's arguments, buffer and
length stand at offsets 4, 6, 8 and 16 (R170; spec 12.3). The model's own choices: the results of an order that fails
with BAD_CHECK or BAD_KIND are 0 (log 17), its kind byte (log 26), and that a state byte of 5 to 255 does not read
POSTED (log 43). -/
def Obligations.OrderSlotsAreTakenAndCompleted : Prop :=
  (∀ (s : State) (bytes : List Byte) (k : Fin 16), bytes.length = 64 → s.inFlight = some (.slotRead k) →
    let posted := s.area.slotHolds.get k = none ∧ byteAt bytes 1 = 1
    let counts (t : State) (orders : Nat) : Prop := ∀ r, s.area.sweep = some r → ∃ q, t.area.sweep = some q
      ∧ q = { r with phase := q.phase, orders := r.orders + orders }
    let failed (t : State) (reason : OrderReason) : Prop :=
      (s.control.runState = .running →
        { slot := k, kind := bytes.getD 0 0, failed := true, reason, results := Results.zero, time := s.now }
          ∈ t.area.completions ∧ s.SweepAt t (.slotWrite k) ∧ t.Wants (.slotResult k))
      ∧ (s.control.runState ≠ .running →
          t.Reports s.now (.orderEnded (some k) (bytes.getD 0 0) true reason Results.zero)
          ∧ (s.completion k = none → s.NextSlot t k))
    ∃ t, exec (.orderSlotReadDone bytes) s = .next t ∧ t.monitor = s.monitor ∧ t.store = s.store ∧ t.port = s.port
      ∧ t.groups = s.groups ∧ t.engine = s.engine ∧ t.conduits = s.conduits ∧ t.control.settings = s.control.settings
      ∧ (¬posted → t.area.slotHolds = s.area.slotHolds ∧ t.area.completions = s.area.completions
          ∧ t.area.taking = s.area.taking ∧ t.area.holding = s.area.holding ∧ counts t 0 ∧ s.NextSlot t k)
      ∧ (posted → slotCheck bytes = false → failed t .badCheck ∧ t.area.slotHolds = s.area.slotHolds ∧ counts t 0)
      ∧ (posted → slotCheck bytes = true → (byteAt bytes 0 = 0 ∨ 7 < byteAt bytes 0) →
          failed t .badKind ∧ t.area.slotHolds = s.area.slotHolds ∧ counts t 0)
      ∧ (∀ kind, posted → slotCheck bytes = true → byteAt bytes 0 = kind.code →
          t.area.slotHolds = s.area.slotHolds.set k (some kind) ∧ t.area.taking = some (orderOf k kind bytes)
          ∧ t.Wants (.takenWrite k) ∧ t.area.completions = s.area.completions ∧ t.area.holding = s.area.holding
          ∧ t.area.sweep = s.area.sweep.map fun r => { r with phase := .slotTaken k, orders := r.orders + 1 }))
  ∧ (∀ (bytes : List Byte) (k : Fin 16) (kind : OrderKind), bytes.length = 64 →
      let field := byteAt bytes
      let word (i : Nat) : Nat := field i + 256 * field (i + 1)
      let total := field 0 + 256 * 1 + ((List.range 15).map fun i => word (2 * i + 2)).sum
      (slotCheck bytes = true ↔ total % 65535 = 0)
      ∧ orderOf k kind bytes =
          { slot := k, kind, argA := BitVec.ofNat 16 (word 4), argB := BitVec.ofNat 16 (word 6)
            buffer := BitVec.ofNat 64 (word 8 + 2 ^ 16 * word 10 + 2 ^ 32 * word 12 + 2 ^ 48 * word 14)
            length := BitVec.ofNat 32 (word 16 + 2 ^ 16 * word 18) })
  ∧ (∀ (s : State) (k : Fin 16), s.inFlight = some (.slotResult k) →
      ∃ t, exec .slotResultWritten s = .next t ∧ t.Wants (.slotState k) ∧ t.area.completions = s.area.completions
        ∧ t.area.slotHolds = s.area.slotHolds ∧ t.monitor = s.monitor ∧ t.store = s.store ∧ t.groups = s.groups
        ∧ t.engine = s.engine ∧ t.port = s.port ∧ t.conduits = s.conduits ∧ t.control = s.control)
  ∧ (∀ (s : State) (k : Fin 16), s.inFlight = some (.slotState k) →
      ∃ t, exec .slotStateWritten s = .next t ∧ t.area.slotHolds = s.area.slotHolds.set k none
        ∧ t.area.completions = s.area.completions.filter (fun c => c.slot ≠ k) ∧ t.monitor = s.monitor
        ∧ t.store = s.store ∧ t.groups = s.groups ∧ t.engine = s.engine ∧ t.port = s.port
        ∧ t.conduits = s.conduits ∧ t.control = s.control
        ∧ (∀ r, s.area.sweep = some r → r.phase = .slotWrite k → s.NextSlot t k)
        ∧ (∀ r, s.area.sweep = some r → r.phase ≠ .slotWrite k → t.area.sweep = some r))
  ∧ (∀ (s : State) (command : Instr) (kind : OrderKind) (o : OrderInHand),
      (command, kind) ∈ [(Instr.drillStart, OrderKind.drillStart), (.drillEnd, .drillEnd), (.release, .release),
        (.pin, .pin), (.unpin, .unpin), (.conduitClear, .conduitClear), (.snapshot, .snapshot)] →
      s.orderTaken kind = some o →
      ∃ t, exec command s = .next t ∧ t.area.taking = none
        ∧ (t.completion o.slot ≠ none → s.SweepAt t (.slotWrite o.slot))
        ∧ (t.completion o.slot = none → s.NextSlot t o.slot))

/-! ### The journal and the status page -/

/-- A record joins the tail of the holding queue, or is dropped into the gap when 16 wait (R159). Its writing: the kind
of the slot at the write position is read; an EMPTY slot gets the body and then the kind, after which the position
advances, wrapping at the journal length, the news mark is set and the record leaves the queue, a GAP record closing an
open gap of an empty queue; a slot that is not EMPTY sets the blocked mark (R158, R159, R161). The write that completes
a STOPPED record makes the run state HEADLESS with reason STOP. A STOPPED record that waits for the access in progress
is tried when that has ended: discarded, with HEADLESS, where a record waits or the blocked mark is set, and its slot's
kind read otherwise (R166) (that a kind read counts as a journal access in progress: log 13; that a write in flight at
STOP runs to its end, where R160's table differs: log 45). -/
def Obligations.JournalWritesRecordsInTwoWrites : Prop :=
  (∀ (s : State) (e : Entry),
    (s.area.holding.length < 16 → s.produce e = { s with area := { s.area with
      holding := s.area.holding ++ [{ time := s.now, entry := e }] } })
    ∧ (16 ≤ s.area.holding.length →
        let t := s.produce e
        t.area = { s.area with
          gapCount := min 65535 (s.area.gapCount + 1), lastDrop := some s.now
          firstDrop := if s.area.gapCount = 0 then some s.now else s.area.firstDrop }
        ∧ (0 < s.area.gapCount → t.control = s.control)
        ∧ (s.area.gapCount = 0 → t.control.cause = s.control.cause ||| 8)))
  ∧ (∀ (s : State) (kind : Byte), s.inFlight = some .journalKindRead →
      ∃ t, exec (.journalKindReadDone kind) s = .next t ∧ t.area.position = s.area.position
        ∧ t.monitor = s.monitor ∧ t.groups = s.groups ∧ t.engine = s.engine ∧ t.port = s.port
        ∧ t.conduits = s.conduits
        ∧ (kind = 0 → t.area.writer = .body ∧ t.Wants .journalBody ∧ t.area.holding = s.area.holding)
        ∧ (kind ≠ 0 → s.area.stopTry = none → t.area.writer = .idle ∧ t.area.blocked = true
            ∧ t.area.holding = s.area.holding ∧ t.control = s.control)
        ∧ (∀ tried, kind ≠ 0 → s.area.stopTry = some tried → t.control.runState = .headless
            ∧ t.control.headlessReason = some .stop ∧ t.control.headlessSince = some s.now))
  ∧ (∀ s : State, s.inFlight = some .journalBody →
      ∃ t, exec .journalBodyWritten s = .next t ∧ t.area.writer = .kind ∧ t.Wants .journalKind
        ∧ t.area.holding = s.area.holding ∧ t.area.position = s.area.position ∧ t.control = s.control
        ∧ t.monitor = s.monitor ∧ t.groups = s.groups ∧ t.engine = s.engine ∧ t.port = s.port
        ∧ t.store = s.store ∧ t.conduits = s.conduits)
  ∧ (∀ s : State, s.inFlight = some .journalKind →
      ∃ t, exec .journalKindWritten s = .next t ∧ t.area.newsMark = true
        ∧ t.area.position = (if s.area.position + 1 < s.area.journalLength then s.area.position + 1 else 0)
        ∧ t.monitor = s.monitor ∧ t.groups = s.groups ∧ t.engine = s.engine ∧ t.port = s.port
        ∧ t.conduits = s.conduits
        ∧ (∀ r rest, s.area.stopTry = none → s.area.holding = r :: rest → rest ≠ [] ∨ s.area.gapCount = 0 →
            t.area.holding = rest ∧ t.area.gapCount = s.area.gapCount ∧ t.control = s.control)
        ∧ (∀ r, s.area.stopTry = none → s.area.holding = [r] → s.area.gapCount ≠ 0 →
            t.area.holding = [{ time := s.now, entry := .gap s.area.gapCount s.area.firstDrop s.area.lastDrop }]
            ∧ t.area.gapCount = 0 ∧ t.area.firstDrop = none ∧ t.area.lastDrop = none ∧ t.control = s.control)
        ∧ (∀ r, s.area.stopTry = some { record := r, begun := true } → t.control.runState = .headless
            ∧ t.control.headlessReason = some .stop ∧ t.control.headlessSince = some s.now)
        ∧ (∀ r, s.area.stopTry = some { record := r, begun := false } →
            s.area.blocked = true ∨ s.area.holding.tail ≠ [] ∨ s.area.gapCount ≠ 0 →
            t.control.runState = .headless ∧ t.control.headlessReason = some .stop
            ∧ t.control.headlessSince = some s.now)
        ∧ (∀ r, s.area.stopTry = some { record := r, begun := false } → s.area.blocked = false →
            s.area.holding.tail = [] → s.area.gapCount = 0 → t.control = s.control ∧ t.area.writer = .kindRead
            ∧ t.area.stopTry = some { record := r, begun := true } ∧ t.Wants .journalKindRead))

/-- The flush step of a sweep, after slot 15: the blocked mark is cleared; with no record waiting and no journal access
in progress the status page begins at once; otherwise the head of the holding queue is retried, and the page begins when
the writer finds the queue empty or a slot that is not EMPTY (R146, R158) (that the step lasts until then: log 11). An
order of slot 15 that is taken or fails has the sweep wait for it first: for the TAKEN write, and then, after the
hand-over, for the completion of the order where it is being written to the slot; the flush step begins once the slot's
state is written, or at once where no completion is written (R155) (that the sweep waits so for BAD_CHECK and BAD_KIND
too: log 52). The page begins with CONVERGED decided: set when every row of the sweep was unchanged, the counts of rows
torn, deferred and rejected are 0 and no group has a pending rebuild, and cleared otherwise (R154). -/
def Obligations.FlushEndsBeforeThePage : Prop :=
  ∀ (s : State) (r : SweepRecord), s.Canonical → s.area.sweep = some r →
    let converged := r.allUnchanged = true ∧ r.torn = 0 ∧ r.deferred = 0 ∧ r.rejected = 0
      ∧ ∀ g, (s.group g).rebuild = none
    let pageBegins (t : State) : Prop := (t.area.converged = true ↔ converged)
      ∧ t.area.sweep = some { r with phase := .page 0 } ∧ t.Wants (.pageWrite 0)
    let flushes (t : State) : Prop := t.area.blocked = false
      ∧ (s.area.writer = .idle → t.area.holding = [] → pageBegins t)
      ∧ (s.area.writer ≠ .idle ∨ t.area.holding ≠ [] → t.area.converged = s.area.converged
          ∧ t.area.sweep = some { r with phase := .flush })
      ∧ (s.area.writer = .idle → t.area.holding ≠ [] → s.control.runState.active = true → s.area.stopTry = none →
          t.area.writer = .kindRead ∧ t.Wants .journalKindRead)
    let waits (t : State) (phase : SweepPhase) (orders : Nat) : Prop :=
      t.area.sweep = some { r with phase, orders := r.orders + orders } ∧ t.area.blocked = s.area.blocked
      ∧ t.area.converged = s.area.converged
    let posted (bytes : List Byte) : Prop := bytes.length = 64 ∧ s.inFlight = some (.slotRead 15)
      ∧ s.area.slotHolds.get 15 = none ∧ byteAt bytes 1 = 1
    let fails (bytes : List Byte) : Prop :=
      posted bytes ∧ (slotCheck bytes = false ∨ byteAt bytes 0 = 0 ∨ 7 < byteAt bytes 0)
    (∀ bytes, bytes.length = 64 → s.inFlight = some (.slotRead 15) →
      s.area.slotHolds.get 15 ≠ none ∨ byteAt bytes 1 ≠ 1 →
      ∃ t, exec (.orderSlotReadDone bytes) s = .next t ∧ flushes t ∧ t.area.holding = s.area.holding
        ∧ t.control = s.control ∧ t.groups = s.groups ∧ t.store = s.store)
    ∧ (∀ bytes kind, posted bytes → slotCheck bytes = true → byteAt bytes 0 = OrderKind.code kind →
        ∃ t, exec (.orderSlotReadDone bytes) s = .next t ∧ waits t (.slotTaken 15) 1 ∧ t.Wants (.takenWrite 15))
    ∧ (∀ bytes, fails bytes → s.control.runState = .running →
        ∃ t, exec (.orderSlotReadDone bytes) s = .next t ∧ waits t (.slotWrite 15) 0 ∧ t.Wants (.slotResult 15))
    ∧ (∀ bytes, fails bytes → s.control.runState ≠ .running → s.completion 15 = none →
        ∃ t, exec (.orderSlotReadDone bytes) s = .next t ∧ flushes t)
    ∧ (∀ (command : Instr) (kind : OrderKind) (o : OrderInHand),
        (command, kind) ∈ [(Instr.drillStart, OrderKind.drillStart), (.drillEnd, .drillEnd), (.release, .release),
          (.pin, .pin), (.unpin, .unpin), (.conduitClear, .conduitClear), (.snapshot, .snapshot)] →
        s.orderTaken kind = some o → o.slot = 15 →
        ∃ t, exec command s = .next t ∧ (t.completion 15 ≠ none → waits t (.slotWrite 15) 0)
          ∧ (t.completion 15 = none → flushes t))
    ∧ (s.inFlight = some (.slotState 15) → r.phase = .slotWrite 15 →
        ∃ t, exec .slotStateWritten s = .next t ∧ flushes t ∧ t.area.holding = s.area.holding)
    ∧ (∀ kind : Byte, r.phase = .flush → s.area.stopTry = none → s.inFlight = some .journalKindRead → kind ≠ 0 →
        ∃ t, exec (.journalKindReadDone kind) s = .next t ∧ pageBegins t)
    ∧ (∀ q, r.phase = .flush → s.area.stopTry = none → s.inFlight = some .journalKind → s.area.holding = [q] →
        s.area.gapCount = 0 → ∃ t, exec .journalKindWritten s = .next t ∧ pageBegins t)
    ∧ (r.phase = .flush → s.area.stopTry = none → s.inFlight = some .journalKind → s.area.blocked = false →
        s.area.holding.tail ≠ [] ∨ s.area.gapCount ≠ 0 → s.control.runState.active = true →
        ∃ t, exec .journalKindWritten s = .next t ∧ t.area.sweep = s.area.sweep
          ∧ t.area.converged = s.area.converged ∧ t.area.writer = .kindRead ∧ t.Wants .journalKindRead)

/-- What the device reads and writes in the shared area, and where. The header, the uplink and group rows, the order
slots and the journal slots' kinds are read at their offsets from the base (R143). A waiting access is granted with the
bytes as they stand at its grant (R145): the slot state TAKEN, DONE or FAILED (R155, R156); the reason, completion time
and results of an order at bytes 32 to 63 of its slot (R156); a journal record in two writes, its body and then its
kind, laid out by its kind (R158); a snapshot entry (R91); and the status page (R163): the sweep number first and last,
the global part, an entry for each uplink and for each group, with the page of START_ADOPT showing STARTING (spec 12.3
to 12.5). The codes of spec 12.1. The model's own choices: the cut of the page into writes (log 12), and the lengths of
the writes of a slot and of a record: TAKEN, DONE and FAILED one byte, the results 32 bytes, a record's bytes 1 to 31
and then its kind byte (log 35). -/
def Obligations.AreaWritesCarryTheirBytes : Prop :=
  (∀ (s : State) (a : AreaAccess) (rest : List AreaAccess), s.area.flight = none → s.area.waiting = a :: rest →
    s.grantArea = { s with area := { s.area with
      waiting := rest
      flight := some { access := a, address := s.accessAddress a, data := s.accessData a, granted := s.now } } })
  ∧ (∀ (s : State) (u : Fin 32) (g : Nat),
      s.accessAddress .headerRead = s.area.base ∧ s.accessData .headerRead = []
      ∧ s.accessAddress (.rowRead (.uplink u)) = s.area.base + BitVec.ofNat 64 (256 + 128 * u.val)
      ∧ s.accessData (.rowRead (.uplink u)) = []
      ∧ s.accessAddress (.rowRead (.group g)) = s.area.base + BitVec.ofNat 64 (4352 + 128 * g)
      ∧ s.accessData (.rowRead (.group g)) = [])
  ∧ (∀ (s : State) (k : Fin 16),
      let slot := s.area.base + BitVec.ofNat 64 (4352 + 128 * s.area.groupCount + 64 * k.val)
      s.accessAddress (.slotRead k) = slot ∧ s.accessData (.slotRead k) = []
      ∧ s.accessAddress (.takenWrite k) = slot + 1 ∧ s.accessData (.takenWrite k) = [2]
      ∧ s.accessAddress (.slotResult k) = slot + 32 ∧ s.accessAddress (.slotState k) = slot + 1
      ∧ (∀ c, s.completion k = some c →
          s.accessData (.slotResult k)
            = layOut 32 ([(0, 1, c.reason.code), (4, 4, c.time.toNat)] ++ c.results.layout 8)
          ∧ s.accessData (.slotState k) = [if c.failed then 4 else 3]))
  ∧ (∀ (s : State) (r : Record),
      s.area.stopTry = some { record := r, begun := true }
        ∨ (s.area.holding.head? = some r ∧ (s.area.stopTry.all fun t => !t.begun) = true) →
      let slot := s.area.base + BitVec.ofNat 64 (5376 + 128 * s.area.groupCount + 32 * s.area.position)
      s.accessAddress .journalKindRead = slot ∧ s.accessAddress .journalKind = slot
      ∧ s.accessAddress .journalBody = slot + 1
      ∧ s.accessData .journalKind ++ s.accessData .journalBody = layOut 32 ((4, 4, r.time.toNat) :: r.entry.layout)
      ∧ (s.accessData .journalKind).length = 1)
  ∧ (∀ (s : State) (slot : Fin 16) (address : BitVec 64) (entry : List Byte) (last : Bool),
      s.accessAddress (.snapshotEntry slot address entry last) = address
      ∧ s.accessData (.snapshotEntry slot address entry last) = entry)
  ∧ (∀ b : Bucket, snapshotEntry b = layOut 4 [(0, 1, b.home), (1, 1, b.current), (2, 1, b.faulted.toNat)])
  ∧ (∀ s : State,
      let G := s.area.groupCount
      let page (offset : Nat) : BitVec 64 :=
        s.area.base + BitVec.ofNat 64 (5376 + 128 * G + 32 * s.area.journalLength + offset)
      let writes (part offset : Nat) (bytes : List Byte) : Prop :=
        s.accessAddress (.pageWrite part) = page offset ∧ s.accessData (.pageWrite part) = bytes
      writes 0 0 (layOut 4 [(0, 4, s.area.sweepNumber.toNat)])
      ∧ writes 1 4 (layOut 248
          [(0, 1, if s.area.adoptPage then 1 else s.control.runState.code), (1, 1, s.area.converged.toNat),
           (2, 1, s.area.holding.length), (4, 4, s.now.toNat), (8, 2, s.freeBlockCount), (10, 2, s.freeIndexEntries),
           (12, 2, s.area.position), (14, 2, s.area.gapCount), (16, 1, s.engine.urgent.length),
           (17, 1, s.engine.restore.length), (18, 2, s.engine.intake.length)])
      ∧ (∀ u : Fin 32, let r := s.uplink u
          writes (2 + u.val) (256 + 32 * u.val) (layOut 32
            [(0, 1, r.state.code), (1, 1, causeCode r.darkCause), (2, 1, r.missCount), (3, 1, r.blindCount),
             (4, 1, r.runCount), (5, 1, r.flaps.length), (6, 1, (s.shadowed u).toNat), (8, 4, s.store.loads.get u),
             (12, 4, r.generation.toNat)]))
      ∧ (∀ g, g < G → let r := s.group g
          writes (34 + g) (1280 + 16 * g) (layOut 16
            [(0, 1, r.state.code), (1, 1, r.reported.code), (2, 1, r.rebuild.isSome.toNat), (3, 1, r.pin.getD 0xFF),
             (4, 4, r.adoptedGeneration.toNat),
             (8, 4, match r.rebuild with | none => 0 | some b => b.generation.toNat)]))
      ∧ writes (34 + G) 252 (layOut 4 [(0, 4, s.area.sweepNumber.toNat)]))
  ∧ ([UplinkState.unconfigured, .adminDown, .proving, .up, .dark, .settling, .quarantined, .drill].map UplinkState.code
        = [0, 1, 2, 3, 4, 5, 6, 7]
      ∧ [none, some .lightLost, some .probeSilent, some .farBlind, some .peerMismatch, some .admin, some .reconfig,
          some .drill, some .removed].map causeCode = [0, 1, 2, 3, 4, 5, 6, 7, 8]
      ∧ [GroupState.unplanned, .building, .live].map GroupState.code = [0, 1, 2]
      ∧ [Strandedness.active, .stranded].map Strandedness.code = [0, 1]
      ∧ [RowKind.empty, .enabled, .disabled, .planned].map RowKind.code = [0, 1, 2, 1]
      ∧ [OrderKind.drillStart, .drillEnd, .release, .pin, .unpin, .conduitClear, .snapshot].map OrderKind.code
        = [1, 2, 3, 4, 5, 6, 7]
      ∧ [OrderReason.none, .badCheck, .badKind, .badArg, .badState, .planChanged, .runReplaced, .abandoned].map
          OrderReason.code = [0, 1, 2, 3, 4, 5, 6, 7]
      ∧ [RowReason.torn, .badCheck, .badField, .dupMember, .selfEscape, .noBlocks, .noIndex].map RowReason.code
        = [1, 2, 3, 4, 5, 6, 7]
      ∧ [FoundBy.lookup, .scrubber, .walkStep, .settlePass].map FoundBy.code = [0, 1, 2, 3]
      ∧ [WalkClass.urgent, .restore].map WalkClass.code = [0, 1]
      ∧ [ClearReason.expiry, .order].map ClearReason.code = [0, 1]
      ∧ [HeadlessReason.stop, .linkReset, .areaFault].map HeadlessReason.code = [1, 2, 3]
      ∧ [RunState.off, .starting, .running, .headless].map RunState.code = [0, 1, 2, 3])

/-- STATUS_PAGE_WRITE_DONE: the page goes on to its next write (the cut into writes: log 12), unless a START command or
CLEAR has superseded it: the write then ends alone, and a header read that waits is granted (R145; log 16); after the
last one a sweep ends: the plan mark is set, STARTING becomes RUNNING, NEWS is set by the news mark, SWEEP_DONE is
produced and set by the reporting mark, and a sweep that is due starts; and START_ADOPT becomes STARTING with RESUMED at
the head of the queue, its headless duration in ms rounded down, and the writer takes it; with 16 records waiting the
last is dropped into the gap, which counts it, sets its times and, when it was empty, GAP, before RESUMED takes its
count (R146, R148, R154, R158 to R161) (the rounding: log 40). -/
def Obligations.PageEndEndsTheSweep : Prop :=
  ∀ (s : State) (part : Nat), s.inFlight = some (.pageWrite part) →
    ∃ t, exec .statusPageWriteDone s = .next t ∧ t.monitor = s.monitor ∧ t.groups = s.groups ∧ t.engine = s.engine
      ∧ t.port = s.port ∧ t.store = s.store ∧ t.conduits = s.conduits
      ∧ (part < 34 + s.area.groupCount → s.area.adoptPage = true ∨ s.area.sweep ≠ none →
          t.Wants (.pageWrite (part + 1)) ∧ t.control = s.control ∧ t.area.planMark = s.area.planMark
          ∧ t.area.sweep = s.area.sweep.map fun r => { r with phase := .page (part + 1) })
      ∧ (s.area.adoptPage = false → s.area.sweep = none → s.control.runState.active = false → t.control = s.control
          ∧ t.area = { s.area with flight := t.area.flight, waiting := t.area.waiting, requested := [] }
          ∧ (s.area.requested = [] → s.area.waiting = [] → t.area.flight = none ∧ t.area.waiting = [])
          ∧ (∀ a rest, s.area.requested = [] → s.area.waiting = a :: rest → t.inFlight = some a
              ∧ t.area.waiting = rest))
      ∧ (∀ r, 34 + s.area.groupCount ≤ part → s.area.adoptPage = false → s.area.sweep = some r →
          t.area.planMark = true ∧ t.area.newsMark = false ∧ t.area.dueMark = false
          ∧ t.control.runState = (if s.control.runState = .starting then .running else s.control.runState)
          ∧ (s.control.runState = .starting → s.control.mode = .continuous →
              t.area.sweepTimer = some (s.now + BitVec.ofNat 32 (100 * s.control.sweepPer)))
          ∧ (s.area.newsMark = true → t.control.cause &&& 1 = 1)
          ∧ (r.reporting = true → t.control.cause &&& 4 = 4 ∧ t.Reports s.now
              (.sweepDone r.number r.start (s.now - r.start) r.handedOver r.rejected r.torn r.deferred r.orders
                s.area.converged))
          ∧ (s.area.dueMark = false → t.area.sweep = none ∧ t.area.sweepNumber = s.area.sweepNumber)
          ∧ (s.area.dueMark = true → t.area.sweepNumber = s.area.sweepNumber + 1
              ∧ t.area.sweep = some (SweepRecord.begin (s.area.sweepNumber + 1) s.now s.control.mode)))
      ∧ (34 + s.area.groupCount ≤ part → s.area.adoptPage = true → s.area.holding.length ≤ 16 →
          let full := s.area.holding.length = 16
          let count := if full then min 65535 (s.area.gapCount + 1) else s.area.gapCount
          let resumed : Entry := .resumed s.control.headlessReason count
            (span (s.control.headlessSince.getD s.now) s.now / 1000)
          t.control.settings = { s.control.settings with runState := .starting } ∧ t.area.adoptPage = false
          ∧ t.area.holding = { time := s.now, entry := resumed } :: s.area.holding.take 15
          ∧ t.area.gapCount = count
          ∧ t.area.lastDrop = (if full then some s.now else s.area.lastDrop)
          ∧ t.area.firstDrop = (if full ∧ s.area.gapCount = 0 then some s.now else s.area.firstDrop)
          ∧ t.control.cause = (if full ∧ s.area.gapCount = 0 then s.control.cause ||| 8 else s.control.cause)
          ∧ (s.area.blocked = false → s.area.writer = .idle → s.area.stopTry = none →
              t.area.writer = .kindRead ∧ t.Wants .journalKindRead))

/-! ### What commands leave alone, and what always holds -/

/-- No command touches the queue, and each of these is changed by its own commands only: part time, the host's
registers, the dark-sense lines, the values of the header, and every byte of the bucket memory. -/
def Obligations.CommandsLeaveTheRestAlone : Prop :=
  ∀ (c : Instr) (s t : State), exec c s = .next t →
    t.pending = s.pending
    ∧ (c ≠ .powerOnReset → t.now = s.now)
    ∧ (c ≠ .powerOnReset → c ≠ .linkReset → (∀ r v, c ≠ .registerWrite r v) →
        t.control.areaLo = s.control.areaLo ∧ t.control.areaHi = s.control.areaHi)
    ∧ (c ≠ .powerOnReset → c ≠ .linkReset → (∀ v, c ≠ .causeEnWrite v) → t.control.causeEn = s.control.causeEn)
    ∧ (c ≠ .powerOnReset → c ≠ .linkReset → (∀ v, c ≠ .sweepPerWrite v) → t.control.sweepPer = s.control.sweepPer)
    ∧ (c ≠ .powerOnReset → c ≠ .linkReset → c ≠ .modeContinuous → c ≠ .modeOnDemand →
        t.control.mode = s.control.mode)
    ∧ (c ≠ .powerOnReset → c ≠ .linkReset → c ≠ .holdOn → c ≠ .holdOff → t.control.hold = s.control.hold)
    ∧ ((∀ u l, c ≠ .darkSenseLineChange u l) → t.monitor.lines = s.monitor.lines)
    ∧ (c ≠ .powerOnReset → c ≠ .clear → (∀ bytes, c ≠ .headerReadDone bytes) →
        t.area.identity = s.area.identity ∧ t.area.groupCount = s.area.groupCount
        ∧ t.area.journalLength = s.area.journalLength ∧ t.conduits.hold = s.conduits.hold
        ∧ t.engine.weight = s.engine.weight ∧ t.store.scrubInterval = s.store.scrubInterval
        ∧ t.store.scrubBurst = s.store.scrubBurst
        ∧ (c ≠ .bucketAccessGrant → (∀ k o, c ≠ .parityFault k o) →
            ∀ i, Memory.read t.store.memory i = Memory.read s.store.memory i))

/-- The invariants hold in the state after reset. -/
def Obligations.ResetIsSound : Prop :=
  State.reset.Canonical ∧ State.reset.WithinCapacity ∧ State.reset.LinkSound ∧ State.reset.OneWalkEach

/-- Every step keeps the canonical form of the bucket memory and of the other sparse tables, so that equal contents are
equal data. -/
def Obligations.StepKeepsCanonicalForm : Prop :=
  ∀ s t : State, s.Canonical → step s = .next t → t.Canonical

/-- Every step keeps each queue within its capacity: 64 lookups, 8 answers with the place of a resolution, 16 records,
64 fix items (R35, R36, R85, R159). -/
def Obligations.StepKeepsQueuesWithinCapacity : Prop :=
  ∀ s t : State, s.WithinCapacity → step s = .next t → t.WithinCapacity

/-- Every step keeps these: out of lock the link is DOWN with nothing owed and nothing being sent (R30, R33); and the
walk agenda holds at most one walk per uplink (R111). -/
def Obligations.StepKeepsLinkAndAgendaSound : Prop :=
  ∀ s t : State, step s = .next t → (s.LinkSound → t.LinkSound) ∧ (s.OneWalkEach → t.OneWalkEach)

/-- The frame check: the ones-complement sum of the half-words, high byte first, comes to FFFFh; a message is closed by
FFFFh less the sum of its other half-words, high byte first, and then satisfies it (R170, R171). The messages that the
pipeline sends, byte by byte, and that each is read from its bytes with every field as it was (R34; spec 12.6; identity
bytes in the order listed: log 6). What any bytes with a good check are read as, the bits that are not a field's and the
reserved bytes ignored; nothing is read from others, nor from a length that is not the kind's (R34; the length: log 25).
The messages the device sends: their fields most significant byte first, closed by the frame check (R95, R170, R171;
spec 12.6) (the reserved bytes and the unassigned flag bits are 0: log 53). -/
def Obligations.MessagesAreReadAsTheyWereSent : Prop :=
  (∀ bytes : List Byte, bytes.length % 2 = 0 →
    let total := ((List.range (bytes.length / 2)).map fun i => 256 * byteAt bytes (2 * i) + byteAt bytes (2 * i + 1)).sum
    let check := 65535 - (if total = 0 then 0 else (total - 1) % 65535 + 1)
    (linkCheck bytes = true ↔ 0 < total ∧ total % 65535 = 0)
    ∧ closeMessage bytes = bytes ++ [BitVec.ofNat 8 (check / 256), BitVec.ofNat 8 check]
    ∧ linkCheck (closeMessage bytes) = true)
  ∧ (∀ a : Arrival, Arrival.parse a.bytes = some a)
  ∧ ((∀ v : Byte, (Arrival.hello v).bytes = closeMessage [1, v])
      ∧ (∀ l : Lookup, (Arrival.lookup l).bytes = closeMessage
          [2, l.tag.setWidth 8, BitVec.ofNat 8 (l.group.toNat / 256), BitVec.ofNat 8 l.group.toNat,
           BitVec.ofNat 8 (l.hash.toNat / 256), BitVec.ofNat 8 l.hash.toNat])
      ∧ (∀ (u : Byte) (c : ProbeContent), (Arrival.probeIn u c).bytes = closeMessage
          ([5, u] ++ c.identity.toList
            ++ [c.uplink, if c.seen then 1 else 0, BitVec.ofNat 8 (c.sequence.toNat / 256),
                BitVec.ofNat 8 c.sequence.toNat, 0, 0])))
  ∧ (∀ bytes : List Byte,
      let field (i : Nat) : Byte := bytes.getD i 0
      let is (kind : Byte) (length : Nat) : Prop := linkCheck bytes = true ∧ field 0 = kind ∧ bytes.length = length
      (is 1 4 → Arrival.parse bytes = some (.hello (field 1)))
      ∧ (is 2 8 → Arrival.parse bytes = some (.lookup
          { tag := (field 1).setWidth 6, group := field 2 ++ field 3, hash := field 4 ++ field 5 }))
      ∧ (is 5 16 → Arrival.parse bytes = some (.probeIn (field 1)
          { identity := #v[field 2, field 3, field 4, field 5, field 6, field 7], uplink := field 8
            seen := (field 9).getLsbD 0, sequence := field 10 ++ field 11 }))
      ∧ (¬is 1 4 → ¬is 2 8 → ¬is 5 16 → Arrival.parse bytes = none))
  ∧ (Sending.hello.bytes = closeMessage [1, 1] ∧ Sending.pause.bytes = closeMessage [6, 0]
      ∧ Sending.proceed.bytes = closeMessage [7, 0])
  ∧ (∀ a : Answer, (Sending.answer a).bytes = closeMessage
      [3, a.tag.setWidth 8,
       match a.outcome with | .uplink => 0 | .noRoute => 1 | .notReady => 2 | .badGroup => 3 | .refused => 4,
       BitVec.ofNat 8 a.uplink.val, if a.escaped then 1 else 0, 0])
  ∧ ∀ (u : Fin 32) (c : ProbeContent), (Sending.probe { uplink := u, content := c }).bytes = closeMessage
      ([4, BitVec.ofNat 8 u.val] ++ c.identity.toList
        ++ [c.uplink, if c.seen then 1 else 0, BitVec.ofNat 8 (c.sequence.toNat / 256), BitVec.ofNat 8 c.sequence.toNat,
            0, 0])

end Statements
end

