-- ==== Sys2Proof/Laws/Sparse.lean ====
section
/-! SUPPORT. Sparse tables and the bucket memory: what a write changes, what it leaves, and that every write keeps the
canonical form. -/

namespace Sys2Proof.Machine

namespace Sparse

variable {α : Type} {d v : α} {l : List (Nat × α)} {m n : Nat}

/-- Reading a key below every listed key gives the default. -/
theorem get_of_forall_lt (h : ∀ e ∈ l, n < e.1) : get d l n = d := by
  induction l with
  | nil => rfl
  | cons e t ih =>
    have hk : ¬e.1 = n := by have := h e (by simp); omega
    simp only [get, hk, if_false]
    exact ih fun x hx => h x (by simp [hx])

/-- A table whose values are changed without making one the default keeps the canonical form. -/
theorem map_wf {f : Nat × α → α} (h : wf d l) (hf : ∀ e ∈ l, f e ≠ d) : wf d (l.map fun e => (e.1, f e)) := by
  refine ⟨List.pairwise_map.mpr (h.1.imp fun h => h), fun e he => ?_⟩
  obtain ⟨x, hx, rfl⟩ := List.mem_map.mp he
  exact hf x hx

theorem wf_nil : wf d [] := ⟨List.Pairwise.nil, by simp⟩

variable [DecidableEq α]

/-- A write leaves every other key as it was. -/
theorem get_set_other (h : m ≠ n) : get d (set d l n v) m = get d l m := by
  induction l with
  | nil =>
    unfold set
    split <;> simp [get, Ne.symm h]
  | cons e t ih =>
    obtain ⟨k, w⟩ := e
    simp only [set]
    split
    · simp only [get, ih]
    · split
      · next hk =>
        subst hk
        split <;> simp [get, Ne.symm h]
      · split <;> simp [get, Ne.symm h]

/-- A write is read back. -/
theorem get_set_same (h : wf d l) : get d (set d l n v) n = v := by
  induction l with
  | nil =>
    unfold set
    split <;> simp_all [get]
  | cons e t ih =>
    obtain ⟨k, w⟩ := e
    obtain ⟨hp, hd⟩ := h
    rw [List.pairwise_cons] at hp
    have ht : wf d t := ⟨hp.2, fun x hx => hd x (by simp [hx])⟩
    simp only [set]
    split
    · next hk => simp only [get, Nat.ne_of_lt hk, if_false, ih ht]
    · next hk =>
      split
      · next he =>
        subst he
        split
        · next hv => rw [get_of_forall_lt fun x hx => hp.1 x hx, hv]
        · simp [get]
      · next he =>
        split
        · next hv =>
          rw [hv]
          exact get_of_forall_lt fun x hx => by
            rcases List.mem_cons.mp hx with rfl | hx
            · simp only; omega
            · have := hp.1 x hx
              simp only at this
              omega
        · simp [get]

/-- The keys of a written table are the old ones and the key written. -/
theorem mem_set {e : Nat × α} (h : e ∈ set d l n v) : e ∈ l ∨ e = (n, v) := by
  induction l with
  | nil =>
    unfold set at h
    split at h <;> simp_all
  | cons x t ih =>
    obtain ⟨k, w⟩ := x
    simp only [set] at h
    split at h
    · rcases List.mem_cons.mp h with h | h
      · exact .inl (by simp [h])
      · exact (ih h).imp (fun h => by simp [h]) id
    · split at h
      · split at h
        · exact .inl (by simp [h])
        · rcases List.mem_cons.mp h with h | h
          · exact .inr h
          · exact .inl (by simp [h])
      · split at h
        · exact .inl h
        · rcases List.mem_cons.mp h with h | h
          · exact .inr h
          · exact .inl h

/-- A write keeps the canonical form. -/
theorem set_wf (h : wf d l) : wf d (set d l n v) := by
  induction l with
  | nil =>
    unfold set
    split
    · exact ⟨List.Pairwise.nil, by simp⟩
    · next hv => exact ⟨List.pairwise_singleton _ _, by simpa using hv⟩
  | cons e t ih =>
    obtain ⟨k, w⟩ := e
    obtain ⟨hp, hd⟩ := h
    rw [List.pairwise_cons] at hp
    have ht : wf d t := ⟨hp.2, fun x hx => hd x (by simp [hx])⟩
    have hw : w ≠ d := hd (k, w) (by simp)
    simp only [set]
    split
    · next hk =>
      refine ⟨List.pairwise_cons.mpr ⟨fun x hx => ?_, (ih ht).1⟩, fun x hx => ?_⟩
      · rcases mem_set hx with hx | hx
        · exact hp.1 x hx
        · rw [hx]
          exact hk
      · rcases List.mem_cons.mp hx with rfl | hx
        · exact hw
        · exact (ih ht).2 x hx
    · next hk =>
      split
      · next he =>
        subst he
        split
        · exact ht
        · next hv =>
          refine ⟨List.pairwise_cons.mpr ⟨fun x hx => hp.1 x hx, hp.2⟩, fun x hx => ?_⟩
          rcases List.mem_cons.mp hx with rfl | hx
          · exact hv
          · exact ht.2 x hx
      · next he =>
        split
        · exact ⟨List.pairwise_cons.mpr hp, hd⟩
        · next hv =>
          refine ⟨List.pairwise_cons.mpr ⟨fun x hx => ?_, List.pairwise_cons.mpr hp⟩, fun x hx => ?_⟩
          · rcases List.mem_cons.mp hx with rfl | hx
            · simp only; omega
            · have := hp.1 x hx
              simp only at this ⊢
              omega
          · rcases List.mem_cons.mp hx with rfl | hx
            · exact hv
            · exact hd x hx

end Sparse

namespace Memory

variable {m : List (Nat × Bucket)} {i j : Nat} {b : Bucket}

theorem wf_empty : wf [] := Sparse.wf_nil

/-- A write keeps the canonical form of the bucket memory. -/
theorem write_wf (h : wf m) : wf (write m i b) := Sparse.set_wf h

/-- A bucket written is read back. -/
theorem read_write_same (h : wf m) : read (write m i b) i = b := Sparse.get_set_same h

/-- A write leaves every other bucket as it was. -/
theorem read_write_other (h : j ≠ i) : read (write m i b) j = read m j := Sparse.get_set_other h

end Memory

namespace State

variable (s : State)

/-- The record written for an uplink is read back, and every other stays. -/
@[simp] theorem setUplink_uplink (u v : Fin 32) (r : UplinkRecord) :
    (s.setUplink u r).uplink v = if u = v then r else s.uplink v := by
  simp [setUplink, uplink, Vector.get_eq_getElem, Vector.getElem_set, Fin.ext_iff]

@[simp] theorem modifyUplink_uplink (u v : Fin 32) (f : UplinkRecord → UplinkRecord) :
    (s.modifyUplink u f).uplink v = if u = v then f (s.uplink u) else s.uplink v := setUplink_uplink ..

/-- The alarm written for a conduit is read back, and every other stays. -/
@[simp] theorem setAlarm_alarm (c e : Fin 64) (a : Option Alarm) :
    (s.setAlarm c a).alarm e = if c = e then a else s.alarm e := by
  simp [setAlarm, alarm, Vector.get_eq_getElem, Vector.getElem_set, Fin.ext_iff]

/-- A group's record written leaves every other group's. -/
theorem setGroup_group_other (g h : Nat) (r : GroupRecord) (n : h ≠ g) : (s.setGroup g r).group h = s.group h :=
  Sparse.get_set_other n

/-- A group's record written is read back. -/
theorem setGroup_group_same (g : Nat) (r : GroupRecord) (w : Sparse.wf GroupRecord.reset s.groups) :
    (s.setGroup g r).group g = r := Sparse.get_set_same w

end State

end Sys2Proof.Machine
end

