-- ==== Sys2Proof/Laws/State.lean ====
section
/-! SUPPORT. What each plain update of State leaves unchanged: one lemma per field per update, each true by definition.
A lemma is named after the update and the field it reads. -/

namespace Sys2Proof.Machine.State

variable (s : State)

@[simp] theorem setUplink_control (u : Fin 32) (r : UplinkRecord) : (s.setUplink u r).control = s.control := rfl
@[simp] theorem setUplink_monitor_lines (u : Fin 32) (r : UplinkRecord) : (s.setUplink u r).monitor.lines = s.monitor.lines := rfl
@[simp] theorem setUplink_conduits (u : Fin 32) (r : UplinkRecord) : (s.setUplink u r).conduits = s.conduits := rfl
@[simp] theorem setUplink_groups (u : Fin 32) (r : UplinkRecord) : (s.setUplink u r).groups = s.groups := rfl
@[simp] theorem setUplink_store (u : Fin 32) (r : UplinkRecord) : (s.setUplink u r).store = s.store := rfl
@[simp] theorem setUplink_port (u : Fin 32) (r : UplinkRecord) : (s.setUplink u r).port = s.port := rfl
@[simp] theorem setUplink_engine (u : Fin 32) (r : UplinkRecord) : (s.setUplink u r).engine = s.engine := rfl
@[simp] theorem setUplink_area (u : Fin 32) (r : UplinkRecord) : (s.setUplink u r).area = s.area := rfl
@[simp] theorem setUplink_openCount (u : Fin 32) (r : UplinkRecord) : (s.setUplink u r).openCount = s.openCount := rfl
@[simp] theorem setUplink_pending (u : Fin 32) (r : UplinkRecord) : (s.setUplink u r).pending = s.pending := rfl
@[simp] theorem setUplink_alarm (u : Fin 32) (r : UplinkRecord) (cd : Fin 64) : (s.setUplink u r).alarm cd = s.alarm cd := rfl
@[simp] theorem setUplink_group (u : Fin 32) (r : UplinkRecord) (gr : Nat) : (s.setUplink u r).group gr = s.group gr := rfl

@[simp] theorem modifyUplink_control (u : Fin 32) (f : UplinkRecord → UplinkRecord) : (s.modifyUplink u f).control = s.control := rfl
@[simp] theorem modifyUplink_monitor_lines (u : Fin 32) (f : UplinkRecord → UplinkRecord) : (s.modifyUplink u f).monitor.lines = s.monitor.lines := rfl
@[simp] theorem modifyUplink_conduits (u : Fin 32) (f : UplinkRecord → UplinkRecord) : (s.modifyUplink u f).conduits = s.conduits := rfl
@[simp] theorem modifyUplink_groups (u : Fin 32) (f : UplinkRecord → UplinkRecord) : (s.modifyUplink u f).groups = s.groups := rfl
@[simp] theorem modifyUplink_store (u : Fin 32) (f : UplinkRecord → UplinkRecord) : (s.modifyUplink u f).store = s.store := rfl
@[simp] theorem modifyUplink_port (u : Fin 32) (f : UplinkRecord → UplinkRecord) : (s.modifyUplink u f).port = s.port := rfl
@[simp] theorem modifyUplink_engine (u : Fin 32) (f : UplinkRecord → UplinkRecord) : (s.modifyUplink u f).engine = s.engine := rfl
@[simp] theorem modifyUplink_area (u : Fin 32) (f : UplinkRecord → UplinkRecord) : (s.modifyUplink u f).area = s.area := rfl
@[simp] theorem modifyUplink_openCount (u : Fin 32) (f : UplinkRecord → UplinkRecord) : (s.modifyUplink u f).openCount = s.openCount := rfl
@[simp] theorem modifyUplink_pending (u : Fin 32) (f : UplinkRecord → UplinkRecord) : (s.modifyUplink u f).pending = s.pending := rfl
@[simp] theorem modifyUplink_alarm (u : Fin 32) (f : UplinkRecord → UplinkRecord) (cd : Fin 64) : (s.modifyUplink u f).alarm cd = s.alarm cd := rfl
@[simp] theorem modifyUplink_group (u : Fin 32) (f : UplinkRecord → UplinkRecord) (gr : Nat) : (s.modifyUplink u f).group gr = s.group gr := rfl

@[simp] theorem setAlarm_control (c : Fin 64) (a : Option Alarm) : (s.setAlarm c a).control = s.control := rfl
@[simp] theorem setAlarm_monitor (c : Fin 64) (a : Option Alarm) : (s.setAlarm c a).monitor = s.monitor := rfl
@[simp] theorem setAlarm_conduits_hold (c : Fin 64) (a : Option Alarm) : (s.setAlarm c a).conduits.hold = s.conduits.hold := rfl
@[simp] theorem setAlarm_groups (c : Fin 64) (a : Option Alarm) : (s.setAlarm c a).groups = s.groups := rfl
@[simp] theorem setAlarm_store (c : Fin 64) (a : Option Alarm) : (s.setAlarm c a).store = s.store := rfl
@[simp] theorem setAlarm_port (c : Fin 64) (a : Option Alarm) : (s.setAlarm c a).port = s.port := rfl
@[simp] theorem setAlarm_engine (c : Fin 64) (a : Option Alarm) : (s.setAlarm c a).engine = s.engine := rfl
@[simp] theorem setAlarm_area (c : Fin 64) (a : Option Alarm) : (s.setAlarm c a).area = s.area := rfl
@[simp] theorem setAlarm_openCount (c : Fin 64) (a : Option Alarm) : (s.setAlarm c a).openCount = s.openCount := rfl
@[simp] theorem setAlarm_pending (c : Fin 64) (a : Option Alarm) : (s.setAlarm c a).pending = s.pending := rfl
@[simp] theorem setAlarm_uplink (c : Fin 64) (a : Option Alarm) (v : Fin 32) : (s.setAlarm c a).uplink v = s.uplink v := rfl
@[simp] theorem setAlarm_group (c : Fin 64) (a : Option Alarm) (gr : Nat) : (s.setAlarm c a).group gr = s.group gr := rfl

@[simp] theorem setGroup_control (g : Nat) (r : GroupRecord) : (s.setGroup g r).control = s.control := rfl
@[simp] theorem setGroup_monitor (g : Nat) (r : GroupRecord) : (s.setGroup g r).monitor = s.monitor := rfl
@[simp] theorem setGroup_conduits (g : Nat) (r : GroupRecord) : (s.setGroup g r).conduits = s.conduits := rfl
@[simp] theorem setGroup_store (g : Nat) (r : GroupRecord) : (s.setGroup g r).store = s.store := rfl
@[simp] theorem setGroup_port (g : Nat) (r : GroupRecord) : (s.setGroup g r).port = s.port := rfl
@[simp] theorem setGroup_engine (g : Nat) (r : GroupRecord) : (s.setGroup g r).engine = s.engine := rfl
@[simp] theorem setGroup_area (g : Nat) (r : GroupRecord) : (s.setGroup g r).area = s.area := rfl
@[simp] theorem setGroup_openCount (g : Nat) (r : GroupRecord) : (s.setGroup g r).openCount = s.openCount := rfl
@[simp] theorem setGroup_pending (g : Nat) (r : GroupRecord) : (s.setGroup g r).pending = s.pending := rfl
@[simp] theorem setGroup_uplink (g : Nat) (r : GroupRecord) (v : Fin 32) : (s.setGroup g r).uplink v = s.uplink v := rfl
@[simp] theorem setGroup_alarm (g : Nat) (r : GroupRecord) (cd : Fin 64) : (s.setGroup g r).alarm cd = s.alarm cd := rfl

@[simp] theorem recheckUplinks_control (p : Fin 32 → Bool) : (s.recheckUplinks p).control = s.control := rfl
@[simp] theorem recheckUplinks_monitor (p : Fin 32 → Bool) : (s.recheckUplinks p).monitor = s.monitor := rfl
@[simp] theorem recheckUplinks_conduits (p : Fin 32 → Bool) : (s.recheckUplinks p).conduits = s.conduits := rfl
@[simp] theorem recheckUplinks_store (p : Fin 32 → Bool) : (s.recheckUplinks p).store = s.store := rfl
@[simp] theorem recheckUplinks_port (p : Fin 32 → Bool) : (s.recheckUplinks p).port = s.port := rfl
@[simp] theorem recheckUplinks_engine (p : Fin 32 → Bool) : (s.recheckUplinks p).engine = s.engine := rfl
@[simp] theorem recheckUplinks_area (p : Fin 32 → Bool) : (s.recheckUplinks p).area = s.area := rfl
@[simp] theorem recheckUplinks_openCount (p : Fin 32 → Bool) : (s.recheckUplinks p).openCount = s.openCount := rfl
@[simp] theorem recheckUplinks_pending (p : Fin 32 → Bool) : (s.recheckUplinks p).pending = s.pending := rfl
@[simp] theorem recheckUplinks_uplink (p : Fin 32 → Bool) (v : Fin 32) : (s.recheckUplinks p).uplink v = s.uplink v := rfl
@[simp] theorem recheckUplinks_alarm (p : Fin 32 → Bool) (cd : Fin 64) : (s.recheckUplinks p).alarm cd = s.alarm cd := rfl

@[simp] theorem setBucket_control (k o : Nat) (b : Bucket) : (s.setBucket k o b).control = s.control := rfl
@[simp] theorem setBucket_monitor (k o : Nat) (b : Bucket) : (s.setBucket k o b).monitor = s.monitor := rfl
@[simp] theorem setBucket_conduits (k o : Nat) (b : Bucket) : (s.setBucket k o b).conduits = s.conduits := rfl
@[simp] theorem setBucket_groups (k o : Nat) (b : Bucket) : (s.setBucket k o b).groups = s.groups := rfl
@[simp] theorem setBucket_store_owners (k o : Nat) (b : Bucket) : (s.setBucket k o b).store.owners = s.store.owners := rfl
@[simp] theorem setBucket_store_loads (k o : Nat) (b : Bucket) : (s.setBucket k o b).store.loads = s.store.loads := rfl
@[simp] theorem setBucket_store_fixQueue (k o : Nat) (b : Bucket) : (s.setBucket k o b).store.fixQueue = s.store.fixQueue := rfl
@[simp] theorem setBucket_store_access (k o : Nat) (b : Bucket) : (s.setBucket k o b).store.access = s.store.access := rfl
@[simp] theorem setBucket_store_lastBackground (k o : Nat) (b : Bucket) : (s.setBucket k o b).store.lastBackground = s.store.lastBackground := rfl
@[simp] theorem setBucket_store_scrubCursor (k o : Nat) (b : Bucket) : (s.setBucket k o b).store.scrubCursor = s.store.scrubCursor := rfl
@[simp] theorem setBucket_store_scrubInterval (k o : Nat) (b : Bucket) : (s.setBucket k o b).store.scrubInterval = s.store.scrubInterval := rfl
@[simp] theorem setBucket_store_scrubBurst (k o : Nat) (b : Bucket) : (s.setBucket k o b).store.scrubBurst = s.store.scrubBurst := rfl
@[simp] theorem setBucket_store_scrubTimer (k o : Nat) (b : Bucket) : (s.setBucket k o b).store.scrubTimer = s.store.scrubTimer := rfl
@[simp] theorem setBucket_store_burst (k o : Nat) (b : Bucket) : (s.setBucket k o b).store.burst = s.store.burst := rfl
@[simp] theorem setBucket_store_snapshot (k o : Nat) (b : Bucket) : (s.setBucket k o b).store.snapshot = s.store.snapshot := rfl
@[simp] theorem setBucket_port (k o : Nat) (b : Bucket) : (s.setBucket k o b).port = s.port := rfl
@[simp] theorem setBucket_engine (k o : Nat) (b : Bucket) : (s.setBucket k o b).engine = s.engine := rfl
@[simp] theorem setBucket_area (k o : Nat) (b : Bucket) : (s.setBucket k o b).area = s.area := rfl
@[simp] theorem setBucket_openCount (k o : Nat) (b : Bucket) : (s.setBucket k o b).openCount = s.openCount := rfl
@[simp] theorem setBucket_pending (k o : Nat) (b : Bucket) : (s.setBucket k o b).pending = s.pending := rfl
@[simp] theorem setBucket_uplink (k o : Nat) (b : Bucket) (v : Fin 32) : (s.setBucket k o b).uplink v = s.uplink v := rfl
@[simp] theorem setBucket_alarm (k o : Nat) (b : Bucket) (cd : Fin 64) : (s.setBucket k o b).alarm cd = s.alarm cd := rfl
@[simp] theorem setBucket_group (k o : Nat) (b : Bucket) (gr : Nat) : (s.setBucket k o b).group gr = s.group gr := rfl

@[simp] theorem setOwner_control (k : Nat) (o : Owner) : (s.setOwner k o).control = s.control := rfl
@[simp] theorem setOwner_monitor (k : Nat) (o : Owner) : (s.setOwner k o).monitor = s.monitor := rfl
@[simp] theorem setOwner_conduits (k : Nat) (o : Owner) : (s.setOwner k o).conduits = s.conduits := rfl
@[simp] theorem setOwner_groups (k : Nat) (o : Owner) : (s.setOwner k o).groups = s.groups := rfl
@[simp] theorem setOwner_store_memory (k : Nat) (o : Owner) : (s.setOwner k o).store.memory = s.store.memory := rfl
@[simp] theorem setOwner_store_loads (k : Nat) (o : Owner) : (s.setOwner k o).store.loads = s.store.loads := rfl
@[simp] theorem setOwner_store_fixQueue (k : Nat) (o : Owner) : (s.setOwner k o).store.fixQueue = s.store.fixQueue := rfl
@[simp] theorem setOwner_store_access (k : Nat) (o : Owner) : (s.setOwner k o).store.access = s.store.access := rfl
@[simp] theorem setOwner_store_lastBackground (k : Nat) (o : Owner) : (s.setOwner k o).store.lastBackground = s.store.lastBackground := rfl
@[simp] theorem setOwner_store_scrubCursor (k : Nat) (o : Owner) : (s.setOwner k o).store.scrubCursor = s.store.scrubCursor := rfl
@[simp] theorem setOwner_store_scrubInterval (k : Nat) (o : Owner) : (s.setOwner k o).store.scrubInterval = s.store.scrubInterval := rfl
@[simp] theorem setOwner_store_scrubBurst (k : Nat) (o : Owner) : (s.setOwner k o).store.scrubBurst = s.store.scrubBurst := rfl
@[simp] theorem setOwner_store_scrubTimer (k : Nat) (o : Owner) : (s.setOwner k o).store.scrubTimer = s.store.scrubTimer := rfl
@[simp] theorem setOwner_store_burst (k : Nat) (o : Owner) : (s.setOwner k o).store.burst = s.store.burst := rfl
@[simp] theorem setOwner_store_snapshot (k : Nat) (o : Owner) : (s.setOwner k o).store.snapshot = s.store.snapshot := rfl
@[simp] theorem setOwner_port (k : Nat) (o : Owner) : (s.setOwner k o).port = s.port := rfl
@[simp] theorem setOwner_engine (k : Nat) (o : Owner) : (s.setOwner k o).engine = s.engine := rfl
@[simp] theorem setOwner_area (k : Nat) (o : Owner) : (s.setOwner k o).area = s.area := rfl
@[simp] theorem setOwner_openCount (k : Nat) (o : Owner) : (s.setOwner k o).openCount = s.openCount := rfl
@[simp] theorem setOwner_pending (k : Nat) (o : Owner) : (s.setOwner k o).pending = s.pending := rfl
@[simp] theorem setOwner_uplink (k : Nat) (o : Owner) (v : Fin 32) : (s.setOwner k o).uplink v = s.uplink v := rfl
@[simp] theorem setOwner_alarm (k : Nat) (o : Owner) (cd : Fin 64) : (s.setOwner k o).alarm cd = s.alarm cd := rfl
@[simp] theorem setOwner_group (k : Nat) (o : Owner) (gr : Nat) : (s.setOwner k o).group gr = s.group gr := rfl

@[simp] theorem endAccess_control : (s.endAccess).control = s.control := rfl
@[simp] theorem endAccess_monitor : (s.endAccess).monitor = s.monitor := rfl
@[simp] theorem endAccess_conduits : (s.endAccess).conduits = s.conduits := rfl
@[simp] theorem endAccess_groups : (s.endAccess).groups = s.groups := rfl
@[simp] theorem endAccess_store_memory : (s.endAccess).store.memory = s.store.memory := rfl
@[simp] theorem endAccess_store_owners : (s.endAccess).store.owners = s.store.owners := rfl
@[simp] theorem endAccess_store_loads : (s.endAccess).store.loads = s.store.loads := rfl
@[simp] theorem endAccess_store_fixQueue : (s.endAccess).store.fixQueue = s.store.fixQueue := rfl
@[simp] theorem endAccess_store_lastBackground : (s.endAccess).store.lastBackground = s.store.lastBackground := rfl
@[simp] theorem endAccess_store_scrubCursor : (s.endAccess).store.scrubCursor = s.store.scrubCursor := rfl
@[simp] theorem endAccess_store_scrubInterval : (s.endAccess).store.scrubInterval = s.store.scrubInterval := rfl
@[simp] theorem endAccess_store_scrubBurst : (s.endAccess).store.scrubBurst = s.store.scrubBurst := rfl
@[simp] theorem endAccess_store_scrubTimer : (s.endAccess).store.scrubTimer = s.store.scrubTimer := rfl
@[simp] theorem endAccess_store_burst : (s.endAccess).store.burst = s.store.burst := rfl
@[simp] theorem endAccess_store_snapshot : (s.endAccess).store.snapshot = s.store.snapshot := rfl
@[simp] theorem endAccess_port : (s.endAccess).port = s.port := rfl
@[simp] theorem endAccess_engine : (s.endAccess).engine = s.engine := rfl
@[simp] theorem endAccess_area : (s.endAccess).area = s.area := rfl
@[simp] theorem endAccess_openCount : (s.endAccess).openCount = s.openCount := rfl
@[simp] theorem endAccess_pending : (s.endAccess).pending = s.pending := rfl
@[simp] theorem endAccess_uplink (v : Fin 32) : (s.endAccess).uplink v = s.uplink v := rfl
@[simp] theorem endAccess_alarm (cd : Fin 64) : (s.endAccess).alarm cd = s.alarm cd := rfl
@[simp] theorem endAccess_group (gr : Nat) : (s.endAccess).group gr = s.group gr := rfl

@[simp] theorem discardAccess_control (p : Requester → Bool) : (s.discardAccess p).control = s.control := rfl
@[simp] theorem discardAccess_monitor (p : Requester → Bool) : (s.discardAccess p).monitor = s.monitor := rfl
@[simp] theorem discardAccess_conduits (p : Requester → Bool) : (s.discardAccess p).conduits = s.conduits := rfl
@[simp] theorem discardAccess_groups (p : Requester → Bool) : (s.discardAccess p).groups = s.groups := rfl
@[simp] theorem discardAccess_store_memory (p : Requester → Bool) : (s.discardAccess p).store.memory = s.store.memory := rfl
@[simp] theorem discardAccess_store_owners (p : Requester → Bool) : (s.discardAccess p).store.owners = s.store.owners := rfl
@[simp] theorem discardAccess_store_loads (p : Requester → Bool) : (s.discardAccess p).store.loads = s.store.loads := rfl
@[simp] theorem discardAccess_store_fixQueue (p : Requester → Bool) : (s.discardAccess p).store.fixQueue = s.store.fixQueue := rfl
@[simp] theorem discardAccess_store_lastBackground (p : Requester → Bool) : (s.discardAccess p).store.lastBackground = s.store.lastBackground := rfl
@[simp] theorem discardAccess_store_scrubCursor (p : Requester → Bool) : (s.discardAccess p).store.scrubCursor = s.store.scrubCursor := rfl
@[simp] theorem discardAccess_store_scrubInterval (p : Requester → Bool) : (s.discardAccess p).store.scrubInterval = s.store.scrubInterval := rfl
@[simp] theorem discardAccess_store_scrubBurst (p : Requester → Bool) : (s.discardAccess p).store.scrubBurst = s.store.scrubBurst := rfl
@[simp] theorem discardAccess_store_scrubTimer (p : Requester → Bool) : (s.discardAccess p).store.scrubTimer = s.store.scrubTimer := rfl
@[simp] theorem discardAccess_store_burst (p : Requester → Bool) : (s.discardAccess p).store.burst = s.store.burst := rfl
@[simp] theorem discardAccess_store_snapshot (p : Requester → Bool) : (s.discardAccess p).store.snapshot = s.store.snapshot := rfl
@[simp] theorem discardAccess_port (p : Requester → Bool) : (s.discardAccess p).port = s.port := rfl
@[simp] theorem discardAccess_engine (p : Requester → Bool) : (s.discardAccess p).engine = s.engine := rfl
@[simp] theorem discardAccess_area (p : Requester → Bool) : (s.discardAccess p).area = s.area := rfl
@[simp] theorem discardAccess_openCount (p : Requester → Bool) : (s.discardAccess p).openCount = s.openCount := rfl
@[simp] theorem discardAccess_pending (p : Requester → Bool) : (s.discardAccess p).pending = s.pending := rfl
@[simp] theorem discardAccess_uplink (p : Requester → Bool) (v : Fin 32) : (s.discardAccess p).uplink v = s.uplink v := rfl
@[simp] theorem discardAccess_alarm (p : Requester → Bool) (cd : Fin 64) : (s.discardAccess p).alarm cd = s.alarm cd := rfl
@[simp] theorem discardAccess_group (p : Requester → Bool) (gr : Nat) : (s.discardAccess p).group gr = s.group gr := rfl

@[simp] theorem beginAccess_control (r : Requester) (k o : Nat) : (s.beginAccess r k o).control = s.control := rfl
@[simp] theorem beginAccess_monitor (r : Requester) (k o : Nat) : (s.beginAccess r k o).monitor = s.monitor := rfl
@[simp] theorem beginAccess_conduits (r : Requester) (k o : Nat) : (s.beginAccess r k o).conduits = s.conduits := rfl
@[simp] theorem beginAccess_groups (r : Requester) (k o : Nat) : (s.beginAccess r k o).groups = s.groups := rfl
@[simp] theorem beginAccess_store_memory (r : Requester) (k o : Nat) : (s.beginAccess r k o).store.memory = s.store.memory := rfl
@[simp] theorem beginAccess_store_owners (r : Requester) (k o : Nat) : (s.beginAccess r k o).store.owners = s.store.owners := rfl
@[simp] theorem beginAccess_store_loads (r : Requester) (k o : Nat) : (s.beginAccess r k o).store.loads = s.store.loads := rfl
@[simp] theorem beginAccess_store_fixQueue (r : Requester) (k o : Nat) : (s.beginAccess r k o).store.fixQueue = s.store.fixQueue := rfl
@[simp] theorem beginAccess_store_lastBackground (r : Requester) (k o : Nat) : (s.beginAccess r k o).store.lastBackground = s.store.lastBackground := rfl
@[simp] theorem beginAccess_store_scrubCursor (r : Requester) (k o : Nat) : (s.beginAccess r k o).store.scrubCursor = s.store.scrubCursor := rfl
@[simp] theorem beginAccess_store_scrubInterval (r : Requester) (k o : Nat) : (s.beginAccess r k o).store.scrubInterval = s.store.scrubInterval := rfl
@[simp] theorem beginAccess_store_scrubBurst (r : Requester) (k o : Nat) : (s.beginAccess r k o).store.scrubBurst = s.store.scrubBurst := rfl
@[simp] theorem beginAccess_store_scrubTimer (r : Requester) (k o : Nat) : (s.beginAccess r k o).store.scrubTimer = s.store.scrubTimer := rfl
@[simp] theorem beginAccess_store_burst (r : Requester) (k o : Nat) : (s.beginAccess r k o).store.burst = s.store.burst := rfl
@[simp] theorem beginAccess_store_snapshot (r : Requester) (k o : Nat) : (s.beginAccess r k o).store.snapshot = s.store.snapshot := rfl
@[simp] theorem beginAccess_port (r : Requester) (k o : Nat) : (s.beginAccess r k o).port = s.port := rfl
@[simp] theorem beginAccess_engine (r : Requester) (k o : Nat) : (s.beginAccess r k o).engine = s.engine := rfl
@[simp] theorem beginAccess_area (r : Requester) (k o : Nat) : (s.beginAccess r k o).area = s.area := rfl
@[simp] theorem beginAccess_openCount (r : Requester) (k o : Nat) : (s.beginAccess r k o).openCount = s.openCount := rfl
@[simp] theorem beginAccess_pending (r : Requester) (k o : Nat) : (s.beginAccess r k o).pending = s.pending := rfl
@[simp] theorem beginAccess_uplink (r : Requester) (k o : Nat) (v : Fin 32) : (s.beginAccess r k o).uplink v = s.uplink v := rfl
@[simp] theorem beginAccess_alarm (r : Requester) (k o : Nat) (cd : Fin 64) : (s.beginAccess r k o).alarm cd = s.alarm cd := rfl
@[simp] theorem beginAccess_group (r : Requester) (k o : Nat) (gr : Nat) : (s.beginAccess r k o).group gr = s.group gr := rfl

@[simp] theorem setBurst_control (b : Option Burst) : (s.setBurst b).control = s.control := rfl
@[simp] theorem setBurst_monitor (b : Option Burst) : (s.setBurst b).monitor = s.monitor := rfl
@[simp] theorem setBurst_conduits (b : Option Burst) : (s.setBurst b).conduits = s.conduits := rfl
@[simp] theorem setBurst_groups (b : Option Burst) : (s.setBurst b).groups = s.groups := rfl
@[simp] theorem setBurst_store_memory (b : Option Burst) : (s.setBurst b).store.memory = s.store.memory := rfl
@[simp] theorem setBurst_store_owners (b : Option Burst) : (s.setBurst b).store.owners = s.store.owners := rfl
@[simp] theorem setBurst_store_loads (b : Option Burst) : (s.setBurst b).store.loads = s.store.loads := rfl
@[simp] theorem setBurst_store_fixQueue (b : Option Burst) : (s.setBurst b).store.fixQueue = s.store.fixQueue := rfl
@[simp] theorem setBurst_store_access (b : Option Burst) : (s.setBurst b).store.access = s.store.access := rfl
@[simp] theorem setBurst_store_lastBackground (b : Option Burst) : (s.setBurst b).store.lastBackground = s.store.lastBackground := rfl
@[simp] theorem setBurst_store_scrubCursor (b : Option Burst) : (s.setBurst b).store.scrubCursor = s.store.scrubCursor := rfl
@[simp] theorem setBurst_store_scrubInterval (b : Option Burst) : (s.setBurst b).store.scrubInterval = s.store.scrubInterval := rfl
@[simp] theorem setBurst_store_scrubBurst (b : Option Burst) : (s.setBurst b).store.scrubBurst = s.store.scrubBurst := rfl
@[simp] theorem setBurst_store_scrubTimer (b : Option Burst) : (s.setBurst b).store.scrubTimer = s.store.scrubTimer := rfl
@[simp] theorem setBurst_store_snapshot (b : Option Burst) : (s.setBurst b).store.snapshot = s.store.snapshot := rfl
@[simp] theorem setBurst_port (b : Option Burst) : (s.setBurst b).port = s.port := rfl
@[simp] theorem setBurst_engine (b : Option Burst) : (s.setBurst b).engine = s.engine := rfl
@[simp] theorem setBurst_area (b : Option Burst) : (s.setBurst b).area = s.area := rfl
@[simp] theorem setBurst_openCount (b : Option Burst) : (s.setBurst b).openCount = s.openCount := rfl
@[simp] theorem setBurst_pending (b : Option Burst) : (s.setBurst b).pending = s.pending := rfl
@[simp] theorem setBurst_uplink (b : Option Burst) (v : Fin 32) : (s.setBurst b).uplink v = s.uplink v := rfl
@[simp] theorem setBurst_alarm (b : Option Burst) (cd : Fin 64) : (s.setBurst b).alarm cd = s.alarm cd := rfl
@[simp] theorem setBurst_group (b : Option Burst) (gr : Nat) : (s.setBurst b).group gr = s.group gr := rfl

@[simp] theorem setSnapshot_control (r : Option SnapshotRecord) : (s.setSnapshot r).control = s.control := rfl
@[simp] theorem setSnapshot_monitor (r : Option SnapshotRecord) : (s.setSnapshot r).monitor = s.monitor := rfl
@[simp] theorem setSnapshot_conduits (r : Option SnapshotRecord) : (s.setSnapshot r).conduits = s.conduits := rfl
@[simp] theorem setSnapshot_groups (r : Option SnapshotRecord) : (s.setSnapshot r).groups = s.groups := rfl
@[simp] theorem setSnapshot_store_memory (r : Option SnapshotRecord) : (s.setSnapshot r).store.memory = s.store.memory := rfl
@[simp] theorem setSnapshot_store_owners (r : Option SnapshotRecord) : (s.setSnapshot r).store.owners = s.store.owners := rfl
@[simp] theorem setSnapshot_store_loads (r : Option SnapshotRecord) : (s.setSnapshot r).store.loads = s.store.loads := rfl
@[simp] theorem setSnapshot_store_fixQueue (r : Option SnapshotRecord) : (s.setSnapshot r).store.fixQueue = s.store.fixQueue := rfl
@[simp] theorem setSnapshot_store_access (r : Option SnapshotRecord) : (s.setSnapshot r).store.access = s.store.access := rfl
@[simp] theorem setSnapshot_store_lastBackground (r : Option SnapshotRecord) : (s.setSnapshot r).store.lastBackground = s.store.lastBackground := rfl
@[simp] theorem setSnapshot_store_scrubCursor (r : Option SnapshotRecord) : (s.setSnapshot r).store.scrubCursor = s.store.scrubCursor := rfl
@[simp] theorem setSnapshot_store_scrubInterval (r : Option SnapshotRecord) : (s.setSnapshot r).store.scrubInterval = s.store.scrubInterval := rfl
@[simp] theorem setSnapshot_store_scrubBurst (r : Option SnapshotRecord) : (s.setSnapshot r).store.scrubBurst = s.store.scrubBurst := rfl
@[simp] theorem setSnapshot_store_scrubTimer (r : Option SnapshotRecord) : (s.setSnapshot r).store.scrubTimer = s.store.scrubTimer := rfl
@[simp] theorem setSnapshot_store_burst (r : Option SnapshotRecord) : (s.setSnapshot r).store.burst = s.store.burst := rfl
@[simp] theorem setSnapshot_port (r : Option SnapshotRecord) : (s.setSnapshot r).port = s.port := rfl
@[simp] theorem setSnapshot_engine (r : Option SnapshotRecord) : (s.setSnapshot r).engine = s.engine := rfl
@[simp] theorem setSnapshot_area (r : Option SnapshotRecord) : (s.setSnapshot r).area = s.area := rfl
@[simp] theorem setSnapshot_openCount (r : Option SnapshotRecord) : (s.setSnapshot r).openCount = s.openCount := rfl
@[simp] theorem setSnapshot_pending (r : Option SnapshotRecord) : (s.setSnapshot r).pending = s.pending := rfl
@[simp] theorem setSnapshot_uplink (r : Option SnapshotRecord) (v : Fin 32) : (s.setSnapshot r).uplink v = s.uplink v := rfl
@[simp] theorem setSnapshot_alarm (r : Option SnapshotRecord) (cd : Fin 64) : (s.setSnapshot r).alarm cd = s.alarm cd := rfl
@[simp] theorem setSnapshot_group (r : Option SnapshotRecord) (gr : Nat) : (s.setSnapshot r).group gr = s.group gr := rfl

@[simp] theorem countRun_control (f : GroupFields) (b : List Nat) : (s.countRun f b).control = s.control := rfl
@[simp] theorem countRun_monitor (f : GroupFields) (b : List Nat) : (s.countRun f b).monitor = s.monitor := rfl
@[simp] theorem countRun_conduits (f : GroupFields) (b : List Nat) : (s.countRun f b).conduits = s.conduits := rfl
@[simp] theorem countRun_groups (f : GroupFields) (b : List Nat) : (s.countRun f b).groups = s.groups := rfl
@[simp] theorem countRun_store_memory (f : GroupFields) (b : List Nat) : (s.countRun f b).store.memory = s.store.memory := rfl
@[simp] theorem countRun_store_owners (f : GroupFields) (b : List Nat) : (s.countRun f b).store.owners = s.store.owners := rfl
@[simp] theorem countRun_store_fixQueue (f : GroupFields) (b : List Nat) : (s.countRun f b).store.fixQueue = s.store.fixQueue := rfl
@[simp] theorem countRun_store_access (f : GroupFields) (b : List Nat) : (s.countRun f b).store.access = s.store.access := rfl
@[simp] theorem countRun_store_lastBackground (f : GroupFields) (b : List Nat) : (s.countRun f b).store.lastBackground = s.store.lastBackground := rfl
@[simp] theorem countRun_store_scrubCursor (f : GroupFields) (b : List Nat) : (s.countRun f b).store.scrubCursor = s.store.scrubCursor := rfl
@[simp] theorem countRun_store_scrubInterval (f : GroupFields) (b : List Nat) : (s.countRun f b).store.scrubInterval = s.store.scrubInterval := rfl
@[simp] theorem countRun_store_scrubBurst (f : GroupFields) (b : List Nat) : (s.countRun f b).store.scrubBurst = s.store.scrubBurst := rfl
@[simp] theorem countRun_store_scrubTimer (f : GroupFields) (b : List Nat) : (s.countRun f b).store.scrubTimer = s.store.scrubTimer := rfl
@[simp] theorem countRun_store_burst (f : GroupFields) (b : List Nat) : (s.countRun f b).store.burst = s.store.burst := rfl
@[simp] theorem countRun_store_snapshot (f : GroupFields) (b : List Nat) : (s.countRun f b).store.snapshot = s.store.snapshot := rfl
@[simp] theorem countRun_port (f : GroupFields) (b : List Nat) : (s.countRun f b).port = s.port := rfl
@[simp] theorem countRun_engine (f : GroupFields) (b : List Nat) : (s.countRun f b).engine = s.engine := rfl
@[simp] theorem countRun_area (f : GroupFields) (b : List Nat) : (s.countRun f b).area = s.area := rfl
@[simp] theorem countRun_openCount (f : GroupFields) (b : List Nat) : (s.countRun f b).openCount = s.openCount := rfl
@[simp] theorem countRun_pending (f : GroupFields) (b : List Nat) : (s.countRun f b).pending = s.pending := rfl
@[simp] theorem countRun_uplink (f : GroupFields) (b : List Nat) (v : Fin 32) : (s.countRun f b).uplink v = s.uplink v := rfl
@[simp] theorem countRun_alarm (f : GroupFields) (b : List Nat) (cd : Fin 64) : (s.countRun f b).alarm cd = s.alarm cd := rfl
@[simp] theorem countRun_group (f : GroupFields) (b : List Nat) (gr : Nat) : (s.countRun f b).group gr = s.group gr := rfl

@[simp] theorem uncountRun_control (r : LiveRun) : (s.uncountRun r).control = s.control := rfl
@[simp] theorem uncountRun_monitor (r : LiveRun) : (s.uncountRun r).monitor = s.monitor := rfl
@[simp] theorem uncountRun_conduits (r : LiveRun) : (s.uncountRun r).conduits = s.conduits := rfl
@[simp] theorem uncountRun_groups (r : LiveRun) : (s.uncountRun r).groups = s.groups := rfl
@[simp] theorem uncountRun_store_memory (r : LiveRun) : (s.uncountRun r).store.memory = s.store.memory := rfl
@[simp] theorem uncountRun_store_owners (r : LiveRun) : (s.uncountRun r).store.owners = s.store.owners := rfl
@[simp] theorem uncountRun_store_fixQueue (r : LiveRun) : (s.uncountRun r).store.fixQueue = s.store.fixQueue := rfl
@[simp] theorem uncountRun_store_access (r : LiveRun) : (s.uncountRun r).store.access = s.store.access := rfl
@[simp] theorem uncountRun_store_lastBackground (r : LiveRun) : (s.uncountRun r).store.lastBackground = s.store.lastBackground := rfl
@[simp] theorem uncountRun_store_scrubCursor (r : LiveRun) : (s.uncountRun r).store.scrubCursor = s.store.scrubCursor := rfl
@[simp] theorem uncountRun_store_scrubInterval (r : LiveRun) : (s.uncountRun r).store.scrubInterval = s.store.scrubInterval := rfl
@[simp] theorem uncountRun_store_scrubBurst (r : LiveRun) : (s.uncountRun r).store.scrubBurst = s.store.scrubBurst := rfl
@[simp] theorem uncountRun_store_scrubTimer (r : LiveRun) : (s.uncountRun r).store.scrubTimer = s.store.scrubTimer := rfl
@[simp] theorem uncountRun_store_burst (r : LiveRun) : (s.uncountRun r).store.burst = s.store.burst := rfl
@[simp] theorem uncountRun_store_snapshot (r : LiveRun) : (s.uncountRun r).store.snapshot = s.store.snapshot := rfl
@[simp] theorem uncountRun_port (r : LiveRun) : (s.uncountRun r).port = s.port := rfl
@[simp] theorem uncountRun_engine (r : LiveRun) : (s.uncountRun r).engine = s.engine := rfl
@[simp] theorem uncountRun_area (r : LiveRun) : (s.uncountRun r).area = s.area := rfl
@[simp] theorem uncountRun_openCount (r : LiveRun) : (s.uncountRun r).openCount = s.openCount := rfl
@[simp] theorem uncountRun_pending (r : LiveRun) : (s.uncountRun r).pending = s.pending := rfl
@[simp] theorem uncountRun_uplink (r : LiveRun) (v : Fin 32) : (s.uncountRun r).uplink v = s.uplink v := rfl
@[simp] theorem uncountRun_alarm (r : LiveRun) (cd : Fin 64) : (s.uncountRun r).alarm cd = s.alarm cd := rfl
@[simp] theorem uncountRun_group (r : LiveRun) (gr : Nat) : (s.uncountRun r).group gr = s.group gr := rfl

@[simp] theorem setCause_control_areaLo (c : Cause) : (s.setCause c).control.areaLo = s.control.areaLo := rfl
@[simp] theorem setCause_control_areaHi (c : Cause) : (s.setCause c).control.areaHi = s.control.areaHi := rfl
@[simp] theorem setCause_control_causeEn (c : Cause) : (s.setCause c).control.causeEn = s.control.causeEn := rfl
@[simp] theorem setCause_control_sweepPer (c : Cause) : (s.setCause c).control.sweepPer = s.control.sweepPer := rfl
@[simp] theorem setCause_control_mode (c : Cause) : (s.setCause c).control.mode = s.control.mode := rfl
@[simp] theorem setCause_control_hold (c : Cause) : (s.setCause c).control.hold = s.control.hold := rfl
@[simp] theorem setCause_control_lastRefused (c : Cause) : (s.setCause c).control.lastRefused = s.control.lastRefused := rfl
@[simp] theorem setCause_control_runState (c : Cause) : (s.setCause c).control.runState = s.control.runState := rfl
@[simp] theorem setCause_control_headlessReason (c : Cause) : (s.setCause c).control.headlessReason = s.control.headlessReason := rfl
@[simp] theorem setCause_control_headlessSince (c : Cause) : (s.setCause c).control.headlessSince = s.control.headlessSince := rfl
@[simp] theorem setCause_control_now (c : Cause) : (s.setCause c).control.now = s.control.now := rfl
@[simp] theorem setCause_control_readData (c : Cause) : (s.setCause c).control.readData = s.control.readData := rfl
@[simp] theorem setCause_monitor (c : Cause) : (s.setCause c).monitor = s.monitor := rfl
@[simp] theorem setCause_conduits (c : Cause) : (s.setCause c).conduits = s.conduits := rfl
@[simp] theorem setCause_groups (c : Cause) : (s.setCause c).groups = s.groups := rfl
@[simp] theorem setCause_store (c : Cause) : (s.setCause c).store = s.store := rfl
@[simp] theorem setCause_port (c : Cause) : (s.setCause c).port = s.port := rfl
@[simp] theorem setCause_engine (c : Cause) : (s.setCause c).engine = s.engine := rfl
@[simp] theorem setCause_area (c : Cause) : (s.setCause c).area = s.area := rfl
@[simp] theorem setCause_openCount (c : Cause) : (s.setCause c).openCount = s.openCount := rfl
@[simp] theorem setCause_pending (c : Cause) : (s.setCause c).pending = s.pending := rfl
@[simp] theorem setCause_uplink (c : Cause) (v : Fin 32) : (s.setCause c).uplink v = s.uplink v := rfl
@[simp] theorem setCause_alarm (c : Cause) (cd : Fin 64) : (s.setCause c).alarm cd = s.alarm cd := rfl
@[simp] theorem setCause_group (c : Cause) (gr : Nat) : (s.setCause c).group gr = s.group gr := rfl

@[simp] theorem tick_control_areaLo : (s.tick).control.areaLo = s.control.areaLo := rfl
@[simp] theorem tick_control_areaHi : (s.tick).control.areaHi = s.control.areaHi := rfl
@[simp] theorem tick_control_cause : (s.tick).control.cause = s.control.cause := rfl
@[simp] theorem tick_control_causeEn : (s.tick).control.causeEn = s.control.causeEn := rfl
@[simp] theorem tick_control_sweepPer : (s.tick).control.sweepPer = s.control.sweepPer := rfl
@[simp] theorem tick_control_mode : (s.tick).control.mode = s.control.mode := rfl
@[simp] theorem tick_control_hold : (s.tick).control.hold = s.control.hold := rfl
@[simp] theorem tick_control_lastRefused : (s.tick).control.lastRefused = s.control.lastRefused := rfl
@[simp] theorem tick_control_runState : (s.tick).control.runState = s.control.runState := rfl
@[simp] theorem tick_control_headlessReason : (s.tick).control.headlessReason = s.control.headlessReason := rfl
@[simp] theorem tick_control_headlessSince : (s.tick).control.headlessSince = s.control.headlessSince := rfl
@[simp] theorem tick_control_readData : (s.tick).control.readData = s.control.readData := rfl
@[simp] theorem tick_control_interruptsSent : (s.tick).control.interruptsSent = s.control.interruptsSent := rfl
@[simp] theorem tick_monitor : (s.tick).monitor = s.monitor := rfl
@[simp] theorem tick_conduits : (s.tick).conduits = s.conduits := rfl
@[simp] theorem tick_groups : (s.tick).groups = s.groups := rfl
@[simp] theorem tick_store : (s.tick).store = s.store := rfl
@[simp] theorem tick_port : (s.tick).port = s.port := rfl
@[simp] theorem tick_engine : (s.tick).engine = s.engine := rfl
@[simp] theorem tick_area : (s.tick).area = s.area := rfl
@[simp] theorem tick_openCount : (s.tick).openCount = s.openCount := rfl
@[simp] theorem tick_pending : (s.tick).pending = s.pending := rfl
@[simp] theorem tick_uplink (v : Fin 32) : (s.tick).uplink v = s.uplink v := rfl
@[simp] theorem tick_alarm (cd : Fin 64) : (s.tick).alarm cd = s.alarm cd := rfl
@[simp] theorem tick_group (gr : Nat) : (s.tick).group gr = s.group gr := rfl

@[simp] theorem setWork_control (w : Work) : (s.setWork w).control = s.control := rfl
@[simp] theorem setWork_monitor (w : Work) : (s.setWork w).monitor = s.monitor := rfl
@[simp] theorem setWork_conduits (w : Work) : (s.setWork w).conduits = s.conduits := rfl
@[simp] theorem setWork_groups (w : Work) : (s.setWork w).groups = s.groups := rfl
@[simp] theorem setWork_store (w : Work) : (s.setWork w).store = s.store := rfl
@[simp] theorem setWork_port (w : Work) : (s.setWork w).port = s.port := rfl
@[simp] theorem setWork_engine_index (w : Work) : (s.setWork w).engine.index = s.engine.index := rfl
@[simp] theorem setWork_engine_entriesInUse (w : Work) : (s.setWork w).engine.entriesInUse = s.engine.entriesInUse := rfl
@[simp] theorem setWork_engine_entriesReserved (w : Work) : (s.setWork w).engine.entriesReserved = s.engine.entriesReserved := rfl
@[simp] theorem setWork_engine_urgent (w : Work) : (s.setWork w).engine.urgent = s.engine.urgent := rfl
@[simp] theorem setWork_engine_restore (w : Work) : (s.setWork w).engine.restore = s.engine.restore := rfl
@[simp] theorem setWork_engine_intake (w : Work) : (s.setWork w).engine.intake = s.engine.intake := rfl
@[simp] theorem setWork_engine_tally (w : Work) : (s.setWork w).engine.tally = s.engine.tally := rfl
@[simp] theorem setWork_engine_weight (w : Work) : (s.setWork w).engine.weight = s.engine.weight := rfl
@[simp] theorem setWork_area (w : Work) : (s.setWork w).area = s.area := rfl
@[simp] theorem setWork_openCount (w : Work) : (s.setWork w).openCount = s.openCount := rfl
@[simp] theorem setWork_pending (w : Work) : (s.setWork w).pending = s.pending := rfl
@[simp] theorem setWork_uplink (w : Work) (v : Fin 32) : (s.setWork w).uplink v = s.uplink v := rfl
@[simp] theorem setWork_alarm (w : Work) (cd : Fin 64) : (s.setWork w).alarm cd = s.alarm cd := rfl
@[simp] theorem setWork_group (w : Work) (gr : Nat) : (s.setWork w).group gr = s.group gr := rfl

@[simp] theorem endWork_control : (s.endWork).control = s.control := rfl
@[simp] theorem endWork_monitor : (s.endWork).monitor = s.monitor := rfl
@[simp] theorem endWork_conduits : (s.endWork).conduits = s.conduits := rfl
@[simp] theorem endWork_groups : (s.endWork).groups = s.groups := rfl
@[simp] theorem endWork_store : (s.endWork).store = s.store := rfl
@[simp] theorem endWork_port : (s.endWork).port = s.port := rfl
@[simp] theorem endWork_engine_index : (s.endWork).engine.index = s.engine.index := rfl
@[simp] theorem endWork_engine_entriesInUse : (s.endWork).engine.entriesInUse = s.engine.entriesInUse := rfl
@[simp] theorem endWork_engine_entriesReserved : (s.endWork).engine.entriesReserved = s.engine.entriesReserved := rfl
@[simp] theorem endWork_engine_urgent : (s.endWork).engine.urgent = s.engine.urgent := rfl
@[simp] theorem endWork_engine_restore : (s.endWork).engine.restore = s.engine.restore := rfl
@[simp] theorem endWork_engine_intake : (s.endWork).engine.intake = s.engine.intake := rfl
@[simp] theorem endWork_engine_tally : (s.endWork).engine.tally = s.engine.tally := rfl
@[simp] theorem endWork_engine_weight : (s.endWork).engine.weight = s.engine.weight := rfl
@[simp] theorem endWork_area : (s.endWork).area = s.area := rfl
@[simp] theorem endWork_openCount : (s.endWork).openCount = s.openCount := rfl
@[simp] theorem endWork_pending : (s.endWork).pending = s.pending := rfl
@[simp] theorem endWork_uplink (v : Fin 32) : (s.endWork).uplink v = s.uplink v := rfl
@[simp] theorem endWork_alarm (cd : Fin 64) : (s.endWork).alarm cd = s.alarm cd := rfl
@[simp] theorem endWork_group (gr : Nat) : (s.endWork).group gr = s.group gr := rfl

@[simp] theorem setTally_control (n : Nat) : (s.setTally n).control = s.control := rfl
@[simp] theorem setTally_monitor (n : Nat) : (s.setTally n).monitor = s.monitor := rfl
@[simp] theorem setTally_conduits (n : Nat) : (s.setTally n).conduits = s.conduits := rfl
@[simp] theorem setTally_groups (n : Nat) : (s.setTally n).groups = s.groups := rfl
@[simp] theorem setTally_store (n : Nat) : (s.setTally n).store = s.store := rfl
@[simp] theorem setTally_port (n : Nat) : (s.setTally n).port = s.port := rfl
@[simp] theorem setTally_engine_index (n : Nat) : (s.setTally n).engine.index = s.engine.index := rfl
@[simp] theorem setTally_engine_entriesInUse (n : Nat) : (s.setTally n).engine.entriesInUse = s.engine.entriesInUse := rfl
@[simp] theorem setTally_engine_entriesReserved (n : Nat) : (s.setTally n).engine.entriesReserved = s.engine.entriesReserved := rfl
@[simp] theorem setTally_engine_urgent (n : Nat) : (s.setTally n).engine.urgent = s.engine.urgent := rfl
@[simp] theorem setTally_engine_restore (n : Nat) : (s.setTally n).engine.restore = s.engine.restore := rfl
@[simp] theorem setTally_engine_intake (n : Nat) : (s.setTally n).engine.intake = s.engine.intake := rfl
@[simp] theorem setTally_engine_weight (n : Nat) : (s.setTally n).engine.weight = s.engine.weight := rfl
@[simp] theorem setTally_engine_work (n : Nat) : (s.setTally n).engine.work = s.engine.work := rfl
@[simp] theorem setTally_area (n : Nat) : (s.setTally n).area = s.area := rfl
@[simp] theorem setTally_openCount (n : Nat) : (s.setTally n).openCount = s.openCount := rfl
@[simp] theorem setTally_pending (n : Nat) : (s.setTally n).pending = s.pending := rfl
@[simp] theorem setTally_uplink (n : Nat) (v : Fin 32) : (s.setTally n).uplink v = s.uplink v := rfl
@[simp] theorem setTally_alarm (n : Nat) (cd : Fin 64) : (s.setTally n).alarm cd = s.alarm cd := rfl
@[simp] theorem setTally_group (n : Nat) (gr : Nat) : (s.setTally n).group gr = s.group gr := rfl

@[simp] theorem modifyWalk_control (u : Fin 32) (f : Walk → Walk) : (s.modifyWalk u f).control = s.control := rfl
@[simp] theorem modifyWalk_monitor (u : Fin 32) (f : Walk → Walk) : (s.modifyWalk u f).monitor = s.monitor := rfl
@[simp] theorem modifyWalk_conduits (u : Fin 32) (f : Walk → Walk) : (s.modifyWalk u f).conduits = s.conduits := rfl
@[simp] theorem modifyWalk_groups (u : Fin 32) (f : Walk → Walk) : (s.modifyWalk u f).groups = s.groups := rfl
@[simp] theorem modifyWalk_store (u : Fin 32) (f : Walk → Walk) : (s.modifyWalk u f).store = s.store := rfl
@[simp] theorem modifyWalk_port (u : Fin 32) (f : Walk → Walk) : (s.modifyWalk u f).port = s.port := rfl
@[simp] theorem modifyWalk_engine_index (u : Fin 32) (f : Walk → Walk) : (s.modifyWalk u f).engine.index = s.engine.index := rfl
@[simp] theorem modifyWalk_engine_entriesInUse (u : Fin 32) (f : Walk → Walk) : (s.modifyWalk u f).engine.entriesInUse = s.engine.entriesInUse := rfl
@[simp] theorem modifyWalk_engine_entriesReserved (u : Fin 32) (f : Walk → Walk) : (s.modifyWalk u f).engine.entriesReserved = s.engine.entriesReserved := rfl
@[simp] theorem modifyWalk_engine_intake (u : Fin 32) (f : Walk → Walk) : (s.modifyWalk u f).engine.intake = s.engine.intake := rfl
@[simp] theorem modifyWalk_engine_tally (u : Fin 32) (f : Walk → Walk) : (s.modifyWalk u f).engine.tally = s.engine.tally := rfl
@[simp] theorem modifyWalk_engine_weight (u : Fin 32) (f : Walk → Walk) : (s.modifyWalk u f).engine.weight = s.engine.weight := rfl
@[simp] theorem modifyWalk_engine_work (u : Fin 32) (f : Walk → Walk) : (s.modifyWalk u f).engine.work = s.engine.work := rfl
@[simp] theorem modifyWalk_area (u : Fin 32) (f : Walk → Walk) : (s.modifyWalk u f).area = s.area := rfl
@[simp] theorem modifyWalk_openCount (u : Fin 32) (f : Walk → Walk) : (s.modifyWalk u f).openCount = s.openCount := rfl
@[simp] theorem modifyWalk_pending (u : Fin 32) (f : Walk → Walk) : (s.modifyWalk u f).pending = s.pending := rfl
@[simp] theorem modifyWalk_uplink (u : Fin 32) (f : Walk → Walk) (v : Fin 32) : (s.modifyWalk u f).uplink v = s.uplink v := rfl
@[simp] theorem modifyWalk_alarm (u : Fin 32) (f : Walk → Walk) (cd : Fin 64) : (s.modifyWalk u f).alarm cd = s.alarm cd := rfl
@[simp] theorem modifyWalk_group (u : Fin 32) (f : Walk → Walk) (gr : Nat) : (s.modifyWalk u f).group gr = s.group gr := rfl

@[simp] theorem reindex_control (g : Nat) (old new : List Member) : (s.reindex g old new).control = s.control := rfl
@[simp] theorem reindex_monitor (g : Nat) (old new : List Member) : (s.reindex g old new).monitor = s.monitor := rfl
@[simp] theorem reindex_conduits (g : Nat) (old new : List Member) : (s.reindex g old new).conduits = s.conduits := rfl
@[simp] theorem reindex_groups (g : Nat) (old new : List Member) : (s.reindex g old new).groups = s.groups := rfl
@[simp] theorem reindex_store (g : Nat) (old new : List Member) : (s.reindex g old new).store = s.store := rfl
@[simp] theorem reindex_port (g : Nat) (old new : List Member) : (s.reindex g old new).port = s.port := rfl
@[simp] theorem reindex_engine_entriesReserved (g : Nat) (old new : List Member) : (s.reindex g old new).engine.entriesReserved = s.engine.entriesReserved := rfl
@[simp] theorem reindex_engine_urgent (g : Nat) (old new : List Member) : (s.reindex g old new).engine.urgent = s.engine.urgent := rfl
@[simp] theorem reindex_engine_restore (g : Nat) (old new : List Member) : (s.reindex g old new).engine.restore = s.engine.restore := rfl
@[simp] theorem reindex_engine_intake (g : Nat) (old new : List Member) : (s.reindex g old new).engine.intake = s.engine.intake := rfl
@[simp] theorem reindex_engine_tally (g : Nat) (old new : List Member) : (s.reindex g old new).engine.tally = s.engine.tally := rfl
@[simp] theorem reindex_engine_weight (g : Nat) (old new : List Member) : (s.reindex g old new).engine.weight = s.engine.weight := rfl
@[simp] theorem reindex_engine_work (g : Nat) (old new : List Member) : (s.reindex g old new).engine.work = s.engine.work := rfl
@[simp] theorem reindex_area (g : Nat) (old new : List Member) : (s.reindex g old new).area = s.area := rfl
@[simp] theorem reindex_openCount (g : Nat) (old new : List Member) : (s.reindex g old new).openCount = s.openCount := rfl
@[simp] theorem reindex_pending (g : Nat) (old new : List Member) : (s.reindex g old new).pending = s.pending := rfl
@[simp] theorem reindex_uplink (g : Nat) (old new : List Member) (v : Fin 32) : (s.reindex g old new).uplink v = s.uplink v := rfl
@[simp] theorem reindex_alarm (g : Nat) (old new : List Member) (cd : Fin 64) : (s.reindex g old new).alarm cd = s.alarm cd := rfl
@[simp] theorem reindex_group (g : Nat) (old new : List Member) (gr : Nat) : (s.reindex g old new).group gr = s.group gr := rfl

@[simp] theorem transmit_control : (s.transmit).control = s.control := rfl
@[simp] theorem transmit_monitor : (s.transmit).monitor = s.monitor := rfl
@[simp] theorem transmit_conduits : (s.transmit).conduits = s.conduits := rfl
@[simp] theorem transmit_groups : (s.transmit).groups = s.groups := rfl
@[simp] theorem transmit_store : (s.transmit).store = s.store := rfl
@[simp] theorem transmit_engine : (s.transmit).engine = s.engine := rfl
@[simp] theorem transmit_area : (s.transmit).area = s.area := rfl
@[simp] theorem transmit_openCount : (s.transmit).openCount = s.openCount := rfl
@[simp] theorem transmit_pending : (s.transmit).pending = s.pending := rfl
@[simp] theorem transmit_uplink (v : Fin 32) : (s.transmit).uplink v = s.uplink v := rfl
@[simp] theorem transmit_alarm (cd : Fin 64) : (s.transmit).alarm cd = s.alarm cd := rfl
@[simp] theorem transmit_group (gr : Nat) : (s.transmit).group gr = s.group gr := rfl

@[simp] theorem request_control (a : AreaAccess) : (s.request a).control = s.control := rfl
@[simp] theorem request_monitor (a : AreaAccess) : (s.request a).monitor = s.monitor := rfl
@[simp] theorem request_conduits (a : AreaAccess) : (s.request a).conduits = s.conduits := rfl
@[simp] theorem request_groups (a : AreaAccess) : (s.request a).groups = s.groups := rfl
@[simp] theorem request_store (a : AreaAccess) : (s.request a).store = s.store := rfl
@[simp] theorem request_port (a : AreaAccess) : (s.request a).port = s.port := rfl
@[simp] theorem request_engine (a : AreaAccess) : (s.request a).engine = s.engine := rfl
@[simp] theorem request_area_base (a : AreaAccess) : (s.request a).area.base = s.area.base := rfl
@[simp] theorem request_area_identity (a : AreaAccess) : (s.request a).area.identity = s.area.identity := rfl
@[simp] theorem request_area_groupCount (a : AreaAccess) : (s.request a).area.groupCount = s.area.groupCount := rfl
@[simp] theorem request_area_journalLength (a : AreaAccess) : (s.request a).area.journalLength = s.area.journalLength := rfl
@[simp] theorem request_area_planMark (a : AreaAccess) : (s.request a).area.planMark = s.area.planMark := rfl
@[simp] theorem request_area_sweepNumber (a : AreaAccess) : (s.request a).area.sweepNumber = s.area.sweepNumber := rfl
@[simp] theorem request_area_sweep (a : AreaAccess) : (s.request a).area.sweep = s.area.sweep := rfl
@[simp] theorem request_area_sweepTimer (a : AreaAccess) : (s.request a).area.sweepTimer = s.area.sweepTimer := rfl
@[simp] theorem request_area_dueMark (a : AreaAccess) : (s.request a).area.dueMark = s.area.dueMark := rfl
@[simp] theorem request_area_uplinkRows (a : AreaAccess) : (s.request a).area.uplinkRows = s.area.uplinkRows := rfl
@[simp] theorem request_area_groupRows (a : AreaAccess) : (s.request a).area.groupRows = s.area.groupRows := rfl
@[simp] theorem request_area_slotHolds (a : AreaAccess) : (s.request a).area.slotHolds = s.area.slotHolds := rfl
@[simp] theorem request_area_converged (a : AreaAccess) : (s.request a).area.converged = s.area.converged := rfl
@[simp] theorem request_area_taking (a : AreaAccess) : (s.request a).area.taking = s.area.taking := rfl
@[simp] theorem request_area_completions (a : AreaAccess) : (s.request a).area.completions = s.area.completions := rfl
@[simp] theorem request_area_position (a : AreaAccess) : (s.request a).area.position = s.area.position := rfl
@[simp] theorem request_area_blocked (a : AreaAccess) : (s.request a).area.blocked = s.area.blocked := rfl
@[simp] theorem request_area_holding (a : AreaAccess) : (s.request a).area.holding = s.area.holding := rfl
@[simp] theorem request_area_writer (a : AreaAccess) : (s.request a).area.writer = s.area.writer := rfl
@[simp] theorem request_area_stopTry (a : AreaAccess) : (s.request a).area.stopTry = s.area.stopTry := rfl
@[simp] theorem request_area_gapCount (a : AreaAccess) : (s.request a).area.gapCount = s.area.gapCount := rfl
@[simp] theorem request_area_firstDrop (a : AreaAccess) : (s.request a).area.firstDrop = s.area.firstDrop := rfl
@[simp] theorem request_area_lastDrop (a : AreaAccess) : (s.request a).area.lastDrop = s.area.lastDrop := rfl
@[simp] theorem request_area_newsMark (a : AreaAccess) : (s.request a).area.newsMark = s.area.newsMark := rfl
@[simp] theorem request_area_startCommand (a : AreaAccess) : (s.request a).area.startCommand = s.area.startCommand := rfl
@[simp] theorem request_area_adoptPage (a : AreaAccess) : (s.request a).area.adoptPage = s.area.adoptPage := rfl
@[simp] theorem request_area_flight (a : AreaAccess) : (s.request a).area.flight = s.area.flight := rfl
@[simp] theorem request_area_waiting (a : AreaAccess) : (s.request a).area.waiting = s.area.waiting := rfl
@[simp] theorem request_openCount (a : AreaAccess) : (s.request a).openCount = s.openCount := rfl
@[simp] theorem request_pending (a : AreaAccess) : (s.request a).pending = s.pending := rfl
@[simp] theorem request_uplink (a : AreaAccess) (v : Fin 32) : (s.request a).uplink v = s.uplink v := rfl
@[simp] theorem request_alarm (a : AreaAccess) (cd : Fin 64) : (s.request a).alarm cd = s.alarm cd := rfl
@[simp] theorem request_group (a : AreaAccess) (gr : Nat) : (s.request a).group gr = s.group gr := rfl

@[simp] theorem endFlight_control : (s.endFlight).control = s.control := rfl
@[simp] theorem endFlight_monitor : (s.endFlight).monitor = s.monitor := rfl
@[simp] theorem endFlight_conduits : (s.endFlight).conduits = s.conduits := rfl
@[simp] theorem endFlight_groups : (s.endFlight).groups = s.groups := rfl
@[simp] theorem endFlight_store : (s.endFlight).store = s.store := rfl
@[simp] theorem endFlight_port : (s.endFlight).port = s.port := rfl
@[simp] theorem endFlight_engine : (s.endFlight).engine = s.engine := rfl
@[simp] theorem endFlight_area_base : (s.endFlight).area.base = s.area.base := rfl
@[simp] theorem endFlight_area_identity : (s.endFlight).area.identity = s.area.identity := rfl
@[simp] theorem endFlight_area_groupCount : (s.endFlight).area.groupCount = s.area.groupCount := rfl
@[simp] theorem endFlight_area_journalLength : (s.endFlight).area.journalLength = s.area.journalLength := rfl
@[simp] theorem endFlight_area_planMark : (s.endFlight).area.planMark = s.area.planMark := rfl
@[simp] theorem endFlight_area_sweepNumber : (s.endFlight).area.sweepNumber = s.area.sweepNumber := rfl
@[simp] theorem endFlight_area_sweep : (s.endFlight).area.sweep = s.area.sweep := rfl
@[simp] theorem endFlight_area_sweepTimer : (s.endFlight).area.sweepTimer = s.area.sweepTimer := rfl
@[simp] theorem endFlight_area_dueMark : (s.endFlight).area.dueMark = s.area.dueMark := rfl
@[simp] theorem endFlight_area_uplinkRows : (s.endFlight).area.uplinkRows = s.area.uplinkRows := rfl
@[simp] theorem endFlight_area_groupRows : (s.endFlight).area.groupRows = s.area.groupRows := rfl
@[simp] theorem endFlight_area_slotHolds : (s.endFlight).area.slotHolds = s.area.slotHolds := rfl
@[simp] theorem endFlight_area_converged : (s.endFlight).area.converged = s.area.converged := rfl
@[simp] theorem endFlight_area_taking : (s.endFlight).area.taking = s.area.taking := rfl
@[simp] theorem endFlight_area_completions : (s.endFlight).area.completions = s.area.completions := rfl
@[simp] theorem endFlight_area_position : (s.endFlight).area.position = s.area.position := rfl
@[simp] theorem endFlight_area_blocked : (s.endFlight).area.blocked = s.area.blocked := rfl
@[simp] theorem endFlight_area_holding : (s.endFlight).area.holding = s.area.holding := rfl
@[simp] theorem endFlight_area_writer : (s.endFlight).area.writer = s.area.writer := rfl
@[simp] theorem endFlight_area_stopTry : (s.endFlight).area.stopTry = s.area.stopTry := rfl
@[simp] theorem endFlight_area_gapCount : (s.endFlight).area.gapCount = s.area.gapCount := rfl
@[simp] theorem endFlight_area_firstDrop : (s.endFlight).area.firstDrop = s.area.firstDrop := rfl
@[simp] theorem endFlight_area_lastDrop : (s.endFlight).area.lastDrop = s.area.lastDrop := rfl
@[simp] theorem endFlight_area_newsMark : (s.endFlight).area.newsMark = s.area.newsMark := rfl
@[simp] theorem endFlight_area_startCommand : (s.endFlight).area.startCommand = s.area.startCommand := rfl
@[simp] theorem endFlight_area_adoptPage : (s.endFlight).area.adoptPage = s.area.adoptPage := rfl
@[simp] theorem endFlight_area_waiting : (s.endFlight).area.waiting = s.area.waiting := rfl
@[simp] theorem endFlight_area_requested : (s.endFlight).area.requested = s.area.requested := rfl
@[simp] theorem endFlight_openCount : (s.endFlight).openCount = s.openCount := rfl
@[simp] theorem endFlight_pending : (s.endFlight).pending = s.pending := rfl
@[simp] theorem endFlight_uplink (v : Fin 32) : (s.endFlight).uplink v = s.uplink v := rfl
@[simp] theorem endFlight_alarm (cd : Fin 64) : (s.endFlight).alarm cd = s.alarm cd := rfl
@[simp] theorem endFlight_group (gr : Nat) : (s.endFlight).group gr = s.group gr := rfl

@[simp] theorem endTaken_control : (s.endTaken).control = s.control := rfl
@[simp] theorem endTaken_monitor : (s.endTaken).monitor = s.monitor := rfl
@[simp] theorem endTaken_conduits : (s.endTaken).conduits = s.conduits := rfl
@[simp] theorem endTaken_groups : (s.endTaken).groups = s.groups := rfl
@[simp] theorem endTaken_store : (s.endTaken).store = s.store := rfl
@[simp] theorem endTaken_port : (s.endTaken).port = s.port := rfl
@[simp] theorem endTaken_engine : (s.endTaken).engine = s.engine := rfl
@[simp] theorem endTaken_area_base : (s.endTaken).area.base = s.area.base := rfl
@[simp] theorem endTaken_area_identity : (s.endTaken).area.identity = s.area.identity := rfl
@[simp] theorem endTaken_area_groupCount : (s.endTaken).area.groupCount = s.area.groupCount := rfl
@[simp] theorem endTaken_area_journalLength : (s.endTaken).area.journalLength = s.area.journalLength := rfl
@[simp] theorem endTaken_area_planMark : (s.endTaken).area.planMark = s.area.planMark := rfl
@[simp] theorem endTaken_area_sweepNumber : (s.endTaken).area.sweepNumber = s.area.sweepNumber := rfl
@[simp] theorem endTaken_area_sweep : (s.endTaken).area.sweep = s.area.sweep := rfl
@[simp] theorem endTaken_area_sweepTimer : (s.endTaken).area.sweepTimer = s.area.sweepTimer := rfl
@[simp] theorem endTaken_area_dueMark : (s.endTaken).area.dueMark = s.area.dueMark := rfl
@[simp] theorem endTaken_area_uplinkRows : (s.endTaken).area.uplinkRows = s.area.uplinkRows := rfl
@[simp] theorem endTaken_area_groupRows : (s.endTaken).area.groupRows = s.area.groupRows := rfl
@[simp] theorem endTaken_area_slotHolds : (s.endTaken).area.slotHolds = s.area.slotHolds := rfl
@[simp] theorem endTaken_area_converged : (s.endTaken).area.converged = s.area.converged := rfl
@[simp] theorem endTaken_area_completions : (s.endTaken).area.completions = s.area.completions := rfl
@[simp] theorem endTaken_area_position : (s.endTaken).area.position = s.area.position := rfl
@[simp] theorem endTaken_area_blocked : (s.endTaken).area.blocked = s.area.blocked := rfl
@[simp] theorem endTaken_area_holding : (s.endTaken).area.holding = s.area.holding := rfl
@[simp] theorem endTaken_area_writer : (s.endTaken).area.writer = s.area.writer := rfl
@[simp] theorem endTaken_area_stopTry : (s.endTaken).area.stopTry = s.area.stopTry := rfl
@[simp] theorem endTaken_area_gapCount : (s.endTaken).area.gapCount = s.area.gapCount := rfl
@[simp] theorem endTaken_area_firstDrop : (s.endTaken).area.firstDrop = s.area.firstDrop := rfl
@[simp] theorem endTaken_area_lastDrop : (s.endTaken).area.lastDrop = s.area.lastDrop := rfl
@[simp] theorem endTaken_area_newsMark : (s.endTaken).area.newsMark = s.area.newsMark := rfl
@[simp] theorem endTaken_area_startCommand : (s.endTaken).area.startCommand = s.area.startCommand := rfl
@[simp] theorem endTaken_area_adoptPage : (s.endTaken).area.adoptPage = s.area.adoptPage := rfl
@[simp] theorem endTaken_area_waiting : (s.endTaken).area.waiting = s.area.waiting := rfl
@[simp] theorem endTaken_area_requested : (s.endTaken).area.requested = s.area.requested := rfl
@[simp] theorem endTaken_openCount : (s.endTaken).openCount = s.openCount := rfl
@[simp] theorem endTaken_pending : (s.endTaken).pending = s.pending := rfl
@[simp] theorem endTaken_uplink (v : Fin 32) : (s.endTaken).uplink v = s.uplink v := rfl
@[simp] theorem endTaken_alarm (cd : Fin 64) : (s.endTaken).alarm cd = s.alarm cd := rfl
@[simp] theorem endTaken_group (gr : Nat) : (s.endTaken).group gr = s.group gr := rfl

@[simp] theorem dropHold_control (k : Fin 16) : (s.dropHold k).control = s.control := rfl
@[simp] theorem dropHold_monitor (k : Fin 16) : (s.dropHold k).monitor = s.monitor := rfl
@[simp] theorem dropHold_conduits (k : Fin 16) : (s.dropHold k).conduits = s.conduits := rfl
@[simp] theorem dropHold_groups (k : Fin 16) : (s.dropHold k).groups = s.groups := rfl
@[simp] theorem dropHold_store (k : Fin 16) : (s.dropHold k).store = s.store := rfl
@[simp] theorem dropHold_port (k : Fin 16) : (s.dropHold k).port = s.port := rfl
@[simp] theorem dropHold_engine (k : Fin 16) : (s.dropHold k).engine = s.engine := rfl
@[simp] theorem dropHold_area_base (k : Fin 16) : (s.dropHold k).area.base = s.area.base := rfl
@[simp] theorem dropHold_area_identity (k : Fin 16) : (s.dropHold k).area.identity = s.area.identity := rfl
@[simp] theorem dropHold_area_groupCount (k : Fin 16) : (s.dropHold k).area.groupCount = s.area.groupCount := rfl
@[simp] theorem dropHold_area_journalLength (k : Fin 16) : (s.dropHold k).area.journalLength = s.area.journalLength := rfl
@[simp] theorem dropHold_area_planMark (k : Fin 16) : (s.dropHold k).area.planMark = s.area.planMark := rfl
@[simp] theorem dropHold_area_sweepNumber (k : Fin 16) : (s.dropHold k).area.sweepNumber = s.area.sweepNumber := rfl
@[simp] theorem dropHold_area_sweep (k : Fin 16) : (s.dropHold k).area.sweep = s.area.sweep := rfl
@[simp] theorem dropHold_area_sweepTimer (k : Fin 16) : (s.dropHold k).area.sweepTimer = s.area.sweepTimer := rfl
@[simp] theorem dropHold_area_dueMark (k : Fin 16) : (s.dropHold k).area.dueMark = s.area.dueMark := rfl
@[simp] theorem dropHold_area_uplinkRows (k : Fin 16) : (s.dropHold k).area.uplinkRows = s.area.uplinkRows := rfl
@[simp] theorem dropHold_area_groupRows (k : Fin 16) : (s.dropHold k).area.groupRows = s.area.groupRows := rfl
@[simp] theorem dropHold_area_converged (k : Fin 16) : (s.dropHold k).area.converged = s.area.converged := rfl
@[simp] theorem dropHold_area_taking (k : Fin 16) : (s.dropHold k).area.taking = s.area.taking := rfl
@[simp] theorem dropHold_area_completions (k : Fin 16) : (s.dropHold k).area.completions = s.area.completions := rfl
@[simp] theorem dropHold_area_position (k : Fin 16) : (s.dropHold k).area.position = s.area.position := rfl
@[simp] theorem dropHold_area_blocked (k : Fin 16) : (s.dropHold k).area.blocked = s.area.blocked := rfl
@[simp] theorem dropHold_area_holding (k : Fin 16) : (s.dropHold k).area.holding = s.area.holding := rfl
@[simp] theorem dropHold_area_writer (k : Fin 16) : (s.dropHold k).area.writer = s.area.writer := rfl
@[simp] theorem dropHold_area_stopTry (k : Fin 16) : (s.dropHold k).area.stopTry = s.area.stopTry := rfl
@[simp] theorem dropHold_area_gapCount (k : Fin 16) : (s.dropHold k).area.gapCount = s.area.gapCount := rfl
@[simp] theorem dropHold_area_firstDrop (k : Fin 16) : (s.dropHold k).area.firstDrop = s.area.firstDrop := rfl
@[simp] theorem dropHold_area_lastDrop (k : Fin 16) : (s.dropHold k).area.lastDrop = s.area.lastDrop := rfl
@[simp] theorem dropHold_area_newsMark (k : Fin 16) : (s.dropHold k).area.newsMark = s.area.newsMark := rfl
@[simp] theorem dropHold_area_startCommand (k : Fin 16) : (s.dropHold k).area.startCommand = s.area.startCommand := rfl
@[simp] theorem dropHold_area_adoptPage (k : Fin 16) : (s.dropHold k).area.adoptPage = s.area.adoptPage := rfl
@[simp] theorem dropHold_area_flight (k : Fin 16) : (s.dropHold k).area.flight = s.area.flight := rfl
@[simp] theorem dropHold_area_waiting (k : Fin 16) : (s.dropHold k).area.waiting = s.area.waiting := rfl
@[simp] theorem dropHold_area_requested (k : Fin 16) : (s.dropHold k).area.requested = s.area.requested := rfl
@[simp] theorem dropHold_openCount (k : Fin 16) : (s.dropHold k).openCount = s.openCount := rfl
@[simp] theorem dropHold_pending (k : Fin 16) : (s.dropHold k).pending = s.pending := rfl
@[simp] theorem dropHold_uplink (k : Fin 16) (v : Fin 32) : (s.dropHold k).uplink v = s.uplink v := rfl
@[simp] theorem dropHold_alarm (k : Fin 16) (cd : Fin 64) : (s.dropHold k).alarm cd = s.alarm cd := rfl
@[simp] theorem dropHold_group (k : Fin 16) (gr : Nat) : (s.dropHold k).group gr = s.group gr := rfl

@[simp] theorem dropAccesses_control (p : AreaAccess → Bool) : (s.dropAccesses p).control = s.control := rfl
@[simp] theorem dropAccesses_monitor (p : AreaAccess → Bool) : (s.dropAccesses p).monitor = s.monitor := rfl
@[simp] theorem dropAccesses_conduits (p : AreaAccess → Bool) : (s.dropAccesses p).conduits = s.conduits := rfl
@[simp] theorem dropAccesses_groups (p : AreaAccess → Bool) : (s.dropAccesses p).groups = s.groups := rfl
@[simp] theorem dropAccesses_store (p : AreaAccess → Bool) : (s.dropAccesses p).store = s.store := rfl
@[simp] theorem dropAccesses_port (p : AreaAccess → Bool) : (s.dropAccesses p).port = s.port := rfl
@[simp] theorem dropAccesses_engine (p : AreaAccess → Bool) : (s.dropAccesses p).engine = s.engine := rfl
@[simp] theorem dropAccesses_area_base (p : AreaAccess → Bool) : (s.dropAccesses p).area.base = s.area.base := rfl
@[simp] theorem dropAccesses_area_identity (p : AreaAccess → Bool) : (s.dropAccesses p).area.identity = s.area.identity := rfl
@[simp] theorem dropAccesses_area_groupCount (p : AreaAccess → Bool) : (s.dropAccesses p).area.groupCount = s.area.groupCount := rfl
@[simp] theorem dropAccesses_area_journalLength (p : AreaAccess → Bool) : (s.dropAccesses p).area.journalLength = s.area.journalLength := rfl
@[simp] theorem dropAccesses_area_planMark (p : AreaAccess → Bool) : (s.dropAccesses p).area.planMark = s.area.planMark := rfl
@[simp] theorem dropAccesses_area_sweepNumber (p : AreaAccess → Bool) : (s.dropAccesses p).area.sweepNumber = s.area.sweepNumber := rfl
@[simp] theorem dropAccesses_area_sweep (p : AreaAccess → Bool) : (s.dropAccesses p).area.sweep = s.area.sweep := rfl
@[simp] theorem dropAccesses_area_sweepTimer (p : AreaAccess → Bool) : (s.dropAccesses p).area.sweepTimer = s.area.sweepTimer := rfl
@[simp] theorem dropAccesses_area_dueMark (p : AreaAccess → Bool) : (s.dropAccesses p).area.dueMark = s.area.dueMark := rfl
@[simp] theorem dropAccesses_area_uplinkRows (p : AreaAccess → Bool) : (s.dropAccesses p).area.uplinkRows = s.area.uplinkRows := rfl
@[simp] theorem dropAccesses_area_groupRows (p : AreaAccess → Bool) : (s.dropAccesses p).area.groupRows = s.area.groupRows := rfl
@[simp] theorem dropAccesses_area_slotHolds (p : AreaAccess → Bool) : (s.dropAccesses p).area.slotHolds = s.area.slotHolds := rfl
@[simp] theorem dropAccesses_area_converged (p : AreaAccess → Bool) : (s.dropAccesses p).area.converged = s.area.converged := rfl
@[simp] theorem dropAccesses_area_taking (p : AreaAccess → Bool) : (s.dropAccesses p).area.taking = s.area.taking := rfl
@[simp] theorem dropAccesses_area_completions (p : AreaAccess → Bool) : (s.dropAccesses p).area.completions = s.area.completions := rfl
@[simp] theorem dropAccesses_area_position (p : AreaAccess → Bool) : (s.dropAccesses p).area.position = s.area.position := rfl
@[simp] theorem dropAccesses_area_blocked (p : AreaAccess → Bool) : (s.dropAccesses p).area.blocked = s.area.blocked := rfl
@[simp] theorem dropAccesses_area_holding (p : AreaAccess → Bool) : (s.dropAccesses p).area.holding = s.area.holding := rfl
@[simp] theorem dropAccesses_area_writer (p : AreaAccess → Bool) : (s.dropAccesses p).area.writer = s.area.writer := rfl
@[simp] theorem dropAccesses_area_stopTry (p : AreaAccess → Bool) : (s.dropAccesses p).area.stopTry = s.area.stopTry := rfl
@[simp] theorem dropAccesses_area_gapCount (p : AreaAccess → Bool) : (s.dropAccesses p).area.gapCount = s.area.gapCount := rfl
@[simp] theorem dropAccesses_area_firstDrop (p : AreaAccess → Bool) : (s.dropAccesses p).area.firstDrop = s.area.firstDrop := rfl
@[simp] theorem dropAccesses_area_lastDrop (p : AreaAccess → Bool) : (s.dropAccesses p).area.lastDrop = s.area.lastDrop := rfl
@[simp] theorem dropAccesses_area_newsMark (p : AreaAccess → Bool) : (s.dropAccesses p).area.newsMark = s.area.newsMark := rfl
@[simp] theorem dropAccesses_area_startCommand (p : AreaAccess → Bool) : (s.dropAccesses p).area.startCommand = s.area.startCommand := rfl
@[simp] theorem dropAccesses_area_adoptPage (p : AreaAccess → Bool) : (s.dropAccesses p).area.adoptPage = s.area.adoptPage := rfl
@[simp] theorem dropAccesses_openCount (p : AreaAccess → Bool) : (s.dropAccesses p).openCount = s.openCount := rfl
@[simp] theorem dropAccesses_pending (p : AreaAccess → Bool) : (s.dropAccesses p).pending = s.pending := rfl
@[simp] theorem dropAccesses_uplink (p : AreaAccess → Bool) (v : Fin 32) : (s.dropAccesses p).uplink v = s.uplink v := rfl
@[simp] theorem dropAccesses_alarm (p : AreaAccess → Bool) (cd : Fin 64) : (s.dropAccesses p).alarm cd = s.alarm cd := rfl
@[simp] theorem dropAccesses_group (p : AreaAccess → Bool) (gr : Nat) : (s.dropAccesses p).group gr = s.group gr := rfl

@[simp] theorem beginCompletion_control (c : Completion) : (s.beginCompletion c).control = s.control := rfl
@[simp] theorem beginCompletion_monitor (c : Completion) : (s.beginCompletion c).monitor = s.monitor := rfl
@[simp] theorem beginCompletion_conduits (c : Completion) : (s.beginCompletion c).conduits = s.conduits := rfl
@[simp] theorem beginCompletion_groups (c : Completion) : (s.beginCompletion c).groups = s.groups := rfl
@[simp] theorem beginCompletion_store (c : Completion) : (s.beginCompletion c).store = s.store := rfl
@[simp] theorem beginCompletion_port (c : Completion) : (s.beginCompletion c).port = s.port := rfl
@[simp] theorem beginCompletion_engine (c : Completion) : (s.beginCompletion c).engine = s.engine := rfl
@[simp] theorem beginCompletion_area_base (c : Completion) : (s.beginCompletion c).area.base = s.area.base := rfl
@[simp] theorem beginCompletion_area_identity (c : Completion) : (s.beginCompletion c).area.identity = s.area.identity := rfl
@[simp] theorem beginCompletion_area_groupCount (c : Completion) : (s.beginCompletion c).area.groupCount = s.area.groupCount := rfl
@[simp] theorem beginCompletion_area_journalLength (c : Completion) : (s.beginCompletion c).area.journalLength = s.area.journalLength := rfl
@[simp] theorem beginCompletion_area_planMark (c : Completion) : (s.beginCompletion c).area.planMark = s.area.planMark := rfl
@[simp] theorem beginCompletion_area_sweepNumber (c : Completion) : (s.beginCompletion c).area.sweepNumber = s.area.sweepNumber := rfl
@[simp] theorem beginCompletion_area_sweep (c : Completion) : (s.beginCompletion c).area.sweep = s.area.sweep := rfl
@[simp] theorem beginCompletion_area_sweepTimer (c : Completion) : (s.beginCompletion c).area.sweepTimer = s.area.sweepTimer := rfl
@[simp] theorem beginCompletion_area_dueMark (c : Completion) : (s.beginCompletion c).area.dueMark = s.area.dueMark := rfl
@[simp] theorem beginCompletion_area_uplinkRows (c : Completion) : (s.beginCompletion c).area.uplinkRows = s.area.uplinkRows := rfl
@[simp] theorem beginCompletion_area_groupRows (c : Completion) : (s.beginCompletion c).area.groupRows = s.area.groupRows := rfl
@[simp] theorem beginCompletion_area_slotHolds (c : Completion) : (s.beginCompletion c).area.slotHolds = s.area.slotHolds := rfl
@[simp] theorem beginCompletion_area_converged (c : Completion) : (s.beginCompletion c).area.converged = s.area.converged := rfl
@[simp] theorem beginCompletion_area_taking (c : Completion) : (s.beginCompletion c).area.taking = s.area.taking := rfl
@[simp] theorem beginCompletion_area_position (c : Completion) : (s.beginCompletion c).area.position = s.area.position := rfl
@[simp] theorem beginCompletion_area_blocked (c : Completion) : (s.beginCompletion c).area.blocked = s.area.blocked := rfl
@[simp] theorem beginCompletion_area_holding (c : Completion) : (s.beginCompletion c).area.holding = s.area.holding := rfl
@[simp] theorem beginCompletion_area_writer (c : Completion) : (s.beginCompletion c).area.writer = s.area.writer := rfl
@[simp] theorem beginCompletion_area_stopTry (c : Completion) : (s.beginCompletion c).area.stopTry = s.area.stopTry := rfl
@[simp] theorem beginCompletion_area_gapCount (c : Completion) : (s.beginCompletion c).area.gapCount = s.area.gapCount := rfl
@[simp] theorem beginCompletion_area_firstDrop (c : Completion) : (s.beginCompletion c).area.firstDrop = s.area.firstDrop := rfl
@[simp] theorem beginCompletion_area_lastDrop (c : Completion) : (s.beginCompletion c).area.lastDrop = s.area.lastDrop := rfl
@[simp] theorem beginCompletion_area_newsMark (c : Completion) : (s.beginCompletion c).area.newsMark = s.area.newsMark := rfl
@[simp] theorem beginCompletion_area_startCommand (c : Completion) : (s.beginCompletion c).area.startCommand = s.area.startCommand := rfl
@[simp] theorem beginCompletion_area_adoptPage (c : Completion) : (s.beginCompletion c).area.adoptPage = s.area.adoptPage := rfl
@[simp] theorem beginCompletion_area_flight (c : Completion) : (s.beginCompletion c).area.flight = s.area.flight := rfl
@[simp] theorem beginCompletion_area_waiting (c : Completion) : (s.beginCompletion c).area.waiting = s.area.waiting := rfl
@[simp] theorem beginCompletion_openCount (c : Completion) : (s.beginCompletion c).openCount = s.openCount := rfl
@[simp] theorem beginCompletion_pending (c : Completion) : (s.beginCompletion c).pending = s.pending := rfl
@[simp] theorem beginCompletion_uplink (c : Completion) (v : Fin 32) : (s.beginCompletion c).uplink v = s.uplink v := rfl
@[simp] theorem beginCompletion_alarm (c : Completion) (cd : Fin 64) : (s.beginCompletion c).alarm cd = s.alarm cd := rfl
@[simp] theorem beginCompletion_group (c : Completion) (gr : Nat) : (s.beginCompletion c).group gr = s.group gr := rfl

@[simp] theorem closeCompletion_control (k : Fin 16) : (s.closeCompletion k).control = s.control := rfl
@[simp] theorem closeCompletion_monitor (k : Fin 16) : (s.closeCompletion k).monitor = s.monitor := rfl
@[simp] theorem closeCompletion_conduits (k : Fin 16) : (s.closeCompletion k).conduits = s.conduits := rfl
@[simp] theorem closeCompletion_groups (k : Fin 16) : (s.closeCompletion k).groups = s.groups := rfl
@[simp] theorem closeCompletion_store (k : Fin 16) : (s.closeCompletion k).store = s.store := rfl
@[simp] theorem closeCompletion_port (k : Fin 16) : (s.closeCompletion k).port = s.port := rfl
@[simp] theorem closeCompletion_engine (k : Fin 16) : (s.closeCompletion k).engine = s.engine := rfl
@[simp] theorem closeCompletion_area_base (k : Fin 16) : (s.closeCompletion k).area.base = s.area.base := rfl
@[simp] theorem closeCompletion_area_identity (k : Fin 16) : (s.closeCompletion k).area.identity = s.area.identity := rfl
@[simp] theorem closeCompletion_area_groupCount (k : Fin 16) : (s.closeCompletion k).area.groupCount = s.area.groupCount := rfl
@[simp] theorem closeCompletion_area_journalLength (k : Fin 16) : (s.closeCompletion k).area.journalLength = s.area.journalLength := rfl
@[simp] theorem closeCompletion_area_planMark (k : Fin 16) : (s.closeCompletion k).area.planMark = s.area.planMark := rfl
@[simp] theorem closeCompletion_area_sweepNumber (k : Fin 16) : (s.closeCompletion k).area.sweepNumber = s.area.sweepNumber := rfl
@[simp] theorem closeCompletion_area_sweep (k : Fin 16) : (s.closeCompletion k).area.sweep = s.area.sweep := rfl
@[simp] theorem closeCompletion_area_sweepTimer (k : Fin 16) : (s.closeCompletion k).area.sweepTimer = s.area.sweepTimer := rfl
@[simp] theorem closeCompletion_area_dueMark (k : Fin 16) : (s.closeCompletion k).area.dueMark = s.area.dueMark := rfl
@[simp] theorem closeCompletion_area_uplinkRows (k : Fin 16) : (s.closeCompletion k).area.uplinkRows = s.area.uplinkRows := rfl
@[simp] theorem closeCompletion_area_groupRows (k : Fin 16) : (s.closeCompletion k).area.groupRows = s.area.groupRows := rfl
@[simp] theorem closeCompletion_area_converged (k : Fin 16) : (s.closeCompletion k).area.converged = s.area.converged := rfl
@[simp] theorem closeCompletion_area_taking (k : Fin 16) : (s.closeCompletion k).area.taking = s.area.taking := rfl
@[simp] theorem closeCompletion_area_position (k : Fin 16) : (s.closeCompletion k).area.position = s.area.position := rfl
@[simp] theorem closeCompletion_area_blocked (k : Fin 16) : (s.closeCompletion k).area.blocked = s.area.blocked := rfl
@[simp] theorem closeCompletion_area_holding (k : Fin 16) : (s.closeCompletion k).area.holding = s.area.holding := rfl
@[simp] theorem closeCompletion_area_writer (k : Fin 16) : (s.closeCompletion k).area.writer = s.area.writer := rfl
@[simp] theorem closeCompletion_area_stopTry (k : Fin 16) : (s.closeCompletion k).area.stopTry = s.area.stopTry := rfl
@[simp] theorem closeCompletion_area_gapCount (k : Fin 16) : (s.closeCompletion k).area.gapCount = s.area.gapCount := rfl
@[simp] theorem closeCompletion_area_firstDrop (k : Fin 16) : (s.closeCompletion k).area.firstDrop = s.area.firstDrop := rfl
@[simp] theorem closeCompletion_area_lastDrop (k : Fin 16) : (s.closeCompletion k).area.lastDrop = s.area.lastDrop := rfl
@[simp] theorem closeCompletion_area_newsMark (k : Fin 16) : (s.closeCompletion k).area.newsMark = s.area.newsMark := rfl
@[simp] theorem closeCompletion_area_startCommand (k : Fin 16) : (s.closeCompletion k).area.startCommand = s.area.startCommand := rfl
@[simp] theorem closeCompletion_area_adoptPage (k : Fin 16) : (s.closeCompletion k).area.adoptPage = s.area.adoptPage := rfl
@[simp] theorem closeCompletion_area_flight (k : Fin 16) : (s.closeCompletion k).area.flight = s.area.flight := rfl
@[simp] theorem closeCompletion_area_waiting (k : Fin 16) : (s.closeCompletion k).area.waiting = s.area.waiting := rfl
@[simp] theorem closeCompletion_area_requested (k : Fin 16) : (s.closeCompletion k).area.requested = s.area.requested := rfl
@[simp] theorem closeCompletion_openCount (k : Fin 16) : (s.closeCompletion k).openCount = s.openCount := rfl
@[simp] theorem closeCompletion_pending (k : Fin 16) : (s.closeCompletion k).pending = s.pending := rfl
@[simp] theorem closeCompletion_uplink (k : Fin 16) (v : Fin 32) : (s.closeCompletion k).uplink v = s.uplink v := rfl
@[simp] theorem closeCompletion_alarm (k : Fin 16) (cd : Fin 64) : (s.closeCompletion k).alarm cd = s.alarm cd := rfl
@[simp] theorem closeCompletion_group (k : Fin 16) (gr : Nat) : (s.closeCompletion k).group gr = s.group gr := rfl

@[simp] theorem setSweep_control (r : Option SweepRecord) : (s.setSweep r).control = s.control := rfl
@[simp] theorem setSweep_monitor (r : Option SweepRecord) : (s.setSweep r).monitor = s.monitor := rfl
@[simp] theorem setSweep_conduits (r : Option SweepRecord) : (s.setSweep r).conduits = s.conduits := rfl
@[simp] theorem setSweep_groups (r : Option SweepRecord) : (s.setSweep r).groups = s.groups := rfl
@[simp] theorem setSweep_store (r : Option SweepRecord) : (s.setSweep r).store = s.store := rfl
@[simp] theorem setSweep_port (r : Option SweepRecord) : (s.setSweep r).port = s.port := rfl
@[simp] theorem setSweep_engine (r : Option SweepRecord) : (s.setSweep r).engine = s.engine := rfl
@[simp] theorem setSweep_area_base (r : Option SweepRecord) : (s.setSweep r).area.base = s.area.base := rfl
@[simp] theorem setSweep_area_identity (r : Option SweepRecord) : (s.setSweep r).area.identity = s.area.identity := rfl
@[simp] theorem setSweep_area_groupCount (r : Option SweepRecord) : (s.setSweep r).area.groupCount = s.area.groupCount := rfl
@[simp] theorem setSweep_area_journalLength (r : Option SweepRecord) : (s.setSweep r).area.journalLength = s.area.journalLength := rfl
@[simp] theorem setSweep_area_planMark (r : Option SweepRecord) : (s.setSweep r).area.planMark = s.area.planMark := rfl
@[simp] theorem setSweep_area_sweepNumber (r : Option SweepRecord) : (s.setSweep r).area.sweepNumber = s.area.sweepNumber := rfl
@[simp] theorem setSweep_area_sweepTimer (r : Option SweepRecord) : (s.setSweep r).area.sweepTimer = s.area.sweepTimer := rfl
@[simp] theorem setSweep_area_dueMark (r : Option SweepRecord) : (s.setSweep r).area.dueMark = s.area.dueMark := rfl
@[simp] theorem setSweep_area_uplinkRows (r : Option SweepRecord) : (s.setSweep r).area.uplinkRows = s.area.uplinkRows := rfl
@[simp] theorem setSweep_area_groupRows (r : Option SweepRecord) : (s.setSweep r).area.groupRows = s.area.groupRows := rfl
@[simp] theorem setSweep_area_slotHolds (r : Option SweepRecord) : (s.setSweep r).area.slotHolds = s.area.slotHolds := rfl
@[simp] theorem setSweep_area_converged (r : Option SweepRecord) : (s.setSweep r).area.converged = s.area.converged := rfl
@[simp] theorem setSweep_area_taking (r : Option SweepRecord) : (s.setSweep r).area.taking = s.area.taking := rfl
@[simp] theorem setSweep_area_completions (r : Option SweepRecord) : (s.setSweep r).area.completions = s.area.completions := rfl
@[simp] theorem setSweep_area_position (r : Option SweepRecord) : (s.setSweep r).area.position = s.area.position := rfl
@[simp] theorem setSweep_area_blocked (r : Option SweepRecord) : (s.setSweep r).area.blocked = s.area.blocked := rfl
@[simp] theorem setSweep_area_holding (r : Option SweepRecord) : (s.setSweep r).area.holding = s.area.holding := rfl
@[simp] theorem setSweep_area_writer (r : Option SweepRecord) : (s.setSweep r).area.writer = s.area.writer := rfl
@[simp] theorem setSweep_area_stopTry (r : Option SweepRecord) : (s.setSweep r).area.stopTry = s.area.stopTry := rfl
@[simp] theorem setSweep_area_gapCount (r : Option SweepRecord) : (s.setSweep r).area.gapCount = s.area.gapCount := rfl
@[simp] theorem setSweep_area_firstDrop (r : Option SweepRecord) : (s.setSweep r).area.firstDrop = s.area.firstDrop := rfl
@[simp] theorem setSweep_area_lastDrop (r : Option SweepRecord) : (s.setSweep r).area.lastDrop = s.area.lastDrop := rfl
@[simp] theorem setSweep_area_newsMark (r : Option SweepRecord) : (s.setSweep r).area.newsMark = s.area.newsMark := rfl
@[simp] theorem setSweep_area_startCommand (r : Option SweepRecord) : (s.setSweep r).area.startCommand = s.area.startCommand := rfl
@[simp] theorem setSweep_area_adoptPage (r : Option SweepRecord) : (s.setSweep r).area.adoptPage = s.area.adoptPage := rfl
@[simp] theorem setSweep_area_flight (r : Option SweepRecord) : (s.setSweep r).area.flight = s.area.flight := rfl
@[simp] theorem setSweep_area_waiting (r : Option SweepRecord) : (s.setSweep r).area.waiting = s.area.waiting := rfl
@[simp] theorem setSweep_area_requested (r : Option SweepRecord) : (s.setSweep r).area.requested = s.area.requested := rfl
@[simp] theorem setSweep_openCount (r : Option SweepRecord) : (s.setSweep r).openCount = s.openCount := rfl
@[simp] theorem setSweep_pending (r : Option SweepRecord) : (s.setSweep r).pending = s.pending := rfl
@[simp] theorem setSweep_uplink (r : Option SweepRecord) (v : Fin 32) : (s.setSweep r).uplink v = s.uplink v := rfl
@[simp] theorem setSweep_alarm (r : Option SweepRecord) (cd : Fin 64) : (s.setSweep r).alarm cd = s.alarm cd := rfl
@[simp] theorem setSweep_group (r : Option SweepRecord) (gr : Nat) : (s.setSweep r).group gr = s.group gr := rfl

@[simp] theorem modifySweep_control (f : SweepRecord → SweepRecord) : (s.modifySweep f).control = s.control := rfl
@[simp] theorem modifySweep_monitor (f : SweepRecord → SweepRecord) : (s.modifySweep f).monitor = s.monitor := rfl
@[simp] theorem modifySweep_conduits (f : SweepRecord → SweepRecord) : (s.modifySweep f).conduits = s.conduits := rfl
@[simp] theorem modifySweep_groups (f : SweepRecord → SweepRecord) : (s.modifySweep f).groups = s.groups := rfl
@[simp] theorem modifySweep_store (f : SweepRecord → SweepRecord) : (s.modifySweep f).store = s.store := rfl
@[simp] theorem modifySweep_port (f : SweepRecord → SweepRecord) : (s.modifySweep f).port = s.port := rfl
@[simp] theorem modifySweep_engine (f : SweepRecord → SweepRecord) : (s.modifySweep f).engine = s.engine := rfl
@[simp] theorem modifySweep_area_base (f : SweepRecord → SweepRecord) : (s.modifySweep f).area.base = s.area.base := rfl
@[simp] theorem modifySweep_area_identity (f : SweepRecord → SweepRecord) : (s.modifySweep f).area.identity = s.area.identity := rfl
@[simp] theorem modifySweep_area_groupCount (f : SweepRecord → SweepRecord) : (s.modifySweep f).area.groupCount = s.area.groupCount := rfl
@[simp] theorem modifySweep_area_journalLength (f : SweepRecord → SweepRecord) : (s.modifySweep f).area.journalLength = s.area.journalLength := rfl
@[simp] theorem modifySweep_area_planMark (f : SweepRecord → SweepRecord) : (s.modifySweep f).area.planMark = s.area.planMark := rfl
@[simp] theorem modifySweep_area_sweepNumber (f : SweepRecord → SweepRecord) : (s.modifySweep f).area.sweepNumber = s.area.sweepNumber := rfl
@[simp] theorem modifySweep_area_sweepTimer (f : SweepRecord → SweepRecord) : (s.modifySweep f).area.sweepTimer = s.area.sweepTimer := rfl
@[simp] theorem modifySweep_area_dueMark (f : SweepRecord → SweepRecord) : (s.modifySweep f).area.dueMark = s.area.dueMark := rfl
@[simp] theorem modifySweep_area_uplinkRows (f : SweepRecord → SweepRecord) : (s.modifySweep f).area.uplinkRows = s.area.uplinkRows := rfl
@[simp] theorem modifySweep_area_groupRows (f : SweepRecord → SweepRecord) : (s.modifySweep f).area.groupRows = s.area.groupRows := rfl
@[simp] theorem modifySweep_area_slotHolds (f : SweepRecord → SweepRecord) : (s.modifySweep f).area.slotHolds = s.area.slotHolds := rfl
@[simp] theorem modifySweep_area_converged (f : SweepRecord → SweepRecord) : (s.modifySweep f).area.converged = s.area.converged := rfl
@[simp] theorem modifySweep_area_taking (f : SweepRecord → SweepRecord) : (s.modifySweep f).area.taking = s.area.taking := rfl
@[simp] theorem modifySweep_area_completions (f : SweepRecord → SweepRecord) : (s.modifySweep f).area.completions = s.area.completions := rfl
@[simp] theorem modifySweep_area_position (f : SweepRecord → SweepRecord) : (s.modifySweep f).area.position = s.area.position := rfl
@[simp] theorem modifySweep_area_blocked (f : SweepRecord → SweepRecord) : (s.modifySweep f).area.blocked = s.area.blocked := rfl
@[simp] theorem modifySweep_area_holding (f : SweepRecord → SweepRecord) : (s.modifySweep f).area.holding = s.area.holding := rfl
@[simp] theorem modifySweep_area_writer (f : SweepRecord → SweepRecord) : (s.modifySweep f).area.writer = s.area.writer := rfl
@[simp] theorem modifySweep_area_stopTry (f : SweepRecord → SweepRecord) : (s.modifySweep f).area.stopTry = s.area.stopTry := rfl
@[simp] theorem modifySweep_area_gapCount (f : SweepRecord → SweepRecord) : (s.modifySweep f).area.gapCount = s.area.gapCount := rfl
@[simp] theorem modifySweep_area_firstDrop (f : SweepRecord → SweepRecord) : (s.modifySweep f).area.firstDrop = s.area.firstDrop := rfl
@[simp] theorem modifySweep_area_lastDrop (f : SweepRecord → SweepRecord) : (s.modifySweep f).area.lastDrop = s.area.lastDrop := rfl
@[simp] theorem modifySweep_area_newsMark (f : SweepRecord → SweepRecord) : (s.modifySweep f).area.newsMark = s.area.newsMark := rfl
@[simp] theorem modifySweep_area_startCommand (f : SweepRecord → SweepRecord) : (s.modifySweep f).area.startCommand = s.area.startCommand := rfl
@[simp] theorem modifySweep_area_adoptPage (f : SweepRecord → SweepRecord) : (s.modifySweep f).area.adoptPage = s.area.adoptPage := rfl
@[simp] theorem modifySweep_area_flight (f : SweepRecord → SweepRecord) : (s.modifySweep f).area.flight = s.area.flight := rfl
@[simp] theorem modifySweep_area_waiting (f : SweepRecord → SweepRecord) : (s.modifySweep f).area.waiting = s.area.waiting := rfl
@[simp] theorem modifySweep_area_requested (f : SweepRecord → SweepRecord) : (s.modifySweep f).area.requested = s.area.requested := rfl
@[simp] theorem modifySweep_openCount (f : SweepRecord → SweepRecord) : (s.modifySweep f).openCount = s.openCount := rfl
@[simp] theorem modifySweep_pending (f : SweepRecord → SweepRecord) : (s.modifySweep f).pending = s.pending := rfl
@[simp] theorem modifySweep_uplink (f : SweepRecord → SweepRecord) (v : Fin 32) : (s.modifySweep f).uplink v = s.uplink v := rfl
@[simp] theorem modifySweep_alarm (f : SweepRecord → SweepRecord) (cd : Fin 64) : (s.modifySweep f).alarm cd = s.alarm cd := rfl
@[simp] theorem modifySweep_group (f : SweepRecord → SweepRecord) (gr : Nat) : (s.modifySweep f).group gr = s.group gr := rfl

@[simp] theorem sweepTo_control (p : SweepPhase) (a : AreaAccess) : (s.sweepTo p a).control = s.control := rfl
@[simp] theorem sweepTo_monitor (p : SweepPhase) (a : AreaAccess) : (s.sweepTo p a).monitor = s.monitor := rfl
@[simp] theorem sweepTo_conduits (p : SweepPhase) (a : AreaAccess) : (s.sweepTo p a).conduits = s.conduits := rfl
@[simp] theorem sweepTo_groups (p : SweepPhase) (a : AreaAccess) : (s.sweepTo p a).groups = s.groups := rfl
@[simp] theorem sweepTo_store (p : SweepPhase) (a : AreaAccess) : (s.sweepTo p a).store = s.store := rfl
@[simp] theorem sweepTo_port (p : SweepPhase) (a : AreaAccess) : (s.sweepTo p a).port = s.port := rfl
@[simp] theorem sweepTo_engine (p : SweepPhase) (a : AreaAccess) : (s.sweepTo p a).engine = s.engine := rfl
@[simp] theorem sweepTo_area_base (p : SweepPhase) (a : AreaAccess) : (s.sweepTo p a).area.base = s.area.base := rfl
@[simp] theorem sweepTo_area_identity (p : SweepPhase) (a : AreaAccess) : (s.sweepTo p a).area.identity = s.area.identity := rfl
@[simp] theorem sweepTo_area_groupCount (p : SweepPhase) (a : AreaAccess) : (s.sweepTo p a).area.groupCount = s.area.groupCount := rfl
@[simp] theorem sweepTo_area_journalLength (p : SweepPhase) (a : AreaAccess) : (s.sweepTo p a).area.journalLength = s.area.journalLength := rfl
@[simp] theorem sweepTo_area_planMark (p : SweepPhase) (a : AreaAccess) : (s.sweepTo p a).area.planMark = s.area.planMark := rfl
@[simp] theorem sweepTo_area_sweepNumber (p : SweepPhase) (a : AreaAccess) : (s.sweepTo p a).area.sweepNumber = s.area.sweepNumber := rfl
@[simp] theorem sweepTo_area_sweepTimer (p : SweepPhase) (a : AreaAccess) : (s.sweepTo p a).area.sweepTimer = s.area.sweepTimer := rfl
@[simp] theorem sweepTo_area_dueMark (p : SweepPhase) (a : AreaAccess) : (s.sweepTo p a).area.dueMark = s.area.dueMark := rfl
@[simp] theorem sweepTo_area_uplinkRows (p : SweepPhase) (a : AreaAccess) : (s.sweepTo p a).area.uplinkRows = s.area.uplinkRows := rfl
@[simp] theorem sweepTo_area_groupRows (p : SweepPhase) (a : AreaAccess) : (s.sweepTo p a).area.groupRows = s.area.groupRows := rfl
@[simp] theorem sweepTo_area_slotHolds (p : SweepPhase) (a : AreaAccess) : (s.sweepTo p a).area.slotHolds = s.area.slotHolds := rfl
@[simp] theorem sweepTo_area_converged (p : SweepPhase) (a : AreaAccess) : (s.sweepTo p a).area.converged = s.area.converged := rfl
@[simp] theorem sweepTo_area_taking (p : SweepPhase) (a : AreaAccess) : (s.sweepTo p a).area.taking = s.area.taking := rfl
@[simp] theorem sweepTo_area_completions (p : SweepPhase) (a : AreaAccess) : (s.sweepTo p a).area.completions = s.area.completions := rfl
@[simp] theorem sweepTo_area_position (p : SweepPhase) (a : AreaAccess) : (s.sweepTo p a).area.position = s.area.position := rfl
@[simp] theorem sweepTo_area_blocked (p : SweepPhase) (a : AreaAccess) : (s.sweepTo p a).area.blocked = s.area.blocked := rfl
@[simp] theorem sweepTo_area_holding (p : SweepPhase) (a : AreaAccess) : (s.sweepTo p a).area.holding = s.area.holding := rfl
@[simp] theorem sweepTo_area_writer (p : SweepPhase) (a : AreaAccess) : (s.sweepTo p a).area.writer = s.area.writer := rfl
@[simp] theorem sweepTo_area_stopTry (p : SweepPhase) (a : AreaAccess) : (s.sweepTo p a).area.stopTry = s.area.stopTry := rfl
@[simp] theorem sweepTo_area_gapCount (p : SweepPhase) (a : AreaAccess) : (s.sweepTo p a).area.gapCount = s.area.gapCount := rfl
@[simp] theorem sweepTo_area_firstDrop (p : SweepPhase) (a : AreaAccess) : (s.sweepTo p a).area.firstDrop = s.area.firstDrop := rfl
@[simp] theorem sweepTo_area_lastDrop (p : SweepPhase) (a : AreaAccess) : (s.sweepTo p a).area.lastDrop = s.area.lastDrop := rfl
@[simp] theorem sweepTo_area_newsMark (p : SweepPhase) (a : AreaAccess) : (s.sweepTo p a).area.newsMark = s.area.newsMark := rfl
@[simp] theorem sweepTo_area_startCommand (p : SweepPhase) (a : AreaAccess) : (s.sweepTo p a).area.startCommand = s.area.startCommand := rfl
@[simp] theorem sweepTo_area_adoptPage (p : SweepPhase) (a : AreaAccess) : (s.sweepTo p a).area.adoptPage = s.area.adoptPage := rfl
@[simp] theorem sweepTo_area_flight (p : SweepPhase) (a : AreaAccess) : (s.sweepTo p a).area.flight = s.area.flight := rfl
@[simp] theorem sweepTo_area_waiting (p : SweepPhase) (a : AreaAccess) : (s.sweepTo p a).area.waiting = s.area.waiting := rfl
@[simp] theorem sweepTo_openCount (p : SweepPhase) (a : AreaAccess) : (s.sweepTo p a).openCount = s.openCount := rfl
@[simp] theorem sweepTo_pending (p : SweepPhase) (a : AreaAccess) : (s.sweepTo p a).pending = s.pending := rfl
@[simp] theorem sweepTo_uplink (p : SweepPhase) (a : AreaAccess) (v : Fin 32) : (s.sweepTo p a).uplink v = s.uplink v := rfl
@[simp] theorem sweepTo_alarm (p : SweepPhase) (a : AreaAccess) (cd : Fin 64) : (s.sweepTo p a).alarm cd = s.alarm cd := rfl
@[simp] theorem sweepTo_group (p : SweepPhase) (a : AreaAccess) (gr : Nat) : (s.sweepTo p a).group gr = s.group gr := rfl

@[simp] theorem startSweep_control : (s.startSweep).control = s.control := rfl
@[simp] theorem startSweep_monitor : (s.startSweep).monitor = s.monitor := rfl
@[simp] theorem startSweep_conduits : (s.startSweep).conduits = s.conduits := rfl
@[simp] theorem startSweep_groups : (s.startSweep).groups = s.groups := rfl
@[simp] theorem startSweep_store : (s.startSweep).store = s.store := rfl
@[simp] theorem startSweep_port : (s.startSweep).port = s.port := rfl
@[simp] theorem startSweep_engine : (s.startSweep).engine = s.engine := rfl
@[simp] theorem startSweep_area_base : (s.startSweep).area.base = s.area.base := rfl
@[simp] theorem startSweep_area_identity : (s.startSweep).area.identity = s.area.identity := rfl
@[simp] theorem startSweep_area_groupCount : (s.startSweep).area.groupCount = s.area.groupCount := rfl
@[simp] theorem startSweep_area_journalLength : (s.startSweep).area.journalLength = s.area.journalLength := rfl
@[simp] theorem startSweep_area_planMark : (s.startSweep).area.planMark = s.area.planMark := rfl
@[simp] theorem startSweep_area_sweepTimer : (s.startSweep).area.sweepTimer = s.area.sweepTimer := rfl
@[simp] theorem startSweep_area_dueMark : (s.startSweep).area.dueMark = s.area.dueMark := rfl
@[simp] theorem startSweep_area_uplinkRows : (s.startSweep).area.uplinkRows = s.area.uplinkRows := rfl
@[simp] theorem startSweep_area_groupRows : (s.startSweep).area.groupRows = s.area.groupRows := rfl
@[simp] theorem startSweep_area_slotHolds : (s.startSweep).area.slotHolds = s.area.slotHolds := rfl
@[simp] theorem startSweep_area_converged : (s.startSweep).area.converged = s.area.converged := rfl
@[simp] theorem startSweep_area_taking : (s.startSweep).area.taking = s.area.taking := rfl
@[simp] theorem startSweep_area_completions : (s.startSweep).area.completions = s.area.completions := rfl
@[simp] theorem startSweep_area_position : (s.startSweep).area.position = s.area.position := rfl
@[simp] theorem startSweep_area_blocked : (s.startSweep).area.blocked = s.area.blocked := rfl
@[simp] theorem startSweep_area_holding : (s.startSweep).area.holding = s.area.holding := rfl
@[simp] theorem startSweep_area_writer : (s.startSweep).area.writer = s.area.writer := rfl
@[simp] theorem startSweep_area_stopTry : (s.startSweep).area.stopTry = s.area.stopTry := rfl
@[simp] theorem startSweep_area_gapCount : (s.startSweep).area.gapCount = s.area.gapCount := rfl
@[simp] theorem startSweep_area_firstDrop : (s.startSweep).area.firstDrop = s.area.firstDrop := rfl
@[simp] theorem startSweep_area_lastDrop : (s.startSweep).area.lastDrop = s.area.lastDrop := rfl
@[simp] theorem startSweep_area_newsMark : (s.startSweep).area.newsMark = s.area.newsMark := rfl
@[simp] theorem startSweep_area_startCommand : (s.startSweep).area.startCommand = s.area.startCommand := rfl
@[simp] theorem startSweep_area_adoptPage : (s.startSweep).area.adoptPage = s.area.adoptPage := rfl
@[simp] theorem startSweep_area_flight : (s.startSweep).area.flight = s.area.flight := rfl
@[simp] theorem startSweep_area_waiting : (s.startSweep).area.waiting = s.area.waiting := rfl
@[simp] theorem startSweep_openCount : (s.startSweep).openCount = s.openCount := rfl
@[simp] theorem startSweep_pending : (s.startSweep).pending = s.pending := rfl
@[simp] theorem startSweep_uplink (v : Fin 32) : (s.startSweep).uplink v = s.uplink v := rfl
@[simp] theorem startSweep_alarm (cd : Fin 64) : (s.startSweep).alarm cd = s.alarm cd := rfl
@[simp] theorem startSweep_group (gr : Nat) : (s.startSweep).group gr = s.group gr := rfl

@[simp] theorem startSweepTimer_control : (s.startSweepTimer).control = s.control := rfl
@[simp] theorem startSweepTimer_monitor : (s.startSweepTimer).monitor = s.monitor := rfl
@[simp] theorem startSweepTimer_conduits : (s.startSweepTimer).conduits = s.conduits := rfl
@[simp] theorem startSweepTimer_groups : (s.startSweepTimer).groups = s.groups := rfl
@[simp] theorem startSweepTimer_store : (s.startSweepTimer).store = s.store := rfl
@[simp] theorem startSweepTimer_port : (s.startSweepTimer).port = s.port := rfl
@[simp] theorem startSweepTimer_engine : (s.startSweepTimer).engine = s.engine := rfl
@[simp] theorem startSweepTimer_area_base : (s.startSweepTimer).area.base = s.area.base := rfl
@[simp] theorem startSweepTimer_area_identity : (s.startSweepTimer).area.identity = s.area.identity := rfl
@[simp] theorem startSweepTimer_area_groupCount : (s.startSweepTimer).area.groupCount = s.area.groupCount := rfl
@[simp] theorem startSweepTimer_area_journalLength : (s.startSweepTimer).area.journalLength = s.area.journalLength := rfl
@[simp] theorem startSweepTimer_area_planMark : (s.startSweepTimer).area.planMark = s.area.planMark := rfl
@[simp] theorem startSweepTimer_area_sweepNumber : (s.startSweepTimer).area.sweepNumber = s.area.sweepNumber := rfl
@[simp] theorem startSweepTimer_area_sweep : (s.startSweepTimer).area.sweep = s.area.sweep := rfl
@[simp] theorem startSweepTimer_area_dueMark : (s.startSweepTimer).area.dueMark = s.area.dueMark := rfl
@[simp] theorem startSweepTimer_area_uplinkRows : (s.startSweepTimer).area.uplinkRows = s.area.uplinkRows := rfl
@[simp] theorem startSweepTimer_area_groupRows : (s.startSweepTimer).area.groupRows = s.area.groupRows := rfl
@[simp] theorem startSweepTimer_area_slotHolds : (s.startSweepTimer).area.slotHolds = s.area.slotHolds := rfl
@[simp] theorem startSweepTimer_area_converged : (s.startSweepTimer).area.converged = s.area.converged := rfl
@[simp] theorem startSweepTimer_area_taking : (s.startSweepTimer).area.taking = s.area.taking := rfl
@[simp] theorem startSweepTimer_area_completions : (s.startSweepTimer).area.completions = s.area.completions := rfl
@[simp] theorem startSweepTimer_area_position : (s.startSweepTimer).area.position = s.area.position := rfl
@[simp] theorem startSweepTimer_area_blocked : (s.startSweepTimer).area.blocked = s.area.blocked := rfl
@[simp] theorem startSweepTimer_area_holding : (s.startSweepTimer).area.holding = s.area.holding := rfl
@[simp] theorem startSweepTimer_area_writer : (s.startSweepTimer).area.writer = s.area.writer := rfl
@[simp] theorem startSweepTimer_area_stopTry : (s.startSweepTimer).area.stopTry = s.area.stopTry := rfl
@[simp] theorem startSweepTimer_area_gapCount : (s.startSweepTimer).area.gapCount = s.area.gapCount := rfl
@[simp] theorem startSweepTimer_area_firstDrop : (s.startSweepTimer).area.firstDrop = s.area.firstDrop := rfl
@[simp] theorem startSweepTimer_area_lastDrop : (s.startSweepTimer).area.lastDrop = s.area.lastDrop := rfl
@[simp] theorem startSweepTimer_area_newsMark : (s.startSweepTimer).area.newsMark = s.area.newsMark := rfl
@[simp] theorem startSweepTimer_area_startCommand : (s.startSweepTimer).area.startCommand = s.area.startCommand := rfl
@[simp] theorem startSweepTimer_area_adoptPage : (s.startSweepTimer).area.adoptPage = s.area.adoptPage := rfl
@[simp] theorem startSweepTimer_area_flight : (s.startSweepTimer).area.flight = s.area.flight := rfl
@[simp] theorem startSweepTimer_area_waiting : (s.startSweepTimer).area.waiting = s.area.waiting := rfl
@[simp] theorem startSweepTimer_area_requested : (s.startSweepTimer).area.requested = s.area.requested := rfl
@[simp] theorem startSweepTimer_openCount : (s.startSweepTimer).openCount = s.openCount := rfl
@[simp] theorem startSweepTimer_pending : (s.startSweepTimer).pending = s.pending := rfl
@[simp] theorem startSweepTimer_uplink (v : Fin 32) : (s.startSweepTimer).uplink v = s.uplink v := rfl
@[simp] theorem startSweepTimer_alarm (cd : Fin 64) : (s.startSweepTimer).alarm cd = s.alarm cd := rfl
@[simp] theorem startSweepTimer_group (gr : Nat) : (s.startSweepTimer).group gr = s.group gr := rfl

@[simp] theorem stopSweeps_control : (s.stopSweeps).control = s.control := rfl
@[simp] theorem stopSweeps_monitor : (s.stopSweeps).monitor = s.monitor := rfl
@[simp] theorem stopSweeps_conduits : (s.stopSweeps).conduits = s.conduits := rfl
@[simp] theorem stopSweeps_groups : (s.stopSweeps).groups = s.groups := rfl
@[simp] theorem stopSweeps_store : (s.stopSweeps).store = s.store := rfl
@[simp] theorem stopSweeps_port : (s.stopSweeps).port = s.port := rfl
@[simp] theorem stopSweeps_engine : (s.stopSweeps).engine = s.engine := rfl
@[simp] theorem stopSweeps_area_base : (s.stopSweeps).area.base = s.area.base := rfl
@[simp] theorem stopSweeps_area_identity : (s.stopSweeps).area.identity = s.area.identity := rfl
@[simp] theorem stopSweeps_area_groupCount : (s.stopSweeps).area.groupCount = s.area.groupCount := rfl
@[simp] theorem stopSweeps_area_journalLength : (s.stopSweeps).area.journalLength = s.area.journalLength := rfl
@[simp] theorem stopSweeps_area_planMark : (s.stopSweeps).area.planMark = s.area.planMark := rfl
@[simp] theorem stopSweeps_area_sweepNumber : (s.stopSweeps).area.sweepNumber = s.area.sweepNumber := rfl
@[simp] theorem stopSweeps_area_sweep : (s.stopSweeps).area.sweep = s.area.sweep := rfl
@[simp] theorem stopSweeps_area_uplinkRows : (s.stopSweeps).area.uplinkRows = s.area.uplinkRows := rfl
@[simp] theorem stopSweeps_area_groupRows : (s.stopSweeps).area.groupRows = s.area.groupRows := rfl
@[simp] theorem stopSweeps_area_slotHolds : (s.stopSweeps).area.slotHolds = s.area.slotHolds := rfl
@[simp] theorem stopSweeps_area_converged : (s.stopSweeps).area.converged = s.area.converged := rfl
@[simp] theorem stopSweeps_area_taking : (s.stopSweeps).area.taking = s.area.taking := rfl
@[simp] theorem stopSweeps_area_completions : (s.stopSweeps).area.completions = s.area.completions := rfl
@[simp] theorem stopSweeps_area_position : (s.stopSweeps).area.position = s.area.position := rfl
@[simp] theorem stopSweeps_area_blocked : (s.stopSweeps).area.blocked = s.area.blocked := rfl
@[simp] theorem stopSweeps_area_holding : (s.stopSweeps).area.holding = s.area.holding := rfl
@[simp] theorem stopSweeps_area_writer : (s.stopSweeps).area.writer = s.area.writer := rfl
@[simp] theorem stopSweeps_area_stopTry : (s.stopSweeps).area.stopTry = s.area.stopTry := rfl
@[simp] theorem stopSweeps_area_gapCount : (s.stopSweeps).area.gapCount = s.area.gapCount := rfl
@[simp] theorem stopSweeps_area_firstDrop : (s.stopSweeps).area.firstDrop = s.area.firstDrop := rfl
@[simp] theorem stopSweeps_area_lastDrop : (s.stopSweeps).area.lastDrop = s.area.lastDrop := rfl
@[simp] theorem stopSweeps_area_newsMark : (s.stopSweeps).area.newsMark = s.area.newsMark := rfl
@[simp] theorem stopSweeps_area_startCommand : (s.stopSweeps).area.startCommand = s.area.startCommand := rfl
@[simp] theorem stopSweeps_area_adoptPage : (s.stopSweeps).area.adoptPage = s.area.adoptPage := rfl
@[simp] theorem stopSweeps_area_flight : (s.stopSweeps).area.flight = s.area.flight := rfl
@[simp] theorem stopSweeps_area_waiting : (s.stopSweeps).area.waiting = s.area.waiting := rfl
@[simp] theorem stopSweeps_area_requested : (s.stopSweeps).area.requested = s.area.requested := rfl
@[simp] theorem stopSweeps_openCount : (s.stopSweeps).openCount = s.openCount := rfl
@[simp] theorem stopSweeps_pending : (s.stopSweeps).pending = s.pending := rfl
@[simp] theorem stopSweeps_uplink (v : Fin 32) : (s.stopSweeps).uplink v = s.uplink v := rfl
@[simp] theorem stopSweeps_alarm (cd : Fin 64) : (s.stopSweeps).alarm cd = s.alarm cd := rfl
@[simp] theorem stopSweeps_group (gr : Nat) : (s.stopSweeps).group gr = s.group gr := rfl

@[simp] theorem advanceJournal_control : (s.advanceJournal).control = s.control := rfl
@[simp] theorem advanceJournal_monitor : (s.advanceJournal).monitor = s.monitor := rfl
@[simp] theorem advanceJournal_conduits : (s.advanceJournal).conduits = s.conduits := rfl
@[simp] theorem advanceJournal_groups : (s.advanceJournal).groups = s.groups := rfl
@[simp] theorem advanceJournal_store : (s.advanceJournal).store = s.store := rfl
@[simp] theorem advanceJournal_port : (s.advanceJournal).port = s.port := rfl
@[simp] theorem advanceJournal_engine : (s.advanceJournal).engine = s.engine := rfl
@[simp] theorem advanceJournal_area_base : (s.advanceJournal).area.base = s.area.base := rfl
@[simp] theorem advanceJournal_area_identity : (s.advanceJournal).area.identity = s.area.identity := rfl
@[simp] theorem advanceJournal_area_groupCount : (s.advanceJournal).area.groupCount = s.area.groupCount := rfl
@[simp] theorem advanceJournal_area_journalLength : (s.advanceJournal).area.journalLength = s.area.journalLength := rfl
@[simp] theorem advanceJournal_area_planMark : (s.advanceJournal).area.planMark = s.area.planMark := rfl
@[simp] theorem advanceJournal_area_sweepNumber : (s.advanceJournal).area.sweepNumber = s.area.sweepNumber := rfl
@[simp] theorem advanceJournal_area_sweep : (s.advanceJournal).area.sweep = s.area.sweep := rfl
@[simp] theorem advanceJournal_area_sweepTimer : (s.advanceJournal).area.sweepTimer = s.area.sweepTimer := rfl
@[simp] theorem advanceJournal_area_dueMark : (s.advanceJournal).area.dueMark = s.area.dueMark := rfl
@[simp] theorem advanceJournal_area_uplinkRows : (s.advanceJournal).area.uplinkRows = s.area.uplinkRows := rfl
@[simp] theorem advanceJournal_area_groupRows : (s.advanceJournal).area.groupRows = s.area.groupRows := rfl
@[simp] theorem advanceJournal_area_slotHolds : (s.advanceJournal).area.slotHolds = s.area.slotHolds := rfl
@[simp] theorem advanceJournal_area_converged : (s.advanceJournal).area.converged = s.area.converged := rfl
@[simp] theorem advanceJournal_area_taking : (s.advanceJournal).area.taking = s.area.taking := rfl
@[simp] theorem advanceJournal_area_completions : (s.advanceJournal).area.completions = s.area.completions := rfl
@[simp] theorem advanceJournal_area_blocked : (s.advanceJournal).area.blocked = s.area.blocked := rfl
@[simp] theorem advanceJournal_area_holding : (s.advanceJournal).area.holding = s.area.holding := rfl
@[simp] theorem advanceJournal_area_stopTry : (s.advanceJournal).area.stopTry = s.area.stopTry := rfl
@[simp] theorem advanceJournal_area_gapCount : (s.advanceJournal).area.gapCount = s.area.gapCount := rfl
@[simp] theorem advanceJournal_area_firstDrop : (s.advanceJournal).area.firstDrop = s.area.firstDrop := rfl
@[simp] theorem advanceJournal_area_lastDrop : (s.advanceJournal).area.lastDrop = s.area.lastDrop := rfl
@[simp] theorem advanceJournal_area_startCommand : (s.advanceJournal).area.startCommand = s.area.startCommand := rfl
@[simp] theorem advanceJournal_area_adoptPage : (s.advanceJournal).area.adoptPage = s.area.adoptPage := rfl
@[simp] theorem advanceJournal_area_flight : (s.advanceJournal).area.flight = s.area.flight := rfl
@[simp] theorem advanceJournal_area_waiting : (s.advanceJournal).area.waiting = s.area.waiting := rfl
@[simp] theorem advanceJournal_area_requested : (s.advanceJournal).area.requested = s.area.requested := rfl
@[simp] theorem advanceJournal_openCount : (s.advanceJournal).openCount = s.openCount := rfl
@[simp] theorem advanceJournal_pending : (s.advanceJournal).pending = s.pending := rfl
@[simp] theorem advanceJournal_uplink (v : Fin 32) : (s.advanceJournal).uplink v = s.uplink v := rfl
@[simp] theorem advanceJournal_alarm (cd : Fin 64) : (s.advanceJournal).alarm cd = s.alarm cd := rfl
@[simp] theorem advanceJournal_group (gr : Nat) : (s.advanceJournal).group gr = s.group gr := rfl

@[simp] theorem abandonStart_control : (s.abandonStart).control = s.control := rfl
@[simp] theorem abandonStart_monitor : (s.abandonStart).monitor = s.monitor := rfl
@[simp] theorem abandonStart_conduits : (s.abandonStart).conduits = s.conduits := rfl
@[simp] theorem abandonStart_groups : (s.abandonStart).groups = s.groups := rfl
@[simp] theorem abandonStart_store : (s.abandonStart).store = s.store := rfl
@[simp] theorem abandonStart_port : (s.abandonStart).port = s.port := rfl
@[simp] theorem abandonStart_engine : (s.abandonStart).engine = s.engine := rfl
@[simp] theorem abandonStart_area_base : (s.abandonStart).area.base = s.area.base := rfl
@[simp] theorem abandonStart_area_identity : (s.abandonStart).area.identity = s.area.identity := rfl
@[simp] theorem abandonStart_area_groupCount : (s.abandonStart).area.groupCount = s.area.groupCount := rfl
@[simp] theorem abandonStart_area_journalLength : (s.abandonStart).area.journalLength = s.area.journalLength := rfl
@[simp] theorem abandonStart_area_planMark : (s.abandonStart).area.planMark = s.area.planMark := rfl
@[simp] theorem abandonStart_area_sweepNumber : (s.abandonStart).area.sweepNumber = s.area.sweepNumber := rfl
@[simp] theorem abandonStart_area_sweep : (s.abandonStart).area.sweep = s.area.sweep := rfl
@[simp] theorem abandonStart_area_sweepTimer : (s.abandonStart).area.sweepTimer = s.area.sweepTimer := rfl
@[simp] theorem abandonStart_area_dueMark : (s.abandonStart).area.dueMark = s.area.dueMark := rfl
@[simp] theorem abandonStart_area_uplinkRows : (s.abandonStart).area.uplinkRows = s.area.uplinkRows := rfl
@[simp] theorem abandonStart_area_groupRows : (s.abandonStart).area.groupRows = s.area.groupRows := rfl
@[simp] theorem abandonStart_area_slotHolds : (s.abandonStart).area.slotHolds = s.area.slotHolds := rfl
@[simp] theorem abandonStart_area_converged : (s.abandonStart).area.converged = s.area.converged := rfl
@[simp] theorem abandonStart_area_taking : (s.abandonStart).area.taking = s.area.taking := rfl
@[simp] theorem abandonStart_area_completions : (s.abandonStart).area.completions = s.area.completions := rfl
@[simp] theorem abandonStart_area_position : (s.abandonStart).area.position = s.area.position := rfl
@[simp] theorem abandonStart_area_blocked : (s.abandonStart).area.blocked = s.area.blocked := rfl
@[simp] theorem abandonStart_area_holding : (s.abandonStart).area.holding = s.area.holding := rfl
@[simp] theorem abandonStart_area_writer : (s.abandonStart).area.writer = s.area.writer := rfl
@[simp] theorem abandonStart_area_stopTry : (s.abandonStart).area.stopTry = s.area.stopTry := rfl
@[simp] theorem abandonStart_area_gapCount : (s.abandonStart).area.gapCount = s.area.gapCount := rfl
@[simp] theorem abandonStart_area_firstDrop : (s.abandonStart).area.firstDrop = s.area.firstDrop := rfl
@[simp] theorem abandonStart_area_lastDrop : (s.abandonStart).area.lastDrop = s.area.lastDrop := rfl
@[simp] theorem abandonStart_area_newsMark : (s.abandonStart).area.newsMark = s.area.newsMark := rfl
@[simp] theorem abandonStart_openCount : (s.abandonStart).openCount = s.openCount := rfl
@[simp] theorem abandonStart_pending : (s.abandonStart).pending = s.pending := rfl
@[simp] theorem abandonStart_uplink (v : Fin 32) : (s.abandonStart).uplink v = s.uplink v := rfl
@[simp] theorem abandonStart_alarm (cd : Fin 64) : (s.abandonStart).alarm cd = s.alarm cd := rfl
@[simp] theorem abandonStart_group (gr : Nat) : (s.abandonStart).group gr = s.group gr := rfl

/-! What the plain updates write. -/

@[simp] theorem setSweep_area_sweep (r : Option SweepRecord) : (s.setSweep r).area.sweep = r := rfl
@[simp] theorem modifySweep_area_sweep (f : SweepRecord → SweepRecord) :
    (s.modifySweep f).area.sweep = s.area.sweep.map f := rfl
@[simp] theorem sweepTo_area_sweep (p : SweepPhase) (a : AreaAccess) :
    (s.sweepTo p a).area.sweep = s.area.sweep.map fun r => { r with phase := p } := rfl
@[simp] theorem sweepTo_area_requested (p : SweepPhase) (a : AreaAccess) :
    (s.sweepTo p a).area.requested = s.area.requested ++ [a] := rfl
@[simp] theorem request_area_requested (a : AreaAccess) : (s.request a).area.requested = s.area.requested ++ [a] := rfl
@[simp] theorem endFlight_area_flight : s.endFlight.area.flight = none := rfl
@[simp] theorem endTaken_area_flight : s.endTaken.area.flight = none := rfl
@[simp] theorem endTaken_area_taking : s.endTaken.area.taking = none := rfl
@[simp] theorem endAccess_store_access : s.endAccess.store.access = none := rfl
@[simp] theorem setBurst_store_burst (b : Option Burst) : (s.setBurst b).store.burst = b := rfl
@[simp] theorem setSnapshot_store_snapshot (r : Option SnapshotRecord) : (s.setSnapshot r).store.snapshot = r := rfl
@[simp] theorem setWork_engine_work (w : Work) : (s.setWork w).engine.work = some w := rfl
@[simp] theorem endWork_engine_work : s.endWork.engine.work = none := rfl
@[simp] theorem setTally_engine_tally (n : Nat) : (s.setTally n).engine.tally = n := rfl
@[simp] theorem setBucket_store_memory (k o : Nat) (b : Bucket) :
    (s.setBucket k o b).store.memory = Memory.write s.store.memory (bucketIndex k o) b := rfl
@[simp] theorem setOwner_store_owners (k : Nat) (o : Owner) :
    (s.setOwner k o).store.owners = Sparse.set Owner.free s.store.owners k o := rfl
@[simp] theorem setGroup_groups (g : Nat) (r : GroupRecord) :
    (s.setGroup g r).groups = Sparse.set GroupRecord.reset s.groups g r := rfl
@[simp] theorem beginAccess_store_access (r : Requester) (k o : Nat) :
    (s.beginAccess r k o).store.access
      = some { requester := r, wanted := true, bucket := s.bucket k o, owner := s.owner k } := rfl
@[simp] theorem stopSweeps_area_sweepTimer : s.stopSweeps.area.sweepTimer = none := rfl
@[simp] theorem stopSweeps_area_dueMark : s.stopSweeps.area.dueMark = false := rfl
@[simp] theorem startSweepTimer_area_sweepTimer :
    s.startSweepTimer.area.sweepTimer = some (after s.now s.sweepPeriod) := rfl
@[simp] theorem advanceJournal_area_position :
    s.advanceJournal.area.position = nextPosition s.area.journalLength s.area.position := rfl
@[simp] theorem advanceJournal_area_newsMark : s.advanceJournal.area.newsMark = true := rfl
@[simp] theorem advanceJournal_area_writer : s.advanceJournal.area.writer = .idle := rfl

end Sys2Proof.Machine.State
end

