-- ==== Sys2Proof/Laws/Frame.lean ====
section
/-! SUPPORT. What each shared operation leaves unchanged: one lemma per operation and part of State. `settings` says that
of Run Control nothing but CAUSE and the interrupts sent changed. -/

namespace Sys2Proof.Machine

/-- The settings do not see CAUSE or the interrupts sent. -/
@[simp] theorem RunControl.setCause_settings (c : RunControl) (b : BitVec 32) :
    (c.setCause b).settings = c.settings := rfl

namespace State

variable (s : State)

@[simp] theorem setCause_settings (c : Cause) : (s.setCause c).control.settings = s.control.settings := rfl

/-- The settings hold the run state. -/
theorem runState_of_settings {s t : State} (h : t.control.settings = s.control.settings) :
    t.control.runState = s.control.runState := by
  simpa [RunControl.settings] using congrArg RunControl.runState h

/-- The settings hold part time. -/
theorem now_of_settings {s t : State} (h : t.control.settings = s.control.settings) : t.now = s.now := by
  simpa [RunControl.settings] using congrArg RunControl.now h

/-- What a granted reservation does: the owner entries of its blocks become RESERVED (R78). -/
theorem reserveBlocks_eq {g n : Nat} {l : List Nat} {t : State} (h : s.reserveBlocks g n = some (l, t)) :
    t = s.setOwners (Owner.reserved g) l 0 := by
  unfold reserveBlocks at h
  split at h
  · simp only [Option.some.injEq, Prod.mk.injEq] at h
    obtain ⟨rfl, rfl⟩ := h
    rfl
  · exact absurd h (by simp)

@[simp] theorem request_plan (a : AreaAccess) : (s.request a).area.plan = s.area.plan := rfl

@[simp] theorem endFlight_plan  : (s.endFlight ).area.plan = s.area.plan := rfl

@[simp] theorem dropHold_plan (k : Fin 16) : (s.dropHold k).area.plan = s.area.plan := rfl

@[simp] theorem dropAccesses_plan (p : AreaAccess → Bool) : (s.dropAccesses p).area.plan = s.area.plan := rfl

@[simp] theorem beginCompletion_plan (c : Completion) : (s.beginCompletion c).area.plan = s.area.plan := rfl

@[simp] theorem closeCompletion_plan (k : Fin 16) : (s.closeCompletion k).area.plan = s.area.plan := rfl

@[simp] theorem request_layout (a : AreaAccess) : (s.request a).area.layout = s.area.layout := rfl

@[simp] theorem endFlight_layout : (s.endFlight).area.layout = s.area.layout := rfl

@[simp] theorem dropHold_layout (k : Fin 16) : (s.dropHold k).area.layout = s.area.layout := rfl

@[simp] theorem dropAccesses_layout (p : AreaAccess → Bool) : (s.dropAccesses p).area.layout = s.area.layout := rfl

@[simp] theorem beginCompletion_layout (c : Completion) : (s.beginCompletion c).area.layout = s.area.layout := rfl

@[simp] theorem closeCompletion_layout (k : Fin 16) : (s.closeCompletion k).area.layout = s.area.layout := rfl

@[simp] theorem setSweep_layout (r : Option SweepRecord) : (s.setSweep r).area.layout = s.area.layout := rfl

@[simp] theorem modifySweep_layout (f : SweepRecord → SweepRecord) : (s.modifySweep f).area.layout = s.area.layout := rfl

@[simp] theorem sweepTo_layout (p : SweepPhase) (a : AreaAccess) : (s.sweepTo p a).area.layout = s.area.layout := rfl

@[simp] theorem startSweep_layout : (s.startSweep).area.layout = s.area.layout := rfl

@[simp] theorem startSweepTimer_layout : (s.startSweepTimer).area.layout = s.area.layout := rfl

@[simp] theorem stopSweeps_layout : (s.stopSweeps).area.layout = s.area.layout := rfl

@[simp] theorem advanceJournal_layout : (s.advanceJournal).area.layout = s.area.layout := rfl

@[simp] theorem abandonStart_layout : (s.abandonStart).area.layout = s.area.layout := rfl

@[simp] theorem endTaken_layout : (s.endTaken).area.layout = s.area.layout := rfl

@[simp] theorem produce_settings (e : Entry) :
    (s.produce e).control.settings = s.control.settings := by
  unfold produce
  (repeat' split) <;> simp

@[simp] theorem produce_now (e : Entry) : (s.produce e).control.now = s.control.now :=
  now_of_settings (by simp)

@[simp] theorem produce_runState (e : Entry) : (s.produce e).control.runState = s.control.runState :=
  runState_of_settings (by simp)

@[simp] theorem produce_monitor (e : Entry) :
    (s.produce e).monitor = s.monitor := by
  unfold produce
  (repeat' split) <;> simp

@[simp] theorem produce_uplink (e : Entry) (v : Fin 32) : (s.produce e).uplink v = s.uplink v := by simp [uplink]

@[simp] theorem produce_conduits (e : Entry) :
    (s.produce e).conduits = s.conduits := by
  unfold produce
  (repeat' split) <;> simp

@[simp] theorem produce_alarm (e : Entry) (cd : Fin 64) : (s.produce e).alarm cd = s.alarm cd := by simp [alarm]

@[simp] theorem produce_groups (e : Entry) :
    (s.produce e).groups = s.groups := by
  unfold produce
  (repeat' split) <;> simp

@[simp] theorem produce_group (e : Entry) (gr : Nat) : (s.produce e).group gr = s.group gr := by simp [group]

@[simp] theorem produce_store (e : Entry) :
    (s.produce e).store = s.store := by
  unfold produce
  (repeat' split) <;> simp

@[simp] theorem produce_port (e : Entry) :
    (s.produce e).port = s.port := by
  unfold produce
  (repeat' split) <;> simp

@[simp] theorem produce_engine (e : Entry) :
    (s.produce e).engine = s.engine := by
  unfold produce
  (repeat' split) <;> simp

@[simp] theorem produce_plan (e : Entry) :
    (s.produce e).area.plan = s.area.plan := by
  unfold produce
  (repeat' split) <;> rfl

@[simp] theorem produce_layout (e : Entry) :
    (s.produce e).area.layout = s.area.layout := by
  unfold produce
  (repeat' split) <;> rfl

@[simp] theorem produce_groupRows (e : Entry) :
    (s.produce e).area.groupRows = s.area.groupRows := by
  unfold produce
  (repeat' split) <;> simp

@[simp] theorem produce_openCount (e : Entry) :
    (s.produce e).openCount = s.openCount := by
  unfold produce
  (repeat' split) <;> simp

@[simp] theorem produce_pending (e : Entry) :
    (s.produce e).pending = s.pending := by
  unfold produce
  (repeat' split) <;> simp

@[simp] theorem produce_area_base (e : Entry) :
    (s.produce e).area.base = s.area.base := by
  unfold produce
  (repeat' split) <;> simp

@[simp] theorem produce_area_identity (e : Entry) :
    (s.produce e).area.identity = s.area.identity := by
  unfold produce
  (repeat' split) <;> simp

@[simp] theorem produce_area_groupCount (e : Entry) :
    (s.produce e).area.groupCount = s.area.groupCount := by
  unfold produce
  (repeat' split) <;> simp

@[simp] theorem produce_area_journalLength (e : Entry) :
    (s.produce e).area.journalLength = s.area.journalLength := by
  unfold produce
  (repeat' split) <;> simp

@[simp] theorem produce_area_planMark (e : Entry) :
    (s.produce e).area.planMark = s.area.planMark := by
  unfold produce
  (repeat' split) <;> simp

@[simp] theorem produce_area_sweepNumber (e : Entry) :
    (s.produce e).area.sweepNumber = s.area.sweepNumber := by
  unfold produce
  (repeat' split) <;> simp

@[simp] theorem produce_area_sweep (e : Entry) :
    (s.produce e).area.sweep = s.area.sweep := by
  unfold produce
  (repeat' split) <;> simp

@[simp] theorem produce_area_sweepTimer (e : Entry) :
    (s.produce e).area.sweepTimer = s.area.sweepTimer := by
  unfold produce
  (repeat' split) <;> simp

@[simp] theorem produce_area_dueMark (e : Entry) :
    (s.produce e).area.dueMark = s.area.dueMark := by
  unfold produce
  (repeat' split) <;> simp

@[simp] theorem produce_area_uplinkRows (e : Entry) :
    (s.produce e).area.uplinkRows = s.area.uplinkRows := by
  unfold produce
  (repeat' split) <;> simp

@[simp] theorem produce_area_slotHolds (e : Entry) :
    (s.produce e).area.slotHolds = s.area.slotHolds := by
  unfold produce
  (repeat' split) <;> simp

@[simp] theorem produce_area_converged (e : Entry) :
    (s.produce e).area.converged = s.area.converged := by
  unfold produce
  (repeat' split) <;> simp

@[simp] theorem produce_area_taking (e : Entry) :
    (s.produce e).area.taking = s.area.taking := by
  unfold produce
  (repeat' split) <;> simp

@[simp] theorem produce_area_completions (e : Entry) :
    (s.produce e).area.completions = s.area.completions := by
  unfold produce
  (repeat' split) <;> simp

@[simp] theorem produce_area_position (e : Entry) :
    (s.produce e).area.position = s.area.position := by
  unfold produce
  (repeat' split) <;> simp

@[simp] theorem produce_area_blocked (e : Entry) :
    (s.produce e).area.blocked = s.area.blocked := by
  unfold produce
  (repeat' split) <;> simp

@[simp] theorem produce_area_writer (e : Entry) :
    (s.produce e).area.writer = s.area.writer := by
  unfold produce
  (repeat' split) <;> simp

@[simp] theorem produce_area_stopTry (e : Entry) :
    (s.produce e).area.stopTry = s.area.stopTry := by
  unfold produce
  (repeat' split) <;> simp

@[simp] theorem produce_area_newsMark (e : Entry) :
    (s.produce e).area.newsMark = s.area.newsMark := by
  unfold produce
  (repeat' split) <;> simp

@[simp] theorem produce_area_startCommand (e : Entry) :
    (s.produce e).area.startCommand = s.area.startCommand := by
  unfold produce
  (repeat' split) <;> simp

@[simp] theorem produce_area_adoptPage (e : Entry) :
    (s.produce e).area.adoptPage = s.area.adoptPage := by
  unfold produce
  (repeat' split) <;> simp

@[simp] theorem produce_area_flight (e : Entry) :
    (s.produce e).area.flight = s.area.flight := by
  unfold produce
  (repeat' split) <;> simp

@[simp] theorem produce_area_waiting (e : Entry) :
    (s.produce e).area.waiting = s.area.waiting := by
  unfold produce
  (repeat' split) <;> simp

@[simp] theorem produce_area_requested (e : Entry) :
    (s.produce e).area.requested = s.area.requested := by
  unfold produce
  (repeat' split) <;> simp

@[simp] theorem wakeWriter_control :
    (s.wakeWriter).control = s.control := by
  unfold wakeWriter
  split <;> simp

@[simp] theorem wakeWriter_monitor :
    (s.wakeWriter).monitor = s.monitor := by
  unfold wakeWriter
  split <;> simp

@[simp] theorem wakeWriter_uplink (v : Fin 32) : (s.wakeWriter).uplink v = s.uplink v := by simp [uplink]

@[simp] theorem wakeWriter_conduits :
    (s.wakeWriter).conduits = s.conduits := by
  unfold wakeWriter
  split <;> simp

@[simp] theorem wakeWriter_alarm (cd : Fin 64) : (s.wakeWriter).alarm cd = s.alarm cd := by simp [alarm]

@[simp] theorem wakeWriter_groups :
    (s.wakeWriter).groups = s.groups := by
  unfold wakeWriter
  split <;> simp

@[simp] theorem wakeWriter_group (gr : Nat) : (s.wakeWriter).group gr = s.group gr := by simp [group]

@[simp] theorem wakeWriter_store :
    (s.wakeWriter).store = s.store := by
  unfold wakeWriter
  split <;> simp

@[simp] theorem wakeWriter_port :
    (s.wakeWriter).port = s.port := by
  unfold wakeWriter
  split <;> simp

@[simp] theorem wakeWriter_engine :
    (s.wakeWriter).engine = s.engine := by
  unfold wakeWriter
  split <;> simp

@[simp] theorem wakeWriter_plan :
    (s.wakeWriter).area.plan = s.area.plan := by
  unfold wakeWriter
  split <;> rfl

@[simp] theorem wakeWriter_layout :
    (s.wakeWriter).area.layout = s.area.layout := by
  unfold wakeWriter
  split <;> rfl

@[simp] theorem wakeWriter_groupRows :
    (s.wakeWriter).area.groupRows = s.area.groupRows := by
  unfold wakeWriter
  split <;> simp

@[simp] theorem wakeWriter_openCount :
    (s.wakeWriter).openCount = s.openCount := by
  unfold wakeWriter
  split <;> simp

@[simp] theorem wakeWriter_pending :
    (s.wakeWriter).pending = s.pending := by
  unfold wakeWriter
  split <;> simp

@[simp] theorem wakeWriter_area_base :
    (s.wakeWriter).area.base = s.area.base := by
  unfold wakeWriter
  split <;> simp

@[simp] theorem wakeWriter_area_identity :
    (s.wakeWriter).area.identity = s.area.identity := by
  unfold wakeWriter
  split <;> simp

@[simp] theorem wakeWriter_area_groupCount :
    (s.wakeWriter).area.groupCount = s.area.groupCount := by
  unfold wakeWriter
  split <;> simp

@[simp] theorem wakeWriter_area_journalLength :
    (s.wakeWriter).area.journalLength = s.area.journalLength := by
  unfold wakeWriter
  split <;> simp

@[simp] theorem wakeWriter_area_planMark :
    (s.wakeWriter).area.planMark = s.area.planMark := by
  unfold wakeWriter
  split <;> simp

@[simp] theorem wakeWriter_area_sweepNumber :
    (s.wakeWriter).area.sweepNumber = s.area.sweepNumber := by
  unfold wakeWriter
  split <;> simp

@[simp] theorem wakeWriter_area_sweep :
    (s.wakeWriter).area.sweep = s.area.sweep := by
  unfold wakeWriter
  split <;> simp

@[simp] theorem wakeWriter_area_sweepTimer :
    (s.wakeWriter).area.sweepTimer = s.area.sweepTimer := by
  unfold wakeWriter
  split <;> simp

@[simp] theorem wakeWriter_area_dueMark :
    (s.wakeWriter).area.dueMark = s.area.dueMark := by
  unfold wakeWriter
  split <;> simp

@[simp] theorem wakeWriter_area_uplinkRows :
    (s.wakeWriter).area.uplinkRows = s.area.uplinkRows := by
  unfold wakeWriter
  split <;> simp

@[simp] theorem wakeWriter_area_slotHolds :
    (s.wakeWriter).area.slotHolds = s.area.slotHolds := by
  unfold wakeWriter
  split <;> simp

@[simp] theorem wakeWriter_area_converged :
    (s.wakeWriter).area.converged = s.area.converged := by
  unfold wakeWriter
  split <;> simp

@[simp] theorem wakeWriter_area_taking :
    (s.wakeWriter).area.taking = s.area.taking := by
  unfold wakeWriter
  split <;> simp

@[simp] theorem wakeWriter_area_completions :
    (s.wakeWriter).area.completions = s.area.completions := by
  unfold wakeWriter
  split <;> simp

@[simp] theorem wakeWriter_area_position :
    (s.wakeWriter).area.position = s.area.position := by
  unfold wakeWriter
  split <;> simp

@[simp] theorem wakeWriter_area_blocked :
    (s.wakeWriter).area.blocked = s.area.blocked := by
  unfold wakeWriter
  split <;> simp

@[simp] theorem wakeWriter_area_holding :
    (s.wakeWriter).area.holding = s.area.holding := by
  unfold wakeWriter
  split <;> simp

@[simp] theorem wakeWriter_area_stopTry :
    (s.wakeWriter).area.stopTry = s.area.stopTry := by
  unfold wakeWriter
  split <;> simp

@[simp] theorem wakeWriter_area_gapCount :
    (s.wakeWriter).area.gapCount = s.area.gapCount := by
  unfold wakeWriter
  split <;> simp

@[simp] theorem wakeWriter_area_firstDrop :
    (s.wakeWriter).area.firstDrop = s.area.firstDrop := by
  unfold wakeWriter
  split <;> simp

@[simp] theorem wakeWriter_area_lastDrop :
    (s.wakeWriter).area.lastDrop = s.area.lastDrop := by
  unfold wakeWriter
  split <;> simp

@[simp] theorem wakeWriter_area_newsMark :
    (s.wakeWriter).area.newsMark = s.area.newsMark := by
  unfold wakeWriter
  split <;> simp

@[simp] theorem wakeWriter_area_startCommand :
    (s.wakeWriter).area.startCommand = s.area.startCommand := by
  unfold wakeWriter
  split <;> simp

@[simp] theorem wakeWriter_area_adoptPage :
    (s.wakeWriter).area.adoptPage = s.area.adoptPage := by
  unfold wakeWriter
  split <;> simp

@[simp] theorem wakeWriter_area_flight :
    (s.wakeWriter).area.flight = s.area.flight := by
  unfold wakeWriter
  split <;> simp

@[simp] theorem wakeWriter_area_waiting :
    (s.wakeWriter).area.waiting = s.area.waiting := by
  unfold wakeWriter
  split <;> simp

@[simp] theorem queueRequests_control :
    (s.queueRequests).control = s.control := by
  unfold queueRequests
  simp

@[simp] theorem queueRequests_monitor :
    (s.queueRequests).monitor = s.monitor := by
  unfold queueRequests
  simp

@[simp] theorem queueRequests_uplink (v : Fin 32) : (s.queueRequests).uplink v = s.uplink v := by simp [uplink]

@[simp] theorem queueRequests_conduits :
    (s.queueRequests).conduits = s.conduits := by
  unfold queueRequests
  simp

@[simp] theorem queueRequests_alarm (cd : Fin 64) : (s.queueRequests).alarm cd = s.alarm cd := by simp [alarm]

@[simp] theorem queueRequests_groups :
    (s.queueRequests).groups = s.groups := by
  unfold queueRequests
  simp

@[simp] theorem queueRequests_group (gr : Nat) : (s.queueRequests).group gr = s.group gr := by simp [group]

@[simp] theorem queueRequests_store :
    (s.queueRequests).store = s.store := by
  unfold queueRequests
  simp

@[simp] theorem queueRequests_port :
    (s.queueRequests).port = s.port := by
  unfold queueRequests
  simp

@[simp] theorem queueRequests_engine :
    (s.queueRequests).engine = s.engine := by
  unfold queueRequests
  simp

@[simp] theorem queueRequests_plan :
    (s.queueRequests).area.plan = s.area.plan := rfl

@[simp] theorem queueRequests_layout :
    (s.queueRequests).area.layout = s.area.layout := rfl

@[simp] theorem queueRequests_groupRows :
    (s.queueRequests).area.groupRows = s.area.groupRows := by
  unfold queueRequests
  simp

@[simp] theorem queueRequests_pending :
    (s.queueRequests).pending = s.pending := by
  unfold queueRequests
  simp

@[simp] theorem queueRequests_area_base :
    (s.queueRequests).area.base = s.area.base := by
  unfold queueRequests
  simp

@[simp] theorem queueRequests_area_identity :
    (s.queueRequests).area.identity = s.area.identity := by
  unfold queueRequests
  simp

@[simp] theorem queueRequests_area_groupCount :
    (s.queueRequests).area.groupCount = s.area.groupCount := by
  unfold queueRequests
  simp

@[simp] theorem queueRequests_area_journalLength :
    (s.queueRequests).area.journalLength = s.area.journalLength := by
  unfold queueRequests
  simp

@[simp] theorem queueRequests_area_planMark :
    (s.queueRequests).area.planMark = s.area.planMark := by
  unfold queueRequests
  simp

@[simp] theorem queueRequests_area_sweepNumber :
    (s.queueRequests).area.sweepNumber = s.area.sweepNumber := by
  unfold queueRequests
  simp

@[simp] theorem queueRequests_area_sweep :
    (s.queueRequests).area.sweep = s.area.sweep := by
  unfold queueRequests
  simp

@[simp] theorem queueRequests_area_sweepTimer :
    (s.queueRequests).area.sweepTimer = s.area.sweepTimer := by
  unfold queueRequests
  simp

@[simp] theorem queueRequests_area_dueMark :
    (s.queueRequests).area.dueMark = s.area.dueMark := by
  unfold queueRequests
  simp

@[simp] theorem queueRequests_area_uplinkRows :
    (s.queueRequests).area.uplinkRows = s.area.uplinkRows := by
  unfold queueRequests
  simp

@[simp] theorem queueRequests_area_slotHolds :
    (s.queueRequests).area.slotHolds = s.area.slotHolds := by
  unfold queueRequests
  simp

@[simp] theorem queueRequests_area_converged :
    (s.queueRequests).area.converged = s.area.converged := by
  unfold queueRequests
  simp

@[simp] theorem queueRequests_area_taking :
    (s.queueRequests).area.taking = s.area.taking := by
  unfold queueRequests
  simp

@[simp] theorem queueRequests_area_completions :
    (s.queueRequests).area.completions = s.area.completions := by
  unfold queueRequests
  simp

@[simp] theorem queueRequests_area_position :
    (s.queueRequests).area.position = s.area.position := by
  unfold queueRequests
  simp

@[simp] theorem queueRequests_area_blocked :
    (s.queueRequests).area.blocked = s.area.blocked := by
  unfold queueRequests
  simp

@[simp] theorem queueRequests_area_holding :
    (s.queueRequests).area.holding = s.area.holding := by
  unfold queueRequests
  simp

@[simp] theorem queueRequests_area_writer :
    (s.queueRequests).area.writer = s.area.writer := by
  unfold queueRequests
  simp

@[simp] theorem queueRequests_area_stopTry :
    (s.queueRequests).area.stopTry = s.area.stopTry := by
  unfold queueRequests
  simp

@[simp] theorem queueRequests_area_gapCount :
    (s.queueRequests).area.gapCount = s.area.gapCount := by
  unfold queueRequests
  simp

@[simp] theorem queueRequests_area_firstDrop :
    (s.queueRequests).area.firstDrop = s.area.firstDrop := by
  unfold queueRequests
  simp

@[simp] theorem queueRequests_area_lastDrop :
    (s.queueRequests).area.lastDrop = s.area.lastDrop := by
  unfold queueRequests
  simp

@[simp] theorem queueRequests_area_newsMark :
    (s.queueRequests).area.newsMark = s.area.newsMark := by
  unfold queueRequests
  simp

@[simp] theorem queueRequests_area_startCommand :
    (s.queueRequests).area.startCommand = s.area.startCommand := by
  unfold queueRequests
  simp

@[simp] theorem queueRequests_area_adoptPage :
    (s.queueRequests).area.adoptPage = s.area.adoptPage := by
  unfold queueRequests
  simp

@[simp] theorem queueRequests_area_flight :
    (s.queueRequests).area.flight = s.area.flight := by
  unfold queueRequests
  simp

@[simp] theorem grantArea_control :
    (s.grantArea).control = s.control := by
  unfold grantArea
  split <;> simp

@[simp] theorem grantArea_monitor :
    (s.grantArea).monitor = s.monitor := by
  unfold grantArea
  split <;> simp

@[simp] theorem grantArea_uplink (v : Fin 32) : (s.grantArea).uplink v = s.uplink v := by simp [uplink]

@[simp] theorem grantArea_conduits :
    (s.grantArea).conduits = s.conduits := by
  unfold grantArea
  split <;> simp

@[simp] theorem grantArea_alarm (cd : Fin 64) : (s.grantArea).alarm cd = s.alarm cd := by simp [alarm]

@[simp] theorem grantArea_groups :
    (s.grantArea).groups = s.groups := by
  unfold grantArea
  split <;> simp

@[simp] theorem grantArea_group (gr : Nat) : (s.grantArea).group gr = s.group gr := by simp [group]

@[simp] theorem grantArea_store :
    (s.grantArea).store = s.store := by
  unfold grantArea
  split <;> simp

@[simp] theorem grantArea_port :
    (s.grantArea).port = s.port := by
  unfold grantArea
  split <;> simp

@[simp] theorem grantArea_engine :
    (s.grantArea).engine = s.engine := by
  unfold grantArea
  split <;> simp

@[simp] theorem grantArea_plan :
    (s.grantArea).area.plan = s.area.plan := by
  unfold grantArea
  split <;> rfl

@[simp] theorem grantArea_layout :
    (s.grantArea).area.layout = s.area.layout := by
  unfold grantArea
  split <;> rfl

@[simp] theorem grantArea_groupRows :
    (s.grantArea).area.groupRows = s.area.groupRows := by
  unfold grantArea
  split <;> simp

@[simp] theorem grantArea_openCount :
    (s.grantArea).openCount = s.openCount := by
  unfold grantArea
  split <;> simp

@[simp] theorem grantArea_pending :
    (s.grantArea).pending = s.pending := by
  unfold grantArea
  split <;> simp

@[simp] theorem grantArea_area_base :
    (s.grantArea).area.base = s.area.base := by
  unfold grantArea
  split <;> simp

@[simp] theorem grantArea_area_identity :
    (s.grantArea).area.identity = s.area.identity := by
  unfold grantArea
  split <;> simp

@[simp] theorem grantArea_area_groupCount :
    (s.grantArea).area.groupCount = s.area.groupCount := by
  unfold grantArea
  split <;> simp

@[simp] theorem grantArea_area_journalLength :
    (s.grantArea).area.journalLength = s.area.journalLength := by
  unfold grantArea
  split <;> simp

@[simp] theorem grantArea_area_planMark :
    (s.grantArea).area.planMark = s.area.planMark := by
  unfold grantArea
  split <;> simp

@[simp] theorem grantArea_area_sweepNumber :
    (s.grantArea).area.sweepNumber = s.area.sweepNumber := by
  unfold grantArea
  split <;> simp

@[simp] theorem grantArea_area_sweep :
    (s.grantArea).area.sweep = s.area.sweep := by
  unfold grantArea
  split <;> simp

@[simp] theorem grantArea_area_sweepTimer :
    (s.grantArea).area.sweepTimer = s.area.sweepTimer := by
  unfold grantArea
  split <;> simp

@[simp] theorem grantArea_area_dueMark :
    (s.grantArea).area.dueMark = s.area.dueMark := by
  unfold grantArea
  split <;> simp

@[simp] theorem grantArea_area_uplinkRows :
    (s.grantArea).area.uplinkRows = s.area.uplinkRows := by
  unfold grantArea
  split <;> simp

@[simp] theorem grantArea_area_slotHolds :
    (s.grantArea).area.slotHolds = s.area.slotHolds := by
  unfold grantArea
  split <;> simp

@[simp] theorem grantArea_area_converged :
    (s.grantArea).area.converged = s.area.converged := by
  unfold grantArea
  split <;> simp

@[simp] theorem grantArea_area_taking :
    (s.grantArea).area.taking = s.area.taking := by
  unfold grantArea
  split <;> simp

@[simp] theorem grantArea_area_completions :
    (s.grantArea).area.completions = s.area.completions := by
  unfold grantArea
  split <;> simp

@[simp] theorem grantArea_area_position :
    (s.grantArea).area.position = s.area.position := by
  unfold grantArea
  split <;> simp

@[simp] theorem grantArea_area_blocked :
    (s.grantArea).area.blocked = s.area.blocked := by
  unfold grantArea
  split <;> simp

@[simp] theorem grantArea_area_holding :
    (s.grantArea).area.holding = s.area.holding := by
  unfold grantArea
  split <;> simp

@[simp] theorem grantArea_area_writer :
    (s.grantArea).area.writer = s.area.writer := by
  unfold grantArea
  split <;> simp

@[simp] theorem grantArea_area_stopTry :
    (s.grantArea).area.stopTry = s.area.stopTry := by
  unfold grantArea
  split <;> simp

@[simp] theorem grantArea_area_gapCount :
    (s.grantArea).area.gapCount = s.area.gapCount := by
  unfold grantArea
  split <;> simp

@[simp] theorem grantArea_area_firstDrop :
    (s.grantArea).area.firstDrop = s.area.firstDrop := by
  unfold grantArea
  split <;> simp

@[simp] theorem grantArea_area_lastDrop :
    (s.grantArea).area.lastDrop = s.area.lastDrop := by
  unfold grantArea
  split <;> simp

@[simp] theorem grantArea_area_newsMark :
    (s.grantArea).area.newsMark = s.area.newsMark := by
  unfold grantArea
  split <;> simp

@[simp] theorem grantArea_area_startCommand :
    (s.grantArea).area.startCommand = s.area.startCommand := by
  unfold grantArea
  split <;> simp

@[simp] theorem grantArea_area_adoptPage :
    (s.grantArea).area.adoptPage = s.area.adoptPage := by
  unfold grantArea
  split <;> simp

@[simp] theorem grantArea_area_requested :
    (s.grantArea).area.requested = s.area.requested := by
  unfold grantArea
  split <;> simp

@[simp] theorem settleArea_control :
    (s.settleArea).control = s.control := by
  unfold settleArea
  simp

@[simp] theorem settleArea_monitor :
    (s.settleArea).monitor = s.monitor := by
  unfold settleArea
  simp

@[simp] theorem settleArea_uplink (v : Fin 32) : (s.settleArea).uplink v = s.uplink v := by simp [uplink]

@[simp] theorem settleArea_conduits :
    (s.settleArea).conduits = s.conduits := by
  unfold settleArea
  simp

@[simp] theorem settleArea_alarm (cd : Fin 64) : (s.settleArea).alarm cd = s.alarm cd := by simp [alarm]

@[simp] theorem settleArea_groups :
    (s.settleArea).groups = s.groups := by
  unfold settleArea
  simp

@[simp] theorem settleArea_group (gr : Nat) : (s.settleArea).group gr = s.group gr := by simp [group]

@[simp] theorem settleArea_store :
    (s.settleArea).store = s.store := by
  unfold settleArea
  simp

@[simp] theorem settleArea_port :
    (s.settleArea).port = s.port := by
  unfold settleArea
  simp

@[simp] theorem settleArea_engine :
    (s.settleArea).engine = s.engine := by
  unfold settleArea
  simp

@[simp] theorem settleArea_plan :
    (s.settleArea).area.plan = s.area.plan := by
  unfold settleArea
  simp

@[simp] theorem settleArea_layout :
    (s.settleArea).area.layout = s.area.layout := by
  unfold settleArea
  simp

@[simp] theorem settleArea_groupRows :
    (s.settleArea).area.groupRows = s.area.groupRows := by
  unfold settleArea
  simp

@[simp] theorem settleArea_pending :
    (s.settleArea).pending = s.pending := by
  unfold settleArea
  simp

@[simp] theorem settleArea_area_base :
    (s.settleArea).area.base = s.area.base := by
  unfold settleArea
  simp

@[simp] theorem settleArea_area_identity :
    (s.settleArea).area.identity = s.area.identity := by
  unfold settleArea
  simp

@[simp] theorem settleArea_area_groupCount :
    (s.settleArea).area.groupCount = s.area.groupCount := by
  unfold settleArea
  simp

@[simp] theorem settleArea_area_journalLength :
    (s.settleArea).area.journalLength = s.area.journalLength := by
  unfold settleArea
  simp

@[simp] theorem settleArea_area_planMark :
    (s.settleArea).area.planMark = s.area.planMark := by
  unfold settleArea
  simp

@[simp] theorem settleArea_area_sweepNumber :
    (s.settleArea).area.sweepNumber = s.area.sweepNumber := by
  unfold settleArea
  simp

@[simp] theorem settleArea_area_sweep :
    (s.settleArea).area.sweep = s.area.sweep := by
  unfold settleArea
  simp

@[simp] theorem settleArea_area_sweepTimer :
    (s.settleArea).area.sweepTimer = s.area.sweepTimer := by
  unfold settleArea
  simp

@[simp] theorem settleArea_area_dueMark :
    (s.settleArea).area.dueMark = s.area.dueMark := by
  unfold settleArea
  simp

@[simp] theorem settleArea_area_uplinkRows :
    (s.settleArea).area.uplinkRows = s.area.uplinkRows := by
  unfold settleArea
  simp

@[simp] theorem settleArea_area_slotHolds :
    (s.settleArea).area.slotHolds = s.area.slotHolds := by
  unfold settleArea
  simp

@[simp] theorem settleArea_area_converged :
    (s.settleArea).area.converged = s.area.converged := by
  unfold settleArea
  simp

@[simp] theorem settleArea_area_taking :
    (s.settleArea).area.taking = s.area.taking := by
  unfold settleArea
  simp

@[simp] theorem settleArea_area_completions :
    (s.settleArea).area.completions = s.area.completions := by
  unfold settleArea
  simp

@[simp] theorem settleArea_area_position :
    (s.settleArea).area.position = s.area.position := by
  unfold settleArea
  simp

@[simp] theorem settleArea_area_blocked :
    (s.settleArea).area.blocked = s.area.blocked := by
  unfold settleArea
  simp

@[simp] theorem settleArea_area_holding :
    (s.settleArea).area.holding = s.area.holding := by
  unfold settleArea
  simp

@[simp] theorem settleArea_area_stopTry :
    (s.settleArea).area.stopTry = s.area.stopTry := by
  unfold settleArea
  simp

@[simp] theorem settleArea_area_gapCount :
    (s.settleArea).area.gapCount = s.area.gapCount := by
  unfold settleArea
  simp

@[simp] theorem settleArea_area_firstDrop :
    (s.settleArea).area.firstDrop = s.area.firstDrop := by
  unfold settleArea
  simp

@[simp] theorem settleArea_area_lastDrop :
    (s.settleArea).area.lastDrop = s.area.lastDrop := by
  unfold settleArea
  simp

@[simp] theorem settleArea_area_newsMark :
    (s.settleArea).area.newsMark = s.area.newsMark := by
  unfold settleArea
  simp

@[simp] theorem settleArea_area_startCommand :
    (s.settleArea).area.startCommand = s.area.startCommand := by
  unfold settleArea
  simp

@[simp] theorem settleArea_area_adoptPage :
    (s.settleArea).area.adoptPage = s.area.adoptPage := by
  unfold settleArea
  simp

@[simp] theorem reportEnded_settings (k : Option (Fin 16)) (b : Byte) (f : Bool) (r : OrderReason) (x : Results) :
    (s.reportEnded k b f r x).control.settings = s.control.settings := by
  unfold reportEnded
  simp

@[simp] theorem reportEnded_now (k : Option (Fin 16)) (b : Byte) (f : Bool) (r : OrderReason) (x : Results) : (s.reportEnded k b f r x).control.now = s.control.now :=
  now_of_settings (by simp)

@[simp] theorem reportEnded_runState (k : Option (Fin 16)) (b : Byte) (f : Bool) (r : OrderReason) (x : Results) : (s.reportEnded k b f r x).control.runState = s.control.runState :=
  runState_of_settings (by simp)

@[simp] theorem reportEnded_monitor (k : Option (Fin 16)) (b : Byte) (f : Bool) (r : OrderReason) (x : Results) :
    (s.reportEnded k b f r x).monitor = s.monitor := by
  unfold reportEnded
  simp

@[simp] theorem reportEnded_uplink (k : Option (Fin 16)) (b : Byte) (f : Bool) (r : OrderReason) (x : Results) (v : Fin 32) : (s.reportEnded k b f r x).uplink v = s.uplink v := by simp [uplink]

@[simp] theorem reportEnded_conduits (k : Option (Fin 16)) (b : Byte) (f : Bool) (r : OrderReason) (x : Results) :
    (s.reportEnded k b f r x).conduits = s.conduits := by
  unfold reportEnded
  simp

@[simp] theorem reportEnded_alarm (k : Option (Fin 16)) (b : Byte) (f : Bool) (r : OrderReason) (x : Results) (cd : Fin 64) : (s.reportEnded k b f r x).alarm cd = s.alarm cd := by simp [alarm]

@[simp] theorem reportEnded_groups (k : Option (Fin 16)) (b : Byte) (f : Bool) (r : OrderReason) (x : Results) :
    (s.reportEnded k b f r x).groups = s.groups := by
  unfold reportEnded
  simp

@[simp] theorem reportEnded_group (k : Option (Fin 16)) (b : Byte) (f : Bool) (r : OrderReason) (x : Results) (gr : Nat) : (s.reportEnded k b f r x).group gr = s.group gr := by simp [group]

@[simp] theorem reportEnded_store (k : Option (Fin 16)) (b : Byte) (f : Bool) (r : OrderReason) (x : Results) :
    (s.reportEnded k b f r x).store = s.store := by
  unfold reportEnded
  simp

@[simp] theorem reportEnded_port (k : Option (Fin 16)) (b : Byte) (f : Bool) (r : OrderReason) (x : Results) :
    (s.reportEnded k b f r x).port = s.port := by
  unfold reportEnded
  simp

@[simp] theorem reportEnded_engine (k : Option (Fin 16)) (b : Byte) (f : Bool) (r : OrderReason) (x : Results) :
    (s.reportEnded k b f r x).engine = s.engine := by
  unfold reportEnded
  simp

@[simp] theorem reportEnded_plan (k : Option (Fin 16)) (b : Byte) (f : Bool) (r : OrderReason) (x : Results) :
    (s.reportEnded k b f r x).area.plan = s.area.plan := by
  unfold reportEnded
  simp

@[simp] theorem reportEnded_layout (k : Option (Fin 16)) (b : Byte) (f : Bool) (r : OrderReason) (x : Results) :
    (s.reportEnded k b f r x).area.layout = s.area.layout := by
  unfold reportEnded
  simp

@[simp] theorem reportEnded_groupRows (k : Option (Fin 16)) (b : Byte) (f : Bool) (r : OrderReason) (x : Results) :
    (s.reportEnded k b f r x).area.groupRows = s.area.groupRows := by
  unfold reportEnded
  simp

@[simp] theorem reportEnded_openCount (k : Option (Fin 16)) (b : Byte) (f : Bool) (r : OrderReason) (x : Results) :
    (s.reportEnded k b f r x).openCount = s.openCount := by
  unfold reportEnded
  simp

@[simp] theorem reportEnded_pending (k : Option (Fin 16)) (b : Byte) (f : Bool) (r : OrderReason) (x : Results) :
    (s.reportEnded k b f r x).pending = s.pending := by
  unfold reportEnded
  simp

@[simp] theorem completeOrder_settings (k : Option (Fin 16)) (b : OrderKind) (f : Bool) (r : OrderReason) (x : Results) :
    (s.completeOrder k b f r x).control.settings = s.control.settings := by
  unfold completeOrder
  (repeat' split) <;> simp

@[simp] theorem completeOrder_now (k : Option (Fin 16)) (b : OrderKind) (f : Bool) (r : OrderReason) (x : Results) : (s.completeOrder k b f r x).control.now = s.control.now :=
  now_of_settings (by simp)

@[simp] theorem completeOrder_runState (k : Option (Fin 16)) (b : OrderKind) (f : Bool) (r : OrderReason) (x : Results) : (s.completeOrder k b f r x).control.runState = s.control.runState :=
  runState_of_settings (by simp)

@[simp] theorem completeOrder_monitor (k : Option (Fin 16)) (b : OrderKind) (f : Bool) (r : OrderReason) (x : Results) :
    (s.completeOrder k b f r x).monitor = s.monitor := by
  unfold completeOrder
  (repeat' split) <;> simp

@[simp] theorem completeOrder_uplink (k : Option (Fin 16)) (b : OrderKind) (f : Bool) (r : OrderReason) (x : Results) (v : Fin 32) : (s.completeOrder k b f r x).uplink v = s.uplink v := by simp [uplink]

@[simp] theorem completeOrder_conduits (k : Option (Fin 16)) (b : OrderKind) (f : Bool) (r : OrderReason) (x : Results) :
    (s.completeOrder k b f r x).conduits = s.conduits := by
  unfold completeOrder
  (repeat' split) <;> simp

@[simp] theorem completeOrder_alarm (k : Option (Fin 16)) (b : OrderKind) (f : Bool) (r : OrderReason) (x : Results) (cd : Fin 64) : (s.completeOrder k b f r x).alarm cd = s.alarm cd := by simp [alarm]

@[simp] theorem completeOrder_groups (k : Option (Fin 16)) (b : OrderKind) (f : Bool) (r : OrderReason) (x : Results) :
    (s.completeOrder k b f r x).groups = s.groups := by
  unfold completeOrder
  (repeat' split) <;> simp

@[simp] theorem completeOrder_group (k : Option (Fin 16)) (b : OrderKind) (f : Bool) (r : OrderReason) (x : Results) (gr : Nat) : (s.completeOrder k b f r x).group gr = s.group gr := by simp [group]

@[simp] theorem completeOrder_store (k : Option (Fin 16)) (b : OrderKind) (f : Bool) (r : OrderReason) (x : Results) :
    (s.completeOrder k b f r x).store = s.store := by
  unfold completeOrder
  (repeat' split) <;> simp

@[simp] theorem completeOrder_port (k : Option (Fin 16)) (b : OrderKind) (f : Bool) (r : OrderReason) (x : Results) :
    (s.completeOrder k b f r x).port = s.port := by
  unfold completeOrder
  (repeat' split) <;> simp

@[simp] theorem completeOrder_engine (k : Option (Fin 16)) (b : OrderKind) (f : Bool) (r : OrderReason) (x : Results) :
    (s.completeOrder k b f r x).engine = s.engine := by
  unfold completeOrder
  (repeat' split) <;> simp

@[simp] theorem completeOrder_plan (k : Option (Fin 16)) (b : OrderKind) (f : Bool) (r : OrderReason) (x : Results) :
    (s.completeOrder k b f r x).area.plan = s.area.plan := by
  unfold completeOrder
  (repeat' split) <;> simp

@[simp] theorem completeOrder_layout (k : Option (Fin 16)) (b : OrderKind) (f : Bool) (r : OrderReason) (x : Results) :
    (s.completeOrder k b f r x).area.layout = s.area.layout := by
  unfold completeOrder
  (repeat' split) <;> simp

@[simp] theorem completeOrder_groupRows (k : Option (Fin 16)) (b : OrderKind) (f : Bool) (r : OrderReason) (x : Results) :
    (s.completeOrder k b f r x).area.groupRows = s.area.groupRows := by
  unfold completeOrder
  (repeat' split) <;> simp

@[simp] theorem completeOrder_openCount (k : Option (Fin 16)) (b : OrderKind) (f : Bool) (r : OrderReason) (x : Results) :
    (s.completeOrder k b f r x).openCount = s.openCount := by
  unfold completeOrder
  (repeat' split) <;> simp

@[simp] theorem completeOrder_pending (k : Option (Fin 16)) (b : OrderKind) (f : Bool) (r : OrderReason) (x : Results) :
    (s.completeOrder k b f r x).pending = s.pending := by
  unfold completeOrder
  (repeat' split) <;> simp

@[simp] theorem completeUntaken_settings (k : Fin 16) (b : Byte) (r : OrderReason) :
    (s.completeUntaken k b r).control.settings = s.control.settings := by
  unfold completeUntaken
  split <;> simp

@[simp] theorem completeUntaken_now (k : Fin 16) (b : Byte) (r : OrderReason) : (s.completeUntaken k b r).control.now = s.control.now :=
  now_of_settings (by simp)

@[simp] theorem completeUntaken_runState (k : Fin 16) (b : Byte) (r : OrderReason) : (s.completeUntaken k b r).control.runState = s.control.runState :=
  runState_of_settings (by simp)

@[simp] theorem completeUntaken_monitor (k : Fin 16) (b : Byte) (r : OrderReason) :
    (s.completeUntaken k b r).monitor = s.monitor := by
  unfold completeUntaken
  split <;> simp

@[simp] theorem completeUntaken_uplink (k : Fin 16) (b : Byte) (r : OrderReason) (v : Fin 32) : (s.completeUntaken k b r).uplink v = s.uplink v := by simp [uplink]

@[simp] theorem completeUntaken_conduits (k : Fin 16) (b : Byte) (r : OrderReason) :
    (s.completeUntaken k b r).conduits = s.conduits := by
  unfold completeUntaken
  split <;> simp

@[simp] theorem completeUntaken_alarm (k : Fin 16) (b : Byte) (r : OrderReason) (cd : Fin 64) : (s.completeUntaken k b r).alarm cd = s.alarm cd := by simp [alarm]

@[simp] theorem completeUntaken_groups (k : Fin 16) (b : Byte) (r : OrderReason) :
    (s.completeUntaken k b r).groups = s.groups := by
  unfold completeUntaken
  split <;> simp

@[simp] theorem completeUntaken_group (k : Fin 16) (b : Byte) (r : OrderReason) (gr : Nat) : (s.completeUntaken k b r).group gr = s.group gr := by simp [group]

@[simp] theorem completeUntaken_store (k : Fin 16) (b : Byte) (r : OrderReason) :
    (s.completeUntaken k b r).store = s.store := by
  unfold completeUntaken
  split <;> simp

@[simp] theorem completeUntaken_port (k : Fin 16) (b : Byte) (r : OrderReason) :
    (s.completeUntaken k b r).port = s.port := by
  unfold completeUntaken
  split <;> simp

@[simp] theorem completeUntaken_engine (k : Fin 16) (b : Byte) (r : OrderReason) :
    (s.completeUntaken k b r).engine = s.engine := by
  unfold completeUntaken
  split <;> simp

@[simp] theorem completeUntaken_plan (k : Fin 16) (b : Byte) (r : OrderReason) :
    (s.completeUntaken k b r).area.plan = s.area.plan := by
  unfold completeUntaken
  split <;> simp

@[simp] theorem completeUntaken_layout (k : Fin 16) (b : Byte) (r : OrderReason) :
    (s.completeUntaken k b r).area.layout = s.area.layout := by
  unfold completeUntaken
  split <;> simp

@[simp] theorem completeUntaken_groupRows (k : Fin 16) (b : Byte) (r : OrderReason) :
    (s.completeUntaken k b r).area.groupRows = s.area.groupRows := by
  unfold completeUntaken
  split <;> simp

@[simp] theorem completeUntaken_openCount (k : Fin 16) (b : Byte) (r : OrderReason) :
    (s.completeUntaken k b r).openCount = s.openCount := by
  unfold completeUntaken
  split <;> simp

@[simp] theorem completeUntaken_pending (k : Fin 16) (b : Byte) (r : OrderReason) :
    (s.completeUntaken k b r).pending = s.pending := by
  unfold completeUntaken
  split <;> simp

@[simp] theorem markRebuild_control (g : Nat) :
    (s.markRebuild g).control = s.control := by
  unfold markRebuild
  split <;> simp

@[simp] theorem markRebuild_monitor (g : Nat) :
    (s.markRebuild g).monitor = s.monitor := by
  unfold markRebuild
  split <;> simp

@[simp] theorem markRebuild_uplink (g : Nat) (v : Fin 32) : (s.markRebuild g).uplink v = s.uplink v := by simp [uplink]

@[simp] theorem markRebuild_conduits (g : Nat) :
    (s.markRebuild g).conduits = s.conduits := by
  unfold markRebuild
  split <;> simp

@[simp] theorem markRebuild_alarm (g : Nat) (cd : Fin 64) : (s.markRebuild g).alarm cd = s.alarm cd := by simp [alarm]

@[simp] theorem markRebuild_store (g : Nat) :
    (s.markRebuild g).store = s.store := by
  unfold markRebuild
  split <;> simp

@[simp] theorem markRebuild_port (g : Nat) :
    (s.markRebuild g).port = s.port := by
  unfold markRebuild
  split <;> simp

@[simp] theorem markRebuild_engine (g : Nat) :
    (s.markRebuild g).engine = s.engine := by
  unfold markRebuild
  split <;> simp

@[simp] theorem markRebuild_area (g : Nat) :
    (s.markRebuild g).area = s.area := by
  unfold markRebuild
  split <;> simp

@[simp] theorem markRebuild_openCount (g : Nat) :
    (s.markRebuild g).openCount = s.openCount := by
  unfold markRebuild
  split <;> simp

@[simp] theorem markRebuild_pending (g : Nat) :
    (s.markRebuild g).pending = s.pending := by
  unfold markRebuild
  split <;> simp

@[simp] theorem compareStrandedness_settings (g : Nat) :
    (s.compareStrandedness g).control.settings = s.control.settings := by
  unfold compareStrandedness
  dsimp only
  (repeat' split) <;> simp

@[simp] theorem compareStrandedness_now (g : Nat) : (s.compareStrandedness g).control.now = s.control.now :=
  now_of_settings (by simp)

@[simp] theorem compareStrandedness_runState (g : Nat) : (s.compareStrandedness g).control.runState = s.control.runState :=
  runState_of_settings (by simp)

@[simp] theorem compareStrandedness_monitor (g : Nat) :
    (s.compareStrandedness g).monitor = s.monitor := by
  unfold compareStrandedness
  dsimp only
  (repeat' split) <;> simp

@[simp] theorem compareStrandedness_uplink (g : Nat) (v : Fin 32) : (s.compareStrandedness g).uplink v = s.uplink v := by simp [uplink]

@[simp] theorem compareStrandedness_conduits (g : Nat) :
    (s.compareStrandedness g).conduits = s.conduits := by
  unfold compareStrandedness
  dsimp only
  (repeat' split) <;> simp

@[simp] theorem compareStrandedness_alarm (g : Nat) (cd : Fin 64) : (s.compareStrandedness g).alarm cd = s.alarm cd := by simp [alarm]

@[simp] theorem compareStrandedness_store (g : Nat) :
    (s.compareStrandedness g).store = s.store := by
  unfold compareStrandedness
  dsimp only
  (repeat' split) <;> simp

@[simp] theorem compareStrandedness_port (g : Nat) :
    (s.compareStrandedness g).port = s.port := by
  unfold compareStrandedness
  dsimp only
  (repeat' split) <;> simp

@[simp] theorem compareStrandedness_engine (g : Nat) :
    (s.compareStrandedness g).engine = s.engine := by
  unfold compareStrandedness
  dsimp only
  (repeat' split) <;> simp

@[simp] theorem compareStrandedness_plan (g : Nat) :
    (s.compareStrandedness g).area.plan = s.area.plan := by
  unfold compareStrandedness
  dsimp only
  (repeat' split) <;> simp

@[simp] theorem compareStrandedness_layout (g : Nat) :
    (s.compareStrandedness g).area.layout = s.area.layout := by
  unfold compareStrandedness
  dsimp only
  (repeat' split) <;> simp

@[simp] theorem compareStrandedness_groupRows (g : Nat) :
    (s.compareStrandedness g).area.groupRows = s.area.groupRows := by
  unfold compareStrandedness
  dsimp only
  (repeat' split) <;> simp

@[simp] theorem compareStrandedness_openCount (g : Nat) :
    (s.compareStrandedness g).openCount = s.openCount := by
  unfold compareStrandedness
  dsimp only
  (repeat' split) <;> simp

@[simp] theorem compareStrandedness_pending (g : Nat) :
    (s.compareStrandedness g).pending = s.pending := by
  unfold compareStrandedness
  dsimp only
  (repeat' split) <;> simp

@[simp] theorem takePin_settings (o : OrderInHand) :
    (s.takePin o).control.settings = s.control.settings := by
  unfold takePin
  dsimp only
  (repeat' split) <;> simp

@[simp] theorem takePin_now (o : OrderInHand) : (s.takePin o).control.now = s.control.now :=
  now_of_settings (by simp)

@[simp] theorem takePin_runState (o : OrderInHand) : (s.takePin o).control.runState = s.control.runState :=
  runState_of_settings (by simp)

@[simp] theorem takePin_monitor (o : OrderInHand) :
    (s.takePin o).monitor = s.monitor := by
  unfold takePin
  dsimp only
  (repeat' split) <;> simp

@[simp] theorem takePin_uplink (o : OrderInHand) (v : Fin 32) : (s.takePin o).uplink v = s.uplink v := by simp [uplink]

@[simp] theorem takePin_conduits (o : OrderInHand) :
    (s.takePin o).conduits = s.conduits := by
  unfold takePin
  dsimp only
  (repeat' split) <;> simp

@[simp] theorem takePin_alarm (o : OrderInHand) (cd : Fin 64) : (s.takePin o).alarm cd = s.alarm cd := by simp [alarm]

@[simp] theorem takePin_store (o : OrderInHand) :
    (s.takePin o).store = s.store := by
  unfold takePin
  dsimp only
  (repeat' split) <;> simp

@[simp] theorem takePin_port (o : OrderInHand) :
    (s.takePin o).port = s.port := by
  unfold takePin
  dsimp only
  (repeat' split) <;> simp

@[simp] theorem takePin_engine (o : OrderInHand) :
    (s.takePin o).engine = s.engine := by
  unfold takePin
  dsimp only
  (repeat' split) <;> simp

@[simp] theorem takePin_plan (o : OrderInHand) :
    (s.takePin o).area.plan = s.area.plan := by
  unfold takePin
  dsimp only
  (repeat' split) <;> simp

@[simp] theorem takePin_layout (o : OrderInHand) :
    (s.takePin o).area.layout = s.area.layout := by
  unfold takePin
  dsimp only
  (repeat' split) <;> simp

@[simp] theorem takePin_groupRows (o : OrderInHand) :
    (s.takePin o).area.groupRows = s.area.groupRows := by
  unfold takePin
  dsimp only
  (repeat' split) <;> simp

@[simp] theorem takePin_openCount (o : OrderInHand) :
    (s.takePin o).openCount = s.openCount := by
  unfold takePin
  dsimp only
  (repeat' split) <;> simp

@[simp] theorem takePin_pending (o : OrderInHand) :
    (s.takePin o).pending = s.pending := by
  unfold takePin
  dsimp only
  (repeat' split) <;> simp

@[simp] theorem takeUnpin_settings (o : OrderInHand) :
    (s.takeUnpin o).control.settings = s.control.settings := by
  unfold takeUnpin
  dsimp only
  (repeat' split) <;> simp

@[simp] theorem takeUnpin_now (o : OrderInHand) : (s.takeUnpin o).control.now = s.control.now :=
  now_of_settings (by simp)

@[simp] theorem takeUnpin_runState (o : OrderInHand) : (s.takeUnpin o).control.runState = s.control.runState :=
  runState_of_settings (by simp)

@[simp] theorem takeUnpin_monitor (o : OrderInHand) :
    (s.takeUnpin o).monitor = s.monitor := by
  unfold takeUnpin
  dsimp only
  (repeat' split) <;> simp

@[simp] theorem takeUnpin_uplink (o : OrderInHand) (v : Fin 32) : (s.takeUnpin o).uplink v = s.uplink v := by simp [uplink]

@[simp] theorem takeUnpin_conduits (o : OrderInHand) :
    (s.takeUnpin o).conduits = s.conduits := by
  unfold takeUnpin
  dsimp only
  (repeat' split) <;> simp

@[simp] theorem takeUnpin_alarm (o : OrderInHand) (cd : Fin 64) : (s.takeUnpin o).alarm cd = s.alarm cd := by simp [alarm]

@[simp] theorem takeUnpin_store (o : OrderInHand) :
    (s.takeUnpin o).store = s.store := by
  unfold takeUnpin
  dsimp only
  (repeat' split) <;> simp

@[simp] theorem takeUnpin_port (o : OrderInHand) :
    (s.takeUnpin o).port = s.port := by
  unfold takeUnpin
  dsimp only
  (repeat' split) <;> simp

@[simp] theorem takeUnpin_engine (o : OrderInHand) :
    (s.takeUnpin o).engine = s.engine := by
  unfold takeUnpin
  dsimp only
  (repeat' split) <;> simp

@[simp] theorem takeUnpin_plan (o : OrderInHand) :
    (s.takeUnpin o).area.plan = s.area.plan := by
  unfold takeUnpin
  dsimp only
  (repeat' split) <;> simp

@[simp] theorem takeUnpin_layout (o : OrderInHand) :
    (s.takeUnpin o).area.layout = s.area.layout := by
  unfold takeUnpin
  dsimp only
  (repeat' split) <;> simp

@[simp] theorem takeUnpin_groupRows (o : OrderInHand) :
    (s.takeUnpin o).area.groupRows = s.area.groupRows := by
  unfold takeUnpin
  dsimp only
  (repeat' split) <;> simp

@[simp] theorem takeUnpin_openCount (o : OrderInHand) :
    (s.takeUnpin o).openCount = s.openCount := by
  unfold takeUnpin
  dsimp only
  (repeat' split) <;> simp

@[simp] theorem takeUnpin_pending (o : OrderInHand) :
    (s.takeUnpin o).pending = s.pending := by
  unfold takeUnpin
  dsimp only
  (repeat' split) <;> simp

@[simp] theorem checkPin_settings (g : Nat) (old new : GroupFields) :
    (s.checkPin g old new).control.settings = s.control.settings := by
  unfold checkPin
  (repeat' split) <;> simp

@[simp] theorem checkPin_now (g : Nat) (old new : GroupFields) : (s.checkPin g old new).control.now = s.control.now :=
  now_of_settings (by simp)

@[simp] theorem checkPin_runState (g : Nat) (old new : GroupFields) : (s.checkPin g old new).control.runState = s.control.runState :=
  runState_of_settings (by simp)

@[simp] theorem checkPin_monitor (g : Nat) (old new : GroupFields) :
    (s.checkPin g old new).monitor = s.monitor := by
  unfold checkPin
  (repeat' split) <;> simp

@[simp] theorem checkPin_uplink (g : Nat) (old new : GroupFields) (v : Fin 32) : (s.checkPin g old new).uplink v = s.uplink v := by simp [uplink]

@[simp] theorem checkPin_conduits (g : Nat) (old new : GroupFields) :
    (s.checkPin g old new).conduits = s.conduits := by
  unfold checkPin
  (repeat' split) <;> simp

@[simp] theorem checkPin_alarm (g : Nat) (old new : GroupFields) (cd : Fin 64) : (s.checkPin g old new).alarm cd = s.alarm cd := by simp [alarm]

@[simp] theorem checkPin_store (g : Nat) (old new : GroupFields) :
    (s.checkPin g old new).store = s.store := by
  unfold checkPin
  (repeat' split) <;> simp

@[simp] theorem checkPin_port (g : Nat) (old new : GroupFields) :
    (s.checkPin g old new).port = s.port := by
  unfold checkPin
  (repeat' split) <;> simp

@[simp] theorem checkPin_engine (g : Nat) (old new : GroupFields) :
    (s.checkPin g old new).engine = s.engine := by
  unfold checkPin
  (repeat' split) <;> simp

@[simp] theorem checkPin_plan (g : Nat) (old new : GroupFields) :
    (s.checkPin g old new).area.plan = s.area.plan := by
  unfold checkPin
  (repeat' split) <;> simp

@[simp] theorem checkPin_layout (g : Nat) (old new : GroupFields) :
    (s.checkPin g old new).area.layout = s.area.layout := by
  unfold checkPin
  (repeat' split) <;> simp

@[simp] theorem checkPin_groupRows (g : Nat) (old new : GroupFields) :
    (s.checkPin g old new).area.groupRows = s.area.groupRows := by
  unfold checkPin
  (repeat' split) <;> simp

@[simp] theorem checkPin_openCount (g : Nat) (old new : GroupFields) :
    (s.checkPin g old new).openCount = s.openCount := by
  unfold checkPin
  (repeat' split) <;> simp

@[simp] theorem checkPin_pending (g : Nat) (old new : GroupFields) :
    (s.checkPin g old new).pending = s.pending := by
  unfold checkPin
  (repeat' split) <;> simp

@[simp] theorem setOwners_control (f : Nat → Owner) (l : List Nat) (n : Nat) :
    (s.setOwners f l n).control = s.control := by
  induction l generalizing s n with
  | nil => rfl
  | cons k t ih => simp [setOwners, ih]

@[simp] theorem setOwners_monitor (f : Nat → Owner) (l : List Nat) (n : Nat) :
    (s.setOwners f l n).monitor = s.monitor := by
  induction l generalizing s n with
  | nil => rfl
  | cons k t ih => simp [setOwners, ih]

@[simp] theorem setOwners_uplink (f : Nat → Owner) (l : List Nat) (n : Nat) (v : Fin 32) : (s.setOwners f l n).uplink v = s.uplink v := by simp [uplink]

@[simp] theorem setOwners_conduits (f : Nat → Owner) (l : List Nat) (n : Nat) :
    (s.setOwners f l n).conduits = s.conduits := by
  induction l generalizing s n with
  | nil => rfl
  | cons k t ih => simp [setOwners, ih]

@[simp] theorem setOwners_alarm (f : Nat → Owner) (l : List Nat) (n : Nat) (cd : Fin 64) : (s.setOwners f l n).alarm cd = s.alarm cd := by simp [alarm]

@[simp] theorem setOwners_groups (f : Nat → Owner) (l : List Nat) (n : Nat) :
    (s.setOwners f l n).groups = s.groups := by
  induction l generalizing s n with
  | nil => rfl
  | cons k t ih => simp [setOwners, ih]

@[simp] theorem setOwners_group (f : Nat → Owner) (l : List Nat) (n : Nat) (gr : Nat) : (s.setOwners f l n).group gr = s.group gr := by simp [group]

@[simp] theorem setOwners_store_memory (f : Nat → Owner) (l : List Nat) (n : Nat) :
    (s.setOwners f l n).store.memory = s.store.memory := by
  induction l generalizing s n with
  | nil => rfl
  | cons k t ih => simp [setOwners, ih]

@[simp] theorem setOwners_store_loads (f : Nat → Owner) (l : List Nat) (n : Nat) :
    (s.setOwners f l n).store.loads = s.store.loads := by
  induction l generalizing s n with
  | nil => rfl
  | cons k t ih => simp [setOwners, ih]

@[simp] theorem setOwners_store_fixQueue (f : Nat → Owner) (l : List Nat) (n : Nat) :
    (s.setOwners f l n).store.fixQueue = s.store.fixQueue := by
  induction l generalizing s n with
  | nil => rfl
  | cons k t ih => simp [setOwners, ih]

@[simp] theorem setOwners_store_access (f : Nat → Owner) (l : List Nat) (n : Nat) :
    (s.setOwners f l n).store.access = s.store.access := by
  induction l generalizing s n with
  | nil => rfl
  | cons k t ih => simp [setOwners, ih]

@[simp] theorem setOwners_store_burst (f : Nat → Owner) (l : List Nat) (n : Nat) :
    (s.setOwners f l n).store.burst = s.store.burst := by
  induction l generalizing s n with
  | nil => rfl
  | cons k t ih => simp [setOwners, ih]

@[simp] theorem setOwners_store_snapshot (f : Nat → Owner) (l : List Nat) (n : Nat) :
    (s.setOwners f l n).store.snapshot = s.store.snapshot := by
  induction l generalizing s n with
  | nil => rfl
  | cons k t ih => simp [setOwners, ih]

@[simp] theorem setOwners_port (f : Nat → Owner) (l : List Nat) (n : Nat) :
    (s.setOwners f l n).port = s.port := by
  induction l generalizing s n with
  | nil => rfl
  | cons k t ih => simp [setOwners, ih]

@[simp] theorem setOwners_engine (f : Nat → Owner) (l : List Nat) (n : Nat) :
    (s.setOwners f l n).engine = s.engine := by
  induction l generalizing s n with
  | nil => rfl
  | cons k t ih => simp [setOwners, ih]

@[simp] theorem setOwners_area (f : Nat → Owner) (l : List Nat) (n : Nat) :
    (s.setOwners f l n).area = s.area := by
  induction l generalizing s n with
  | nil => rfl
  | cons k t ih => simp [setOwners, ih]

@[simp] theorem setOwners_openCount (f : Nat → Owner) (l : List Nat) (n : Nat) :
    (s.setOwners f l n).openCount = s.openCount := by
  induction l generalizing s n with
  | nil => rfl
  | cons k t ih => simp [setOwners, ih]

@[simp] theorem setOwners_pending (f : Nat → Owner) (l : List Nat) (n : Nat) :
    (s.setOwners f l n).pending = s.pending := by
  induction l generalizing s n with
  | nil => rfl
  | cons k t ih => simp [setOwners, ih]

@[simp] theorem freeBlocks_control (l : List Nat) :
    (s.freeBlocks l).control = s.control := by
  unfold freeBlocks
  simp

@[simp] theorem freeBlocks_monitor (l : List Nat) :
    (s.freeBlocks l).monitor = s.monitor := by
  unfold freeBlocks
  simp

@[simp] theorem freeBlocks_uplink (l : List Nat) (v : Fin 32) : (s.freeBlocks l).uplink v = s.uplink v := by simp [uplink]

@[simp] theorem freeBlocks_conduits (l : List Nat) :
    (s.freeBlocks l).conduits = s.conduits := by
  unfold freeBlocks
  simp

@[simp] theorem freeBlocks_alarm (l : List Nat) (cd : Fin 64) : (s.freeBlocks l).alarm cd = s.alarm cd := by simp [alarm]

@[simp] theorem freeBlocks_groups (l : List Nat) :
    (s.freeBlocks l).groups = s.groups := by
  unfold freeBlocks
  simp

@[simp] theorem freeBlocks_group (l : List Nat) (gr : Nat) : (s.freeBlocks l).group gr = s.group gr := by simp [group]

@[simp] theorem freeBlocks_store_memory (l : List Nat) :
    (s.freeBlocks l).store.memory = s.store.memory := by
  unfold freeBlocks
  simp

@[simp] theorem freeBlocks_store_loads (l : List Nat) :
    (s.freeBlocks l).store.loads = s.store.loads := by
  unfold freeBlocks
  simp

@[simp] theorem freeBlocks_store_fixQueue (l : List Nat) :
    (s.freeBlocks l).store.fixQueue = s.store.fixQueue := by
  unfold freeBlocks
  simp

@[simp] theorem freeBlocks_store_access (l : List Nat) :
    (s.freeBlocks l).store.access = s.store.access := by
  unfold freeBlocks
  simp

@[simp] theorem freeBlocks_store_burst (l : List Nat) :
    (s.freeBlocks l).store.burst = s.store.burst := by
  unfold freeBlocks
  simp

@[simp] theorem freeBlocks_store_snapshot (l : List Nat) :
    (s.freeBlocks l).store.snapshot = s.store.snapshot := by
  unfold freeBlocks
  simp

@[simp] theorem freeBlocks_port (l : List Nat) :
    (s.freeBlocks l).port = s.port := by
  unfold freeBlocks
  simp

@[simp] theorem freeBlocks_engine (l : List Nat) :
    (s.freeBlocks l).engine = s.engine := by
  unfold freeBlocks
  simp

@[simp] theorem freeBlocks_area (l : List Nat) :
    (s.freeBlocks l).area = s.area := by
  unfold freeBlocks
  simp

@[simp] theorem freeBlocks_openCount (l : List Nat) :
    (s.freeBlocks l).openCount = s.openCount := by
  unfold freeBlocks
  simp

@[simp] theorem freeBlocks_pending (l : List Nat) :
    (s.freeBlocks l).pending = s.pending := by
  unfold freeBlocks
  simp

@[simp] theorem moveLoad_control (f : GroupFields) (a b : Nat) :
    (s.moveLoad f a b).control = s.control := by
  unfold moveLoad
  split <;> simp

@[simp] theorem moveLoad_monitor (f : GroupFields) (a b : Nat) :
    (s.moveLoad f a b).monitor = s.monitor := by
  unfold moveLoad
  split <;> simp

@[simp] theorem moveLoad_uplink (f : GroupFields) (a b : Nat) (v : Fin 32) : (s.moveLoad f a b).uplink v = s.uplink v := by simp [uplink]

@[simp] theorem moveLoad_conduits (f : GroupFields) (a b : Nat) :
    (s.moveLoad f a b).conduits = s.conduits := by
  unfold moveLoad
  split <;> simp

@[simp] theorem moveLoad_alarm (f : GroupFields) (a b : Nat) (cd : Fin 64) : (s.moveLoad f a b).alarm cd = s.alarm cd := by simp [alarm]

@[simp] theorem moveLoad_groups (f : GroupFields) (a b : Nat) :
    (s.moveLoad f a b).groups = s.groups := by
  unfold moveLoad
  split <;> simp

@[simp] theorem moveLoad_group (f : GroupFields) (a b : Nat) (gr : Nat) : (s.moveLoad f a b).group gr = s.group gr := by simp [group]

@[simp] theorem moveLoad_store_memory (f : GroupFields) (a b : Nat) :
    (s.moveLoad f a b).store.memory = s.store.memory := by
  unfold moveLoad
  split <;> simp

@[simp] theorem moveLoad_store_owners (f : GroupFields) (a b : Nat) :
    (s.moveLoad f a b).store.owners = s.store.owners := by
  unfold moveLoad
  split <;> simp

@[simp] theorem moveLoad_store_fixQueue (f : GroupFields) (a b : Nat) :
    (s.moveLoad f a b).store.fixQueue = s.store.fixQueue := by
  unfold moveLoad
  split <;> simp

@[simp] theorem moveLoad_store_access (f : GroupFields) (a b : Nat) :
    (s.moveLoad f a b).store.access = s.store.access := by
  unfold moveLoad
  split <;> simp

@[simp] theorem moveLoad_store_burst (f : GroupFields) (a b : Nat) :
    (s.moveLoad f a b).store.burst = s.store.burst := by
  unfold moveLoad
  split <;> simp

@[simp] theorem moveLoad_store_snapshot (f : GroupFields) (a b : Nat) :
    (s.moveLoad f a b).store.snapshot = s.store.snapshot := by
  unfold moveLoad
  split <;> simp

@[simp] theorem moveLoad_port (f : GroupFields) (a b : Nat) :
    (s.moveLoad f a b).port = s.port := by
  unfold moveLoad
  split <;> simp

@[simp] theorem moveLoad_engine (f : GroupFields) (a b : Nat) :
    (s.moveLoad f a b).engine = s.engine := by
  unfold moveLoad
  split <;> simp

@[simp] theorem moveLoad_area (f : GroupFields) (a b : Nat) :
    (s.moveLoad f a b).area = s.area := by
  unfold moveLoad
  split <;> simp

@[simp] theorem moveLoad_openCount (f : GroupFields) (a b : Nat) :
    (s.moveLoad f a b).openCount = s.openCount := by
  unfold moveLoad
  split <;> simp

@[simp] theorem moveLoad_pending (f : GroupFields) (a b : Nat) :
    (s.moveLoad f a b).pending = s.pending := by
  unfold moveLoad
  split <;> simp

@[simp] theorem writeLiveBucket_settings (g b h c : Nat) (f : Option FoundBy) :
    (s.writeLiveBucket g b h c f).control.settings = s.control.settings := by
  unfold writeLiveBucket
  (repeat' split) <;> simp

@[simp] theorem writeLiveBucket_now (g b h c : Nat) (f : Option FoundBy) : (s.writeLiveBucket g b h c f).control.now = s.control.now :=
  now_of_settings (by simp)

@[simp] theorem writeLiveBucket_runState (g b h c : Nat) (f : Option FoundBy) : (s.writeLiveBucket g b h c f).control.runState = s.control.runState :=
  runState_of_settings (by simp)

@[simp] theorem writeLiveBucket_monitor (g b h c : Nat) (f : Option FoundBy) :
    (s.writeLiveBucket g b h c f).monitor = s.monitor := by
  unfold writeLiveBucket
  (repeat' split) <;> simp

@[simp] theorem writeLiveBucket_uplink (g b h c : Nat) (f : Option FoundBy) (v : Fin 32) : (s.writeLiveBucket g b h c f).uplink v = s.uplink v := by simp [uplink]

@[simp] theorem writeLiveBucket_conduits (g b h c : Nat) (f : Option FoundBy) :
    (s.writeLiveBucket g b h c f).conduits = s.conduits := by
  unfold writeLiveBucket
  (repeat' split) <;> simp

@[simp] theorem writeLiveBucket_alarm (g b h c : Nat) (f : Option FoundBy) (cd : Fin 64) : (s.writeLiveBucket g b h c f).alarm cd = s.alarm cd := by simp [alarm]

@[simp] theorem writeLiveBucket_groups (g b h c : Nat) (f : Option FoundBy) :
    (s.writeLiveBucket g b h c f).groups = s.groups := by
  unfold writeLiveBucket
  (repeat' split) <;> simp

@[simp] theorem writeLiveBucket_group (g b h c : Nat) (f : Option FoundBy) (gr : Nat) : (s.writeLiveBucket g b h c f).group gr = s.group gr := by simp [group]

@[simp] theorem writeLiveBucket_store_owners (g b h c : Nat) (f : Option FoundBy) :
    (s.writeLiveBucket g b h c f).store.owners = s.store.owners := by
  unfold writeLiveBucket
  (repeat' split) <;> simp

@[simp] theorem writeLiveBucket_store_fixQueue (g b h c : Nat) (f : Option FoundBy) :
    (s.writeLiveBucket g b h c f).store.fixQueue = s.store.fixQueue := by
  unfold writeLiveBucket
  (repeat' split) <;> simp

@[simp] theorem writeLiveBucket_store_access (g b h c : Nat) (f : Option FoundBy) :
    (s.writeLiveBucket g b h c f).store.access = s.store.access := by
  unfold writeLiveBucket
  (repeat' split) <;> simp

@[simp] theorem writeLiveBucket_store_burst (g b h c : Nat) (f : Option FoundBy) :
    (s.writeLiveBucket g b h c f).store.burst = s.store.burst := by
  unfold writeLiveBucket
  (repeat' split) <;> simp

@[simp] theorem writeLiveBucket_store_snapshot (g b h c : Nat) (f : Option FoundBy) :
    (s.writeLiveBucket g b h c f).store.snapshot = s.store.snapshot := by
  unfold writeLiveBucket
  (repeat' split) <;> simp

@[simp] theorem writeLiveBucket_port (g b h c : Nat) (f : Option FoundBy) :
    (s.writeLiveBucket g b h c f).port = s.port := by
  unfold writeLiveBucket
  (repeat' split) <;> simp

@[simp] theorem writeLiveBucket_engine (g b h c : Nat) (f : Option FoundBy) :
    (s.writeLiveBucket g b h c f).engine = s.engine := by
  unfold writeLiveBucket
  (repeat' split) <;> simp

@[simp] theorem writeLiveBucket_plan (g b h c : Nat) (f : Option FoundBy) :
    (s.writeLiveBucket g b h c f).area.plan = s.area.plan := by
  unfold writeLiveBucket
  (repeat' split) <;> simp

@[simp] theorem writeLiveBucket_layout (g b h c : Nat) (f : Option FoundBy) :
    (s.writeLiveBucket g b h c f).area.layout = s.area.layout := by
  unfold writeLiveBucket
  (repeat' split) <;> simp

@[simp] theorem writeLiveBucket_groupRows (g b h c : Nat) (f : Option FoundBy) :
    (s.writeLiveBucket g b h c f).area.groupRows = s.area.groupRows := by
  unfold writeLiveBucket
  (repeat' split) <;> simp

@[simp] theorem writeLiveBucket_openCount (g b h c : Nat) (f : Option FoundBy) :
    (s.writeLiveBucket g b h c f).openCount = s.openCount := by
  unfold writeLiveBucket
  (repeat' split) <;> simp

@[simp] theorem writeLiveBucket_pending (g b h c : Nat) (f : Option FoundBy) :
    (s.writeLiveBucket g b h c f).pending = s.pending := by
  unfold writeLiveBucket
  (repeat' split) <;> simp

@[simp] theorem offerFix_control (i : FixItem) :
    (s.offerFix i).control = s.control := by
  unfold offerFix
  (repeat' split) <;> simp

@[simp] theorem offerFix_monitor (i : FixItem) :
    (s.offerFix i).monitor = s.monitor := by
  unfold offerFix
  (repeat' split) <;> simp

@[simp] theorem offerFix_uplink (i : FixItem) (v : Fin 32) : (s.offerFix i).uplink v = s.uplink v := by simp [uplink]

@[simp] theorem offerFix_conduits (i : FixItem) :
    (s.offerFix i).conduits = s.conduits := by
  unfold offerFix
  (repeat' split) <;> simp

@[simp] theorem offerFix_alarm (i : FixItem) (cd : Fin 64) : (s.offerFix i).alarm cd = s.alarm cd := by simp [alarm]

@[simp] theorem offerFix_groups (i : FixItem) :
    (s.offerFix i).groups = s.groups := by
  unfold offerFix
  (repeat' split) <;> simp

@[simp] theorem offerFix_group (i : FixItem) (gr : Nat) : (s.offerFix i).group gr = s.group gr := by simp [group]

@[simp] theorem offerFix_store_memory (i : FixItem) :
    (s.offerFix i).store.memory = s.store.memory := by
  unfold offerFix
  (repeat' split) <;> simp

@[simp] theorem offerFix_store_owners (i : FixItem) :
    (s.offerFix i).store.owners = s.store.owners := by
  unfold offerFix
  (repeat' split) <;> simp

@[simp] theorem offerFix_store_loads (i : FixItem) :
    (s.offerFix i).store.loads = s.store.loads := by
  unfold offerFix
  (repeat' split) <;> simp

@[simp] theorem offerFix_store_access (i : FixItem) :
    (s.offerFix i).store.access = s.store.access := by
  unfold offerFix
  (repeat' split) <;> simp

@[simp] theorem offerFix_store_burst (i : FixItem) :
    (s.offerFix i).store.burst = s.store.burst := by
  unfold offerFix
  (repeat' split) <;> simp

@[simp] theorem offerFix_store_snapshot (i : FixItem) :
    (s.offerFix i).store.snapshot = s.store.snapshot := by
  unfold offerFix
  (repeat' split) <;> simp

@[simp] theorem offerFix_port (i : FixItem) :
    (s.offerFix i).port = s.port := by
  unfold offerFix
  (repeat' split) <;> simp

@[simp] theorem offerFix_area (i : FixItem) :
    (s.offerFix i).area = s.area := by
  unfold offerFix
  (repeat' split) <;> simp

@[simp] theorem offerFix_openCount (i : FixItem) :
    (s.offerFix i).openCount = s.openCount := by
  unfold offerFix
  (repeat' split) <;> simp

@[simp] theorem offerFix_pending (i : FixItem) :
    (s.offerFix i).pending = s.pending := by
  unfold offerFix
  (repeat' split) <;> simp

@[simp] theorem nextScrub_control (b : Burst) :
    (s.nextScrub b).control = s.control := by
  unfold nextScrub
  (repeat' split) <;> simp

@[simp] theorem nextScrub_monitor (b : Burst) :
    (s.nextScrub b).monitor = s.monitor := by
  unfold nextScrub
  (repeat' split) <;> simp

@[simp] theorem nextScrub_uplink (b : Burst) (v : Fin 32) : (s.nextScrub b).uplink v = s.uplink v := by simp [uplink]

@[simp] theorem nextScrub_conduits (b : Burst) :
    (s.nextScrub b).conduits = s.conduits := by
  unfold nextScrub
  (repeat' split) <;> simp

@[simp] theorem nextScrub_alarm (b : Burst) (cd : Fin 64) : (s.nextScrub b).alarm cd = s.alarm cd := by simp [alarm]

@[simp] theorem nextScrub_groups (b : Burst) :
    (s.nextScrub b).groups = s.groups := by
  unfold nextScrub
  (repeat' split) <;> simp

@[simp] theorem nextScrub_group (b : Burst) (gr : Nat) : (s.nextScrub b).group gr = s.group gr := by simp [group]

@[simp] theorem nextScrub_store_memory (b : Burst) :
    (s.nextScrub b).store.memory = s.store.memory := by
  unfold nextScrub
  (repeat' split) <;> simp

@[simp] theorem nextScrub_store_owners (b : Burst) :
    (s.nextScrub b).store.owners = s.store.owners := by
  unfold nextScrub
  (repeat' split) <;> simp

@[simp] theorem nextScrub_store_loads (b : Burst) :
    (s.nextScrub b).store.loads = s.store.loads := by
  unfold nextScrub
  (repeat' split) <;> simp

@[simp] theorem nextScrub_store_fixQueue (b : Burst) :
    (s.nextScrub b).store.fixQueue = s.store.fixQueue := by
  unfold nextScrub
  (repeat' split) <;> simp

@[simp] theorem nextScrub_store_access (b : Burst) :
    (s.nextScrub b).store.access = s.store.access := by
  unfold nextScrub
  (repeat' split) <;> simp

@[simp] theorem nextScrub_store_snapshot (b : Burst) :
    (s.nextScrub b).store.snapshot = s.store.snapshot := by
  unfold nextScrub
  (repeat' split) <;> simp

@[simp] theorem nextScrub_port (b : Burst) :
    (s.nextScrub b).port = s.port := by
  unfold nextScrub
  (repeat' split) <;> simp

@[simp] theorem nextScrub_engine (b : Burst) :
    (s.nextScrub b).engine = s.engine := by
  unfold nextScrub
  (repeat' split) <;> simp

@[simp] theorem nextScrub_area (b : Burst) :
    (s.nextScrub b).area = s.area := by
  unfold nextScrub
  (repeat' split) <;> simp

@[simp] theorem nextScrub_openCount (b : Burst) :
    (s.nextScrub b).openCount = s.openCount := by
  unfold nextScrub
  (repeat' split) <;> simp

@[simp] theorem nextScrub_pending (b : Burst) :
    (s.nextScrub b).pending = s.pending := by
  unfold nextScrub
  (repeat' split) <;> simp

@[simp] theorem scrubFault_control (b : Burst) (o : Owner) :
    (s.scrubFault b o).control = s.control := by
  unfold scrubFault
  dsimp only
  (repeat' split) <;> simp

@[simp] theorem scrubFault_monitor (b : Burst) (o : Owner) :
    (s.scrubFault b o).monitor = s.monitor := by
  unfold scrubFault
  dsimp only
  (repeat' split) <;> simp

@[simp] theorem scrubFault_uplink (b : Burst) (o : Owner) (v : Fin 32) : (s.scrubFault b o).uplink v = s.uplink v := by simp [uplink]

@[simp] theorem scrubFault_conduits (b : Burst) (o : Owner) :
    (s.scrubFault b o).conduits = s.conduits := by
  unfold scrubFault
  dsimp only
  (repeat' split) <;> simp

@[simp] theorem scrubFault_alarm (b : Burst) (o : Owner) (cd : Fin 64) : (s.scrubFault b o).alarm cd = s.alarm cd := by simp [alarm]

@[simp] theorem scrubFault_store_memory (b : Burst) (o : Owner) :
    (s.scrubFault b o).store.memory = s.store.memory := by
  unfold scrubFault
  dsimp only
  (repeat' split) <;> simp

@[simp] theorem scrubFault_store_owners (b : Burst) (o : Owner) :
    (s.scrubFault b o).store.owners = s.store.owners := by
  unfold scrubFault
  dsimp only
  (repeat' split) <;> simp

@[simp] theorem scrubFault_store_loads (b : Burst) (o : Owner) :
    (s.scrubFault b o).store.loads = s.store.loads := by
  unfold scrubFault
  dsimp only
  (repeat' split) <;> simp

@[simp] theorem scrubFault_store_access (b : Burst) (o : Owner) :
    (s.scrubFault b o).store.access = s.store.access := by
  unfold scrubFault
  dsimp only
  (repeat' split) <;> simp

@[simp] theorem scrubFault_store_snapshot (b : Burst) (o : Owner) :
    (s.scrubFault b o).store.snapshot = s.store.snapshot := by
  unfold scrubFault
  dsimp only
  (repeat' split) <;> simp

@[simp] theorem scrubFault_port (b : Burst) (o : Owner) :
    (s.scrubFault b o).port = s.port := by
  unfold scrubFault
  dsimp only
  (repeat' split) <;> simp

@[simp] theorem scrubFault_area (b : Burst) (o : Owner) :
    (s.scrubFault b o).area = s.area := by
  unfold scrubFault
  dsimp only
  (repeat' split) <;> simp

@[simp] theorem scrubFault_openCount (b : Burst) (o : Owner) :
    (s.scrubFault b o).openCount = s.openCount := by
  unfold scrubFault
  dsimp only
  (repeat' split) <;> simp

@[simp] theorem scrubFault_pending (b : Burst) (o : Owner) :
    (s.scrubFault b o).pending = s.pending := by
  unfold scrubFault
  dsimp only
  (repeat' split) <;> simp

@[simp] theorem takeSnapshot_settings (o : OrderInHand) :
    (s.takeSnapshot o).control.settings = s.control.settings := by
  unfold takeSnapshot
  dsimp only
  (repeat' split) <;> simp

@[simp] theorem takeSnapshot_now (o : OrderInHand) : (s.takeSnapshot o).control.now = s.control.now :=
  now_of_settings (by simp)

@[simp] theorem takeSnapshot_runState (o : OrderInHand) : (s.takeSnapshot o).control.runState = s.control.runState :=
  runState_of_settings (by simp)

@[simp] theorem takeSnapshot_monitor (o : OrderInHand) :
    (s.takeSnapshot o).monitor = s.monitor := by
  unfold takeSnapshot
  dsimp only
  (repeat' split) <;> simp

@[simp] theorem takeSnapshot_uplink (o : OrderInHand) (v : Fin 32) : (s.takeSnapshot o).uplink v = s.uplink v := by simp [uplink]

@[simp] theorem takeSnapshot_conduits (o : OrderInHand) :
    (s.takeSnapshot o).conduits = s.conduits := by
  unfold takeSnapshot
  dsimp only
  (repeat' split) <;> simp

@[simp] theorem takeSnapshot_alarm (o : OrderInHand) (cd : Fin 64) : (s.takeSnapshot o).alarm cd = s.alarm cd := by simp [alarm]

@[simp] theorem takeSnapshot_groups (o : OrderInHand) :
    (s.takeSnapshot o).groups = s.groups := by
  unfold takeSnapshot
  dsimp only
  (repeat' split) <;> simp

@[simp] theorem takeSnapshot_group (o : OrderInHand) (gr : Nat) : (s.takeSnapshot o).group gr = s.group gr := by simp [group]

@[simp] theorem takeSnapshot_store_memory (o : OrderInHand) :
    (s.takeSnapshot o).store.memory = s.store.memory := by
  unfold takeSnapshot
  dsimp only
  (repeat' split) <;> simp

@[simp] theorem takeSnapshot_store_owners (o : OrderInHand) :
    (s.takeSnapshot o).store.owners = s.store.owners := by
  unfold takeSnapshot
  dsimp only
  (repeat' split) <;> simp

@[simp] theorem takeSnapshot_store_loads (o : OrderInHand) :
    (s.takeSnapshot o).store.loads = s.store.loads := by
  unfold takeSnapshot
  dsimp only
  (repeat' split) <;> simp

@[simp] theorem takeSnapshot_store_fixQueue (o : OrderInHand) :
    (s.takeSnapshot o).store.fixQueue = s.store.fixQueue := by
  unfold takeSnapshot
  dsimp only
  (repeat' split) <;> simp

@[simp] theorem takeSnapshot_store_access (o : OrderInHand) :
    (s.takeSnapshot o).store.access = s.store.access := by
  unfold takeSnapshot
  dsimp only
  (repeat' split) <;> simp

@[simp] theorem takeSnapshot_store_burst (o : OrderInHand) :
    (s.takeSnapshot o).store.burst = s.store.burst := by
  unfold takeSnapshot
  dsimp only
  (repeat' split) <;> simp

@[simp] theorem takeSnapshot_port (o : OrderInHand) :
    (s.takeSnapshot o).port = s.port := by
  unfold takeSnapshot
  dsimp only
  (repeat' split) <;> simp

@[simp] theorem takeSnapshot_engine (o : OrderInHand) :
    (s.takeSnapshot o).engine = s.engine := by
  unfold takeSnapshot
  dsimp only
  (repeat' split) <;> simp

@[simp] theorem takeSnapshot_plan (o : OrderInHand) :
    (s.takeSnapshot o).area.plan = s.area.plan := by
  unfold takeSnapshot
  dsimp only
  (repeat' split) <;> simp

@[simp] theorem takeSnapshot_layout (o : OrderInHand) :
    (s.takeSnapshot o).area.layout = s.area.layout := by
  unfold takeSnapshot
  dsimp only
  (repeat' split) <;> simp

@[simp] theorem takeSnapshot_groupRows (o : OrderInHand) :
    (s.takeSnapshot o).area.groupRows = s.area.groupRows := by
  unfold takeSnapshot
  dsimp only
  (repeat' split) <;> simp

@[simp] theorem takeSnapshot_openCount (o : OrderInHand) :
    (s.takeSnapshot o).openCount = s.openCount := by
  unfold takeSnapshot
  dsimp only
  (repeat' split) <;> simp

@[simp] theorem takeSnapshot_pending (o : OrderInHand) :
    (s.takeSnapshot o).pending = s.pending := by
  unfold takeSnapshot
  dsimp only
  (repeat' split) <;> simp

@[simp] theorem replaceSnapshot_settings (g : Nat) :
    (s.replaceSnapshot g).control.settings = s.control.settings := by
  unfold replaceSnapshot
  (repeat' split) <;> simp

@[simp] theorem replaceSnapshot_now (g : Nat) : (s.replaceSnapshot g).control.now = s.control.now :=
  now_of_settings (by simp)

@[simp] theorem replaceSnapshot_runState (g : Nat) : (s.replaceSnapshot g).control.runState = s.control.runState :=
  runState_of_settings (by simp)

@[simp] theorem replaceSnapshot_monitor (g : Nat) :
    (s.replaceSnapshot g).monitor = s.monitor := by
  unfold replaceSnapshot
  (repeat' split) <;> simp

@[simp] theorem replaceSnapshot_uplink (g : Nat) (v : Fin 32) : (s.replaceSnapshot g).uplink v = s.uplink v := by simp [uplink]

@[simp] theorem replaceSnapshot_conduits (g : Nat) :
    (s.replaceSnapshot g).conduits = s.conduits := by
  unfold replaceSnapshot
  (repeat' split) <;> simp

@[simp] theorem replaceSnapshot_alarm (g : Nat) (cd : Fin 64) : (s.replaceSnapshot g).alarm cd = s.alarm cd := by simp [alarm]

@[simp] theorem replaceSnapshot_groups (g : Nat) :
    (s.replaceSnapshot g).groups = s.groups := by
  unfold replaceSnapshot
  (repeat' split) <;> simp

@[simp] theorem replaceSnapshot_group (g : Nat) (gr : Nat) : (s.replaceSnapshot g).group gr = s.group gr := by simp [group]

@[simp] theorem replaceSnapshot_store_memory (g : Nat) :
    (s.replaceSnapshot g).store.memory = s.store.memory := by
  unfold replaceSnapshot
  (repeat' split) <;> simp

@[simp] theorem replaceSnapshot_store_owners (g : Nat) :
    (s.replaceSnapshot g).store.owners = s.store.owners := by
  unfold replaceSnapshot
  (repeat' split) <;> simp

@[simp] theorem replaceSnapshot_store_loads (g : Nat) :
    (s.replaceSnapshot g).store.loads = s.store.loads := by
  unfold replaceSnapshot
  (repeat' split) <;> simp

@[simp] theorem replaceSnapshot_store_fixQueue (g : Nat) :
    (s.replaceSnapshot g).store.fixQueue = s.store.fixQueue := by
  unfold replaceSnapshot
  (repeat' split) <;> simp

@[simp] theorem replaceSnapshot_store_burst (g : Nat) :
    (s.replaceSnapshot g).store.burst = s.store.burst := by
  unfold replaceSnapshot
  (repeat' split) <;> simp

@[simp] theorem replaceSnapshot_port (g : Nat) :
    (s.replaceSnapshot g).port = s.port := by
  unfold replaceSnapshot
  (repeat' split) <;> simp

@[simp] theorem replaceSnapshot_engine (g : Nat) :
    (s.replaceSnapshot g).engine = s.engine := by
  unfold replaceSnapshot
  (repeat' split) <;> simp

@[simp] theorem replaceSnapshot_plan (g : Nat) :
    (s.replaceSnapshot g).area.plan = s.area.plan := by
  unfold replaceSnapshot
  (repeat' split) <;> simp

@[simp] theorem replaceSnapshot_layout (g : Nat) :
    (s.replaceSnapshot g).area.layout = s.area.layout := by
  unfold replaceSnapshot
  (repeat' split) <;> simp

@[simp] theorem replaceSnapshot_groupRows (g : Nat) :
    (s.replaceSnapshot g).area.groupRows = s.area.groupRows := by
  unfold replaceSnapshot
  (repeat' split) <;> simp

@[simp] theorem replaceSnapshot_openCount (g : Nat) :
    (s.replaceSnapshot g).openCount = s.openCount := by
  unfold replaceSnapshot
  (repeat' split) <;> simp

@[simp] theorem replaceSnapshot_pending (g : Nat) :
    (s.replaceSnapshot g).pending = s.pending := by
  unfold replaceSnapshot
  (repeat' split) <;> simp

@[simp] theorem abandonSnapshot_settings :
    (s.abandonSnapshot).control.settings = s.control.settings := by
  unfold abandonSnapshot
  split <;> simp

@[simp] theorem abandonSnapshot_now : (s.abandonSnapshot).control.now = s.control.now :=
  now_of_settings (by simp)

@[simp] theorem abandonSnapshot_runState : (s.abandonSnapshot).control.runState = s.control.runState :=
  runState_of_settings (by simp)

@[simp] theorem abandonSnapshot_monitor :
    (s.abandonSnapshot).monitor = s.monitor := by
  unfold abandonSnapshot
  split <;> simp

@[simp] theorem abandonSnapshot_uplink (v : Fin 32) : (s.abandonSnapshot).uplink v = s.uplink v := by simp [uplink]

@[simp] theorem abandonSnapshot_conduits :
    (s.abandonSnapshot).conduits = s.conduits := by
  unfold abandonSnapshot
  split <;> simp

@[simp] theorem abandonSnapshot_alarm (cd : Fin 64) : (s.abandonSnapshot).alarm cd = s.alarm cd := by simp [alarm]

@[simp] theorem abandonSnapshot_groups :
    (s.abandonSnapshot).groups = s.groups := by
  unfold abandonSnapshot
  split <;> simp

@[simp] theorem abandonSnapshot_group (gr : Nat) : (s.abandonSnapshot).group gr = s.group gr := by simp [group]

@[simp] theorem abandonSnapshot_store_memory :
    (s.abandonSnapshot).store.memory = s.store.memory := by
  unfold abandonSnapshot
  split <;> simp

@[simp] theorem abandonSnapshot_store_owners :
    (s.abandonSnapshot).store.owners = s.store.owners := by
  unfold abandonSnapshot
  split <;> simp

@[simp] theorem abandonSnapshot_store_loads :
    (s.abandonSnapshot).store.loads = s.store.loads := by
  unfold abandonSnapshot
  split <;> simp

@[simp] theorem abandonSnapshot_store_fixQueue :
    (s.abandonSnapshot).store.fixQueue = s.store.fixQueue := by
  unfold abandonSnapshot
  split <;> simp

@[simp] theorem abandonSnapshot_store_burst :
    (s.abandonSnapshot).store.burst = s.store.burst := by
  unfold abandonSnapshot
  split <;> simp

@[simp] theorem abandonSnapshot_port :
    (s.abandonSnapshot).port = s.port := by
  unfold abandonSnapshot
  split <;> simp

@[simp] theorem abandonSnapshot_engine :
    (s.abandonSnapshot).engine = s.engine := by
  unfold abandonSnapshot
  split <;> simp

@[simp] theorem abandonSnapshot_plan :
    (s.abandonSnapshot).area.plan = s.area.plan := by
  unfold abandonSnapshot
  split <;> simp

@[simp] theorem abandonSnapshot_layout :
    (s.abandonSnapshot).area.layout = s.area.layout := by
  unfold abandonSnapshot
  split <;> simp

@[simp] theorem abandonSnapshot_groupRows :
    (s.abandonSnapshot).area.groupRows = s.area.groupRows := by
  unfold abandonSnapshot
  split <;> simp

@[simp] theorem abandonSnapshot_openCount :
    (s.abandonSnapshot).openCount = s.openCount := by
  unfold abandonSnapshot
  split <;> simp

@[simp] theorem abandonSnapshot_pending :
    (s.abandonSnapshot).pending = s.pending := by
  unfold abandonSnapshot
  split <;> simp

@[simp] theorem handConduit_control (c : Fin 64) :
    (s.handConduit c).control = s.control := by
  unfold handConduit
  simp

@[simp] theorem handConduit_monitor (c : Fin 64) :
    (s.handConduit c).monitor = s.monitor := by
  unfold handConduit
  simp

@[simp] theorem handConduit_uplink (c : Fin 64) (v : Fin 32) : (s.handConduit c).uplink v = s.uplink v := by simp [uplink]

@[simp] theorem handConduit_conduits (c : Fin 64) :
    (s.handConduit c).conduits = s.conduits := by
  unfold handConduit
  simp

@[simp] theorem handConduit_alarm (c : Fin 64) (cd : Fin 64) : (s.handConduit c).alarm cd = s.alarm cd := by simp [alarm]

@[simp] theorem handConduit_store (c : Fin 64) :
    (s.handConduit c).store = s.store := by
  unfold handConduit
  simp

@[simp] theorem handConduit_port (c : Fin 64) :
    (s.handConduit c).port = s.port := by
  unfold handConduit
  simp

@[simp] theorem handConduit_engine (c : Fin 64) :
    (s.handConduit c).engine = s.engine := by
  unfold handConduit
  simp

@[simp] theorem handConduit_area (c : Fin 64) :
    (s.handConduit c).area = s.area := by
  unfold handConduit
  simp

@[simp] theorem handConduit_openCount (c : Fin 64) :
    (s.handConduit c).openCount = s.openCount := by
  unfold handConduit
  simp

@[simp] theorem handConduit_pending (c : Fin 64) :
    (s.handConduit c).pending = s.pending := by
  unfold handConduit
  simp

@[simp] theorem raiseConduit_settings (u : Fin 32) (x : DarkCause) (c : Fin 64) :
    (s.raiseConduit u x c).control.settings = s.control.settings := by
  unfold raiseConduit
  split <;> simp

@[simp] theorem raiseConduit_now (u : Fin 32) (x : DarkCause) (c : Fin 64) : (s.raiseConduit u x c).control.now = s.control.now :=
  now_of_settings (by simp)

@[simp] theorem raiseConduit_runState (u : Fin 32) (x : DarkCause) (c : Fin 64) : (s.raiseConduit u x c).control.runState = s.control.runState :=
  runState_of_settings (by simp)

@[simp] theorem raiseConduit_monitor (u : Fin 32) (x : DarkCause) (c : Fin 64) :
    (s.raiseConduit u x c).monitor = s.monitor := by
  unfold raiseConduit
  split <;> simp

@[simp] theorem raiseConduit_uplink (u : Fin 32) (x : DarkCause) (c : Fin 64) (v : Fin 32) : (s.raiseConduit u x c).uplink v = s.uplink v := by simp [uplink]

@[simp] theorem raiseConduit_store (u : Fin 32) (x : DarkCause) (c : Fin 64) :
    (s.raiseConduit u x c).store = s.store := by
  unfold raiseConduit
  split <;> simp

@[simp] theorem raiseConduit_port (u : Fin 32) (x : DarkCause) (c : Fin 64) :
    (s.raiseConduit u x c).port = s.port := by
  unfold raiseConduit
  split <;> simp

@[simp] theorem raiseConduit_engine (u : Fin 32) (x : DarkCause) (c : Fin 64) :
    (s.raiseConduit u x c).engine = s.engine := by
  unfold raiseConduit
  split <;> simp

@[simp] theorem raiseConduit_plan (u : Fin 32) (x : DarkCause) (c : Fin 64) :
    (s.raiseConduit u x c).area.plan = s.area.plan := by
  unfold raiseConduit
  split <;> simp

@[simp] theorem raiseConduit_layout (u : Fin 32) (x : DarkCause) (c : Fin 64) :
    (s.raiseConduit u x c).area.layout = s.area.layout := by
  unfold raiseConduit
  split <;> simp

@[simp] theorem raiseConduit_groupRows (u : Fin 32) (x : DarkCause) (c : Fin 64) :
    (s.raiseConduit u x c).area.groupRows = s.area.groupRows := by
  unfold raiseConduit
  split <;> simp

@[simp] theorem raiseConduit_openCount (u : Fin 32) (x : DarkCause) (c : Fin 64) :
    (s.raiseConduit u x c).openCount = s.openCount := by
  unfold raiseConduit
  split <;> simp

@[simp] theorem raiseConduit_pending (u : Fin 32) (x : DarkCause) (c : Fin 64) :
    (s.raiseConduit u x c).pending = s.pending := by
  unfold raiseConduit
  split <;> simp

@[simp] theorem raiseMask_settings (u : Fin 32) (x : DarkCause) (k : BitVec 64) :
    (s.raiseMask u x k).control.settings = s.control.settings := by
  unfold raiseMask
  generalize List.filter _ _ = l
  induction l generalizing s with
  | nil => rfl
  | cons c t ih => simp [List.foldl_cons, ih]

@[simp] theorem raiseMask_now (u : Fin 32) (x : DarkCause) (k : BitVec 64) : (s.raiseMask u x k).control.now = s.control.now :=
  now_of_settings (by simp)

@[simp] theorem raiseMask_runState (u : Fin 32) (x : DarkCause) (k : BitVec 64) : (s.raiseMask u x k).control.runState = s.control.runState :=
  runState_of_settings (by simp)

@[simp] theorem raiseMask_monitor (u : Fin 32) (x : DarkCause) (k : BitVec 64) :
    (s.raiseMask u x k).monitor = s.monitor := by
  unfold raiseMask
  generalize List.filter _ _ = l
  induction l generalizing s with
  | nil => rfl
  | cons c t ih => simp [List.foldl_cons, ih]

@[simp] theorem raiseMask_uplink (u : Fin 32) (x : DarkCause) (k : BitVec 64) (v : Fin 32) : (s.raiseMask u x k).uplink v = s.uplink v := by simp [uplink]

@[simp] theorem raiseMask_store (u : Fin 32) (x : DarkCause) (k : BitVec 64) :
    (s.raiseMask u x k).store = s.store := by
  unfold raiseMask
  generalize List.filter _ _ = l
  induction l generalizing s with
  | nil => rfl
  | cons c t ih => simp [List.foldl_cons, ih]

@[simp] theorem raiseMask_port (u : Fin 32) (x : DarkCause) (k : BitVec 64) :
    (s.raiseMask u x k).port = s.port := by
  unfold raiseMask
  generalize List.filter _ _ = l
  induction l generalizing s with
  | nil => rfl
  | cons c t ih => simp [List.foldl_cons, ih]

@[simp] theorem raiseMask_engine (u : Fin 32) (x : DarkCause) (k : BitVec 64) :
    (s.raiseMask u x k).engine = s.engine := by
  unfold raiseMask
  generalize List.filter _ _ = l
  induction l generalizing s with
  | nil => rfl
  | cons c t ih => simp [List.foldl_cons, ih]

@[simp] theorem raiseMask_plan (u : Fin 32) (x : DarkCause) (k : BitVec 64) :
    (s.raiseMask u x k).area.plan = s.area.plan := by
  unfold raiseMask
  generalize List.filter _ _ = l
  induction l generalizing s with
  | nil => rfl
  | cons c t ih => simp [List.foldl_cons, ih]

@[simp] theorem raiseMask_layout (u : Fin 32) (x : DarkCause) (k : BitVec 64) :
    (s.raiseMask u x k).area.layout = s.area.layout := by
  unfold raiseMask
  generalize List.filter _ _ = l
  induction l generalizing s with
  | nil => rfl
  | cons c t ih => simp [List.foldl_cons, ih]

@[simp] theorem raiseMask_groupRows (u : Fin 32) (x : DarkCause) (k : BitVec 64) :
    (s.raiseMask u x k).area.groupRows = s.area.groupRows := by
  unfold raiseMask
  generalize List.filter _ _ = l
  induction l generalizing s with
  | nil => rfl
  | cons c t ih => simp [List.foldl_cons, ih]

@[simp] theorem raiseMask_openCount (u : Fin 32) (x : DarkCause) (k : BitVec 64) :
    (s.raiseMask u x k).openCount = s.openCount := by
  unfold raiseMask
  generalize List.filter _ _ = l
  induction l generalizing s with
  | nil => rfl
  | cons c t ih => simp [List.foldl_cons, ih]

@[simp] theorem raiseMask_pending (u : Fin 32) (x : DarkCause) (k : BitVec 64) :
    (s.raiseMask u x k).pending = s.pending := by
  unfold raiseMask
  generalize List.filter _ _ = l
  induction l generalizing s with
  | nil => rfl
  | cons c t ih => simp [List.foldl_cons, ih]

@[simp] theorem clearConduit_settings (c : Fin 64) (a : Alarm) (r : ClearReason) :
    (s.clearConduit c a r).control.settings = s.control.settings := by
  unfold clearConduit
  simp

@[simp] theorem clearConduit_now (c : Fin 64) (a : Alarm) (r : ClearReason) : (s.clearConduit c a r).control.now = s.control.now :=
  now_of_settings (by simp)

@[simp] theorem clearConduit_runState (c : Fin 64) (a : Alarm) (r : ClearReason) : (s.clearConduit c a r).control.runState = s.control.runState :=
  runState_of_settings (by simp)

@[simp] theorem clearConduit_monitor (c : Fin 64) (a : Alarm) (r : ClearReason) :
    (s.clearConduit c a r).monitor = s.monitor := by
  unfold clearConduit
  simp

@[simp] theorem clearConduit_uplink (c : Fin 64) (a : Alarm) (r : ClearReason) (v : Fin 32) : (s.clearConduit c a r).uplink v = s.uplink v := by simp [uplink]

@[simp] theorem clearConduit_store (c : Fin 64) (a : Alarm) (r : ClearReason) :
    (s.clearConduit c a r).store = s.store := by
  unfold clearConduit
  simp

@[simp] theorem clearConduit_port (c : Fin 64) (a : Alarm) (r : ClearReason) :
    (s.clearConduit c a r).port = s.port := by
  unfold clearConduit
  simp

@[simp] theorem clearConduit_engine (c : Fin 64) (a : Alarm) (r : ClearReason) :
    (s.clearConduit c a r).engine = s.engine := by
  unfold clearConduit
  simp

@[simp] theorem clearConduit_plan (c : Fin 64) (a : Alarm) (r : ClearReason) :
    (s.clearConduit c a r).area.plan = s.area.plan := by
  unfold clearConduit
  simp

@[simp] theorem clearConduit_layout (c : Fin 64) (a : Alarm) (r : ClearReason) :
    (s.clearConduit c a r).area.layout = s.area.layout := by
  unfold clearConduit
  simp

@[simp] theorem clearConduit_groupRows (c : Fin 64) (a : Alarm) (r : ClearReason) :
    (s.clearConduit c a r).area.groupRows = s.area.groupRows := by
  unfold clearConduit
  simp

@[simp] theorem clearConduit_openCount (c : Fin 64) (a : Alarm) (r : ClearReason) :
    (s.clearConduit c a r).openCount = s.openCount := by
  unfold clearConduit
  simp

@[simp] theorem clearConduit_pending (c : Fin 64) (a : Alarm) (r : ClearReason) :
    (s.clearConduit c a r).pending = s.pending := by
  unfold clearConduit
  simp

@[simp] theorem takeConduitClear_settings (o : OrderInHand) :
    (s.takeConduitClear o).control.settings = s.control.settings := by
  unfold takeConduitClear
  dsimp only
  (repeat' split) <;> simp

@[simp] theorem takeConduitClear_now (o : OrderInHand) : (s.takeConduitClear o).control.now = s.control.now :=
  now_of_settings (by simp)

@[simp] theorem takeConduitClear_runState (o : OrderInHand) : (s.takeConduitClear o).control.runState = s.control.runState :=
  runState_of_settings (by simp)

@[simp] theorem takeConduitClear_monitor (o : OrderInHand) :
    (s.takeConduitClear o).monitor = s.monitor := by
  unfold takeConduitClear
  dsimp only
  (repeat' split) <;> simp

@[simp] theorem takeConduitClear_uplink (o : OrderInHand) (v : Fin 32) : (s.takeConduitClear o).uplink v = s.uplink v := by simp [uplink]

@[simp] theorem takeConduitClear_store (o : OrderInHand) :
    (s.takeConduitClear o).store = s.store := by
  unfold takeConduitClear
  dsimp only
  (repeat' split) <;> simp

@[simp] theorem takeConduitClear_port (o : OrderInHand) :
    (s.takeConduitClear o).port = s.port := by
  unfold takeConduitClear
  dsimp only
  (repeat' split) <;> simp

@[simp] theorem takeConduitClear_engine (o : OrderInHand) :
    (s.takeConduitClear o).engine = s.engine := by
  unfold takeConduitClear
  dsimp only
  (repeat' split) <;> simp

@[simp] theorem takeConduitClear_plan (o : OrderInHand) :
    (s.takeConduitClear o).area.plan = s.area.plan := by
  unfold takeConduitClear
  dsimp only
  (repeat' split) <;> simp

@[simp] theorem takeConduitClear_layout (o : OrderInHand) :
    (s.takeConduitClear o).area.layout = s.area.layout := by
  unfold takeConduitClear
  dsimp only
  (repeat' split) <;> simp

@[simp] theorem takeConduitClear_groupRows (o : OrderInHand) :
    (s.takeConduitClear o).area.groupRows = s.area.groupRows := by
  unfold takeConduitClear
  dsimp only
  (repeat' split) <;> simp

@[simp] theorem takeConduitClear_openCount (o : OrderInHand) :
    (s.takeConduitClear o).openCount = s.openCount := by
  unfold takeConduitClear
  dsimp only
  (repeat' split) <;> simp

@[simp] theorem takeConduitClear_pending (o : OrderInHand) :
    (s.takeConduitClear o).pending = s.pending := by
  unfold takeConduitClear
  dsimp only
  (repeat' split) <;> simp

@[simp] theorem handWalk_control (u : Fin 32) (c : WalkClass) :
    (s.handWalk u c).control = s.control := by
  unfold handWalk
  split <;> simp

@[simp] theorem handWalk_monitor (u : Fin 32) (c : WalkClass) :
    (s.handWalk u c).monitor = s.monitor := by
  unfold handWalk
  split <;> simp

@[simp] theorem handWalk_uplink (u : Fin 32) (c : WalkClass) (v : Fin 32) : (s.handWalk u c).uplink v = s.uplink v := by simp [uplink]

@[simp] theorem handWalk_conduits (u : Fin 32) (c : WalkClass) :
    (s.handWalk u c).conduits = s.conduits := by
  unfold handWalk
  split <;> simp

@[simp] theorem handWalk_alarm (u : Fin 32) (c : WalkClass) (cd : Fin 64) : (s.handWalk u c).alarm cd = s.alarm cd := by simp [alarm]

@[simp] theorem handWalk_groups (u : Fin 32) (c : WalkClass) :
    (s.handWalk u c).groups = s.groups := by
  unfold handWalk
  split <;> simp

@[simp] theorem handWalk_group (u : Fin 32) (c : WalkClass) (gr : Nat) : (s.handWalk u c).group gr = s.group gr := by simp [group]

@[simp] theorem handWalk_store (u : Fin 32) (c : WalkClass) :
    (s.handWalk u c).store = s.store := by
  unfold handWalk
  split <;> simp

@[simp] theorem handWalk_port (u : Fin 32) (c : WalkClass) :
    (s.handWalk u c).port = s.port := by
  unfold handWalk
  split <;> simp

@[simp] theorem handWalk_area (u : Fin 32) (c : WalkClass) :
    (s.handWalk u c).area = s.area := by
  unfold handWalk
  split <;> simp

@[simp] theorem handWalk_openCount (u : Fin 32) (c : WalkClass) :
    (s.handWalk u c).openCount = s.openCount := by
  unfold handWalk
  split <;> simp

@[simp] theorem handWalk_pending (u : Fin 32) (c : WalkClass) :
    (s.handWalk u c).pending = s.pending := by
  unfold handWalk
  split <;> simp

@[simp] theorem handChange_settings (u : Fin 32) (p n : UplinkState) :
    (s.handChange u p n).control.settings = s.control.settings := by
  unfold handChange
  (repeat' split) <;> simp

@[simp] theorem handChange_now (u : Fin 32) (p n : UplinkState) : (s.handChange u p n).control.now = s.control.now :=
  now_of_settings (by simp)

@[simp] theorem handChange_runState (u : Fin 32) (p n : UplinkState) : (s.handChange u p n).control.runState = s.control.runState :=
  runState_of_settings (by simp)

@[simp] theorem handChange_monitor (u : Fin 32) (p n : UplinkState) :
    (s.handChange u p n).monitor = s.monitor := by
  unfold handChange
  (repeat' split) <;> simp

@[simp] theorem handChange_uplink (u : Fin 32) (p n : UplinkState) (v : Fin 32) : (s.handChange u p n).uplink v = s.uplink v := by simp [uplink]

@[simp] theorem handChange_conduits (u : Fin 32) (p n : UplinkState) :
    (s.handChange u p n).conduits = s.conduits := by
  unfold handChange
  (repeat' split) <;> simp

@[simp] theorem handChange_alarm (u : Fin 32) (p n : UplinkState) (cd : Fin 64) : (s.handChange u p n).alarm cd = s.alarm cd := by simp [alarm]

@[simp] theorem handChange_groups (u : Fin 32) (p n : UplinkState) :
    (s.handChange u p n).groups = s.groups := by
  unfold handChange
  (repeat' split) <;> simp

@[simp] theorem handChange_group (u : Fin 32) (p n : UplinkState) (gr : Nat) : (s.handChange u p n).group gr = s.group gr := by simp [group]

@[simp] theorem handChange_store (u : Fin 32) (p n : UplinkState) :
    (s.handChange u p n).store = s.store := by
  unfold handChange
  (repeat' split) <;> simp

@[simp] theorem handChange_port (u : Fin 32) (p n : UplinkState) :
    (s.handChange u p n).port = s.port := by
  unfold handChange
  (repeat' split) <;> simp

@[simp] theorem handChange_area (u : Fin 32) (p n : UplinkState) :
    (s.handChange u p n).area = s.area := by
  unfold handChange
  (repeat' split) <;> simp

@[simp] theorem handChange_openCount (u : Fin 32) (p n : UplinkState) :
    (s.handChange u p n).openCount = s.openCount := by
  unfold handChange
  (repeat' split) <;> simp

@[simp] theorem handChange_pending (u : Fin 32) (p n : UplinkState) :
    (s.handChange u p n).pending = s.pending := by
  unfold handChange
  (repeat' split) <;> simp

@[simp] theorem changeState_settings (u : Fin 32) (n : UplinkState) (c : Option DarkCause) :
    (s.changeState u n c).control.settings = s.control.settings := by
  unfold changeState
  simp

@[simp] theorem changeState_now (u : Fin 32) (n : UplinkState) (c : Option DarkCause) : (s.changeState u n c).control.now = s.control.now :=
  now_of_settings (by simp)

@[simp] theorem changeState_runState (u : Fin 32) (n : UplinkState) (c : Option DarkCause) : (s.changeState u n c).control.runState = s.control.runState :=
  runState_of_settings (by simp)

@[simp] theorem changeState_lines (u : Fin 32) (n : UplinkState) (c : Option DarkCause) :
    (s.changeState u n c).monitor.lines = s.monitor.lines := by
  unfold changeState
  simp

@[simp] theorem changeState_conduits (u : Fin 32) (n : UplinkState) (c : Option DarkCause) :
    (s.changeState u n c).conduits = s.conduits := by
  unfold changeState
  simp

@[simp] theorem changeState_alarm (u : Fin 32) (n : UplinkState) (c : Option DarkCause) (cd : Fin 64) : (s.changeState u n c).alarm cd = s.alarm cd := by simp [alarm]

@[simp] theorem changeState_store (u : Fin 32) (n : UplinkState) (c : Option DarkCause) :
    (s.changeState u n c).store = s.store := by
  unfold changeState
  simp

@[simp] theorem changeState_port (u : Fin 32) (n : UplinkState) (c : Option DarkCause) :
    (s.changeState u n c).port = s.port := by
  unfold changeState
  simp

@[simp] theorem changeState_plan (u : Fin 32) (n : UplinkState) (c : Option DarkCause) :
    (s.changeState u n c).area.plan = s.area.plan := by
  unfold changeState
  simp

@[simp] theorem changeState_layout (u : Fin 32) (n : UplinkState) (c : Option DarkCause) :
    (s.changeState u n c).area.layout = s.area.layout := by
  unfold changeState
  simp

@[simp] theorem changeState_groupRows (u : Fin 32) (n : UplinkState) (c : Option DarkCause) :
    (s.changeState u n c).area.groupRows = s.area.groupRows := by
  unfold changeState
  simp

@[simp] theorem changeState_openCount (u : Fin 32) (n : UplinkState) (c : Option DarkCause) :
    (s.changeState u n c).openCount = s.openCount := by
  unfold changeState
  simp

@[simp] theorem changeState_pending (u : Fin 32) (n : UplinkState) (c : Option DarkCause) :
    (s.changeState u n c).pending = s.pending := by
  unfold changeState
  simp

@[simp] theorem ageFlaps_control (u : Fin 32) :
    (s.ageFlaps u).control = s.control := by
  unfold ageFlaps
  simp

@[simp] theorem ageFlaps_lines (u : Fin 32) :
    (s.ageFlaps u).monitor.lines = s.monitor.lines := by
  unfold ageFlaps
  simp

@[simp] theorem ageFlaps_conduits (u : Fin 32) :
    (s.ageFlaps u).conduits = s.conduits := by
  unfold ageFlaps
  simp

@[simp] theorem ageFlaps_alarm (u : Fin 32) (cd : Fin 64) : (s.ageFlaps u).alarm cd = s.alarm cd := by simp [alarm]

@[simp] theorem ageFlaps_groups (u : Fin 32) :
    (s.ageFlaps u).groups = s.groups := by
  unfold ageFlaps
  simp

@[simp] theorem ageFlaps_group (u : Fin 32) (gr : Nat) : (s.ageFlaps u).group gr = s.group gr := by simp [group]

@[simp] theorem ageFlaps_store (u : Fin 32) :
    (s.ageFlaps u).store = s.store := by
  unfold ageFlaps
  simp

@[simp] theorem ageFlaps_port (u : Fin 32) :
    (s.ageFlaps u).port = s.port := by
  unfold ageFlaps
  simp

@[simp] theorem ageFlaps_engine (u : Fin 32) :
    (s.ageFlaps u).engine = s.engine := by
  unfold ageFlaps
  simp

@[simp] theorem ageFlaps_area (u : Fin 32) :
    (s.ageFlaps u).area = s.area := by
  unfold ageFlaps
  simp

@[simp] theorem ageFlaps_openCount (u : Fin 32) :
    (s.ageFlaps u).openCount = s.openCount := by
  unfold ageFlaps
  simp

@[simp] theorem ageFlaps_pending (u : Fin 32) :
    (s.ageFlaps u).pending = s.pending := by
  unfold ageFlaps
  simp

@[simp] theorem recordFlap_settings (u : Fin 32) :
    (s.recordFlap u).control.settings = s.control.settings := by
  unfold recordFlap
  dsimp only
  (repeat' split) <;> simp

@[simp] theorem recordFlap_now (u : Fin 32) : (s.recordFlap u).control.now = s.control.now :=
  now_of_settings (by simp)

@[simp] theorem recordFlap_runState (u : Fin 32) : (s.recordFlap u).control.runState = s.control.runState :=
  runState_of_settings (by simp)

@[simp] theorem recordFlap_lines (u : Fin 32) :
    (s.recordFlap u).monitor.lines = s.monitor.lines := by
  unfold recordFlap
  dsimp only
  (repeat' split) <;> simp

@[simp] theorem recordFlap_conduits (u : Fin 32) :
    (s.recordFlap u).conduits = s.conduits := by
  unfold recordFlap
  dsimp only
  (repeat' split) <;> simp

@[simp] theorem recordFlap_alarm (u : Fin 32) (cd : Fin 64) : (s.recordFlap u).alarm cd = s.alarm cd := by simp [alarm]

@[simp] theorem recordFlap_store (u : Fin 32) :
    (s.recordFlap u).store = s.store := by
  unfold recordFlap
  dsimp only
  (repeat' split) <;> simp

@[simp] theorem recordFlap_port (u : Fin 32) :
    (s.recordFlap u).port = s.port := by
  unfold recordFlap
  dsimp only
  (repeat' split) <;> simp

@[simp] theorem recordFlap_plan (u : Fin 32) :
    (s.recordFlap u).area.plan = s.area.plan := by
  unfold recordFlap
  dsimp only
  (repeat' split) <;> simp

@[simp] theorem recordFlap_layout (u : Fin 32) :
    (s.recordFlap u).area.layout = s.area.layout := by
  unfold recordFlap
  dsimp only
  (repeat' split) <;> simp

@[simp] theorem recordFlap_groupRows (u : Fin 32) :
    (s.recordFlap u).area.groupRows = s.area.groupRows := by
  unfold recordFlap
  dsimp only
  (repeat' split) <;> simp

@[simp] theorem recordFlap_openCount (u : Fin 32) :
    (s.recordFlap u).openCount = s.openCount := by
  unfold recordFlap
  dsimp only
  (repeat' split) <;> simp

@[simp] theorem recordFlap_pending (u : Fin 32) :
    (s.recordFlap u).pending = s.pending := by
  unfold recordFlap
  dsimp only
  (repeat' split) <;> simp

@[simp] theorem handMask_settings (u : Fin 32) (c : DarkCause) :
    (s.handMask u c).control.settings = s.control.settings := by
  unfold handMask
  split <;> simp

@[simp] theorem handMask_now (u : Fin 32) (c : DarkCause) : (s.handMask u c).control.now = s.control.now :=
  now_of_settings (by simp)

@[simp] theorem handMask_runState (u : Fin 32) (c : DarkCause) : (s.handMask u c).control.runState = s.control.runState :=
  runState_of_settings (by simp)

@[simp] theorem handMask_monitor (u : Fin 32) (c : DarkCause) :
    (s.handMask u c).monitor = s.monitor := by
  unfold handMask
  split <;> simp

@[simp] theorem handMask_uplink (u : Fin 32) (c : DarkCause) (v : Fin 32) : (s.handMask u c).uplink v = s.uplink v := by simp [uplink]

@[simp] theorem handMask_store (u : Fin 32) (c : DarkCause) :
    (s.handMask u c).store = s.store := by
  unfold handMask
  split <;> simp

@[simp] theorem handMask_port (u : Fin 32) (c : DarkCause) :
    (s.handMask u c).port = s.port := by
  unfold handMask
  split <;> simp

@[simp] theorem handMask_engine (u : Fin 32) (c : DarkCause) :
    (s.handMask u c).engine = s.engine := by
  unfold handMask
  split <;> simp

@[simp] theorem handMask_plan (u : Fin 32) (c : DarkCause) :
    (s.handMask u c).area.plan = s.area.plan := by
  unfold handMask
  split <;> simp

@[simp] theorem handMask_layout (u : Fin 32) (c : DarkCause) :
    (s.handMask u c).area.layout = s.area.layout := by
  unfold handMask
  split <;> simp

@[simp] theorem handMask_groupRows (u : Fin 32) (c : DarkCause) :
    (s.handMask u c).area.groupRows = s.area.groupRows := by
  unfold handMask
  split <;> simp

@[simp] theorem handMask_openCount (u : Fin 32) (c : DarkCause) :
    (s.handMask u c).openCount = s.openCount := by
  unfold handMask
  split <;> simp

@[simp] theorem handMask_pending (u : Fin 32) (c : DarkCause) :
    (s.handMask u c).pending = s.pending := by
  unfold handMask
  split <;> simp

@[simp] theorem declareDark_settings (u : Fin 32) (c : DarkCause) :
    (s.declareDark u c).control.settings = s.control.settings := by
  unfold declareDark
  simp

@[simp] theorem declareDark_now (u : Fin 32) (c : DarkCause) : (s.declareDark u c).control.now = s.control.now :=
  now_of_settings (by simp)

@[simp] theorem declareDark_runState (u : Fin 32) (c : DarkCause) : (s.declareDark u c).control.runState = s.control.runState :=
  runState_of_settings (by simp)

@[simp] theorem declareDark_lines (u : Fin 32) (c : DarkCause) :
    (s.declareDark u c).monitor.lines = s.monitor.lines := by
  unfold declareDark
  simp

@[simp] theorem declareDark_store (u : Fin 32) (c : DarkCause) :
    (s.declareDark u c).store = s.store := by
  unfold declareDark
  simp

@[simp] theorem declareDark_port (u : Fin 32) (c : DarkCause) :
    (s.declareDark u c).port = s.port := by
  unfold declareDark
  simp

@[simp] theorem declareDark_plan (u : Fin 32) (c : DarkCause) :
    (s.declareDark u c).area.plan = s.area.plan := by
  unfold declareDark
  simp

@[simp] theorem declareDark_layout (u : Fin 32) (c : DarkCause) :
    (s.declareDark u c).area.layout = s.area.layout := by
  unfold declareDark
  simp

@[simp] theorem declareDark_groupRows (u : Fin 32) (c : DarkCause) :
    (s.declareDark u c).area.groupRows = s.area.groupRows := by
  unfold declareDark
  simp

@[simp] theorem declareDark_openCount (u : Fin 32) (c : DarkCause) :
    (s.declareDark u c).openCount = s.openCount := by
  unfold declareDark
  simp

@[simp] theorem declareDark_pending (u : Fin 32) (c : DarkCause) :
    (s.declareDark u c).pending = s.pending := by
  unfold declareDark
  simp

@[simp] theorem checkSettle_settings (u : Fin 32) :
    (s.checkSettle u).control.settings = s.control.settings := by
  unfold checkSettle
  dsimp only
  (repeat' split) <;> simp

@[simp] theorem checkSettle_now (u : Fin 32) : (s.checkSettle u).control.now = s.control.now :=
  now_of_settings (by simp)

@[simp] theorem checkSettle_runState (u : Fin 32) : (s.checkSettle u).control.runState = s.control.runState :=
  runState_of_settings (by simp)

@[simp] theorem checkSettle_lines (u : Fin 32) :
    (s.checkSettle u).monitor.lines = s.monitor.lines := by
  unfold checkSettle
  dsimp only
  (repeat' split) <;> simp

@[simp] theorem checkSettle_conduits (u : Fin 32) :
    (s.checkSettle u).conduits = s.conduits := by
  unfold checkSettle
  dsimp only
  (repeat' split) <;> simp

@[simp] theorem checkSettle_alarm (u : Fin 32) (cd : Fin 64) : (s.checkSettle u).alarm cd = s.alarm cd := by simp [alarm]

@[simp] theorem checkSettle_store (u : Fin 32) :
    (s.checkSettle u).store = s.store := by
  unfold checkSettle
  dsimp only
  (repeat' split) <;> simp

@[simp] theorem checkSettle_port (u : Fin 32) :
    (s.checkSettle u).port = s.port := by
  unfold checkSettle
  dsimp only
  (repeat' split) <;> simp

@[simp] theorem checkSettle_plan (u : Fin 32) :
    (s.checkSettle u).area.plan = s.area.plan := by
  unfold checkSettle
  dsimp only
  (repeat' split) <;> simp

@[simp] theorem checkSettle_layout (u : Fin 32) :
    (s.checkSettle u).area.layout = s.area.layout := by
  unfold checkSettle
  dsimp only
  (repeat' split) <;> simp

@[simp] theorem checkSettle_groupRows (u : Fin 32) :
    (s.checkSettle u).area.groupRows = s.area.groupRows := by
  unfold checkSettle
  dsimp only
  (repeat' split) <;> simp

@[simp] theorem checkSettle_openCount (u : Fin 32) :
    (s.checkSettle u).openCount = s.openCount := by
  unfold checkSettle
  dsimp only
  (repeat' split) <;> simp

@[simp] theorem checkSettle_pending (u : Fin 32) :
    (s.checkSettle u).pending = s.pending := by
  unfold checkSettle
  dsimp only
  (repeat' split) <;> simp

@[simp] theorem enterSettling_settings (u : Fin 32) :
    (s.enterSettling u).control.settings = s.control.settings := by
  unfold enterSettling
  simp

@[simp] theorem enterSettling_now (u : Fin 32) : (s.enterSettling u).control.now = s.control.now :=
  now_of_settings (by simp)

@[simp] theorem enterSettling_runState (u : Fin 32) : (s.enterSettling u).control.runState = s.control.runState :=
  runState_of_settings (by simp)

@[simp] theorem enterSettling_lines (u : Fin 32) :
    (s.enterSettling u).monitor.lines = s.monitor.lines := by
  unfold enterSettling
  simp

@[simp] theorem enterSettling_conduits (u : Fin 32) :
    (s.enterSettling u).conduits = s.conduits := by
  unfold enterSettling
  simp

@[simp] theorem enterSettling_alarm (u : Fin 32) (cd : Fin 64) : (s.enterSettling u).alarm cd = s.alarm cd := by simp [alarm]

@[simp] theorem enterSettling_store (u : Fin 32) :
    (s.enterSettling u).store = s.store := by
  unfold enterSettling
  simp

@[simp] theorem enterSettling_port (u : Fin 32) :
    (s.enterSettling u).port = s.port := by
  unfold enterSettling
  simp

@[simp] theorem enterSettling_plan (u : Fin 32) :
    (s.enterSettling u).area.plan = s.area.plan := by
  unfold enterSettling
  simp

@[simp] theorem enterSettling_layout (u : Fin 32) :
    (s.enterSettling u).area.layout = s.area.layout := by
  unfold enterSettling
  simp

@[simp] theorem enterSettling_groupRows (u : Fin 32) :
    (s.enterSettling u).area.groupRows = s.area.groupRows := by
  unfold enterSettling
  simp

@[simp] theorem enterSettling_openCount (u : Fin 32) :
    (s.enterSettling u).openCount = s.openCount := by
  unfold enterSettling
  simp

@[simp] theorem enterSettling_pending (u : Fin 32) :
    (s.enterSettling u).pending = s.pending := by
  unfold enterSettling
  simp

@[simp] theorem checkProof_settings (u : Fin 32) :
    (s.checkProof u).control.settings = s.control.settings := by
  unfold checkProof
  dsimp only
  (repeat' split) <;> simp

@[simp] theorem checkProof_now (u : Fin 32) : (s.checkProof u).control.now = s.control.now :=
  now_of_settings (by simp)

@[simp] theorem checkProof_runState (u : Fin 32) : (s.checkProof u).control.runState = s.control.runState :=
  runState_of_settings (by simp)

@[simp] theorem checkProof_lines (u : Fin 32) :
    (s.checkProof u).monitor.lines = s.monitor.lines := by
  unfold checkProof
  dsimp only
  (repeat' split) <;> simp

@[simp] theorem checkProof_conduits (u : Fin 32) :
    (s.checkProof u).conduits = s.conduits := by
  unfold checkProof
  dsimp only
  (repeat' split) <;> simp

@[simp] theorem checkProof_alarm (u : Fin 32) (cd : Fin 64) : (s.checkProof u).alarm cd = s.alarm cd := by simp [alarm]

@[simp] theorem checkProof_store (u : Fin 32) :
    (s.checkProof u).store = s.store := by
  unfold checkProof
  dsimp only
  (repeat' split) <;> simp

@[simp] theorem checkProof_port (u : Fin 32) :
    (s.checkProof u).port = s.port := by
  unfold checkProof
  dsimp only
  (repeat' split) <;> simp

@[simp] theorem checkProof_plan (u : Fin 32) :
    (s.checkProof u).area.plan = s.area.plan := by
  unfold checkProof
  dsimp only
  (repeat' split) <;> simp

@[simp] theorem checkProof_layout (u : Fin 32) :
    (s.checkProof u).area.layout = s.area.layout := by
  unfold checkProof
  dsimp only
  (repeat' split) <;> simp

@[simp] theorem checkProof_groupRows (u : Fin 32) :
    (s.checkProof u).area.groupRows = s.area.groupRows := by
  unfold checkProof
  dsimp only
  (repeat' split) <;> simp

@[simp] theorem checkProof_openCount (u : Fin 32) :
    (s.checkProof u).openCount = s.openCount := by
  unfold checkProof
  dsimp only
  (repeat' split) <;> simp

@[simp] theorem checkProof_pending (u : Fin 32) :
    (s.checkProof u).pending = s.pending := by
  unfold checkProof
  dsimp only
  (repeat' split) <;> simp

@[simp] theorem restartProof_control (u : Fin 32) :
    (s.restartProof u).control = s.control := by
  unfold restartProof
  simp

@[simp] theorem restartProof_lines (u : Fin 32) :
    (s.restartProof u).monitor.lines = s.monitor.lines := by
  unfold restartProof
  simp

@[simp] theorem restartProof_conduits (u : Fin 32) :
    (s.restartProof u).conduits = s.conduits := by
  unfold restartProof
  simp

@[simp] theorem restartProof_alarm (u : Fin 32) (cd : Fin 64) : (s.restartProof u).alarm cd = s.alarm cd := by simp [alarm]

@[simp] theorem restartProof_groups (u : Fin 32) :
    (s.restartProof u).groups = s.groups := by
  unfold restartProof
  simp

@[simp] theorem restartProof_group (u : Fin 32) (gr : Nat) : (s.restartProof u).group gr = s.group gr := by simp [group]

@[simp] theorem restartProof_store (u : Fin 32) :
    (s.restartProof u).store = s.store := by
  unfold restartProof
  simp

@[simp] theorem restartProof_port (u : Fin 32) :
    (s.restartProof u).port = s.port := by
  unfold restartProof
  simp

@[simp] theorem restartProof_engine (u : Fin 32) :
    (s.restartProof u).engine = s.engine := by
  unfold restartProof
  simp

@[simp] theorem restartProof_area (u : Fin 32) :
    (s.restartProof u).area = s.area := by
  unfold restartProof
  simp

@[simp] theorem restartProof_openCount (u : Fin 32) :
    (s.restartProof u).openCount = s.openCount := by
  unfold restartProof
  simp

@[simp] theorem restartProof_pending (u : Fin 32) :
    (s.restartProof u).pending = s.pending := by
  unfold restartProof
  simp

@[simp] theorem recordFinding_control (u : Fin 32) (c : DarkCause) :
    (s.recordFinding u c).control = s.control := by
  unfold recordFinding
  simp

@[simp] theorem recordFinding_lines (u : Fin 32) (c : DarkCause) :
    (s.recordFinding u c).monitor.lines = s.monitor.lines := by
  unfold recordFinding
  simp

@[simp] theorem recordFinding_conduits (u : Fin 32) (c : DarkCause) :
    (s.recordFinding u c).conduits = s.conduits := by
  unfold recordFinding
  simp

@[simp] theorem recordFinding_alarm (u : Fin 32) (c : DarkCause) (cd : Fin 64) : (s.recordFinding u c).alarm cd = s.alarm cd := by simp [alarm]

@[simp] theorem recordFinding_groups (u : Fin 32) (c : DarkCause) :
    (s.recordFinding u c).groups = s.groups := by
  unfold recordFinding
  simp

@[simp] theorem recordFinding_group (u : Fin 32) (c : DarkCause) (gr : Nat) : (s.recordFinding u c).group gr = s.group gr := by simp [group]

@[simp] theorem recordFinding_store (u : Fin 32) (c : DarkCause) :
    (s.recordFinding u c).store = s.store := by
  unfold recordFinding
  simp

@[simp] theorem recordFinding_port (u : Fin 32) (c : DarkCause) :
    (s.recordFinding u c).port = s.port := by
  unfold recordFinding
  simp

@[simp] theorem recordFinding_engine (u : Fin 32) (c : DarkCause) :
    (s.recordFinding u c).engine = s.engine := by
  unfold recordFinding
  simp

@[simp] theorem recordFinding_area (u : Fin 32) (c : DarkCause) :
    (s.recordFinding u c).area = s.area := by
  unfold recordFinding
  simp

@[simp] theorem recordFinding_openCount (u : Fin 32) (c : DarkCause) :
    (s.recordFinding u c).openCount = s.openCount := by
  unfold recordFinding
  simp

@[simp] theorem recordFinding_pending (u : Fin 32) (c : DarkCause) :
    (s.recordFinding u c).pending = s.pending := by
  unfold recordFinding
  simp

@[simp] theorem fail_settings (u : Fin 32) (c : DarkCause) :
    (s.fail u c).control.settings = s.control.settings := by
  unfold fail
  split <;> simp

@[simp] theorem fail_now (u : Fin 32) (c : DarkCause) : (s.fail u c).control.now = s.control.now :=
  now_of_settings (by simp)

@[simp] theorem fail_runState (u : Fin 32) (c : DarkCause) : (s.fail u c).control.runState = s.control.runState :=
  runState_of_settings (by simp)

@[simp] theorem fail_lines (u : Fin 32) (c : DarkCause) :
    (s.fail u c).monitor.lines = s.monitor.lines := by
  unfold fail
  split <;> simp

@[simp] theorem fail_store (u : Fin 32) (c : DarkCause) :
    (s.fail u c).store = s.store := by
  unfold fail
  split <;> simp

@[simp] theorem fail_port (u : Fin 32) (c : DarkCause) :
    (s.fail u c).port = s.port := by
  unfold fail
  split <;> simp

@[simp] theorem fail_plan (u : Fin 32) (c : DarkCause) :
    (s.fail u c).area.plan = s.area.plan := by
  unfold fail
  split <;> simp

@[simp] theorem fail_layout (u : Fin 32) (c : DarkCause) :
    (s.fail u c).area.layout = s.area.layout := by
  unfold fail
  split <;> simp

@[simp] theorem fail_groupRows (u : Fin 32) (c : DarkCause) :
    (s.fail u c).area.groupRows = s.area.groupRows := by
  unfold fail
  split <;> simp

@[simp] theorem fail_openCount (u : Fin 32) (c : DarkCause) :
    (s.fail u c).openCount = s.openCount := by
  unfold fail
  split <;> simp

@[simp] theorem fail_pending (u : Fin 32) (c : DarkCause) :
    (s.fail u c).pending = s.pending := by
  unfold fail
  split <;> simp

@[simp] theorem changeLight_settings (u : Fin 32) (l : Light) :
    (s.changeLight u l).control.settings = s.control.settings := by
  unfold changeLight
  dsimp only
  (repeat' split) <;> simp

@[simp] theorem changeLight_now (u : Fin 32) (l : Light) : (s.changeLight u l).control.now = s.control.now :=
  now_of_settings (by simp)

@[simp] theorem changeLight_runState (u : Fin 32) (l : Light) : (s.changeLight u l).control.runState = s.control.runState :=
  runState_of_settings (by simp)

@[simp] theorem changeLight_lines (u : Fin 32) (l : Light) :
    (s.changeLight u l).monitor.lines = s.monitor.lines := by
  unfold changeLight
  dsimp only
  (repeat' split) <;> simp

@[simp] theorem changeLight_store (u : Fin 32) (l : Light) :
    (s.changeLight u l).store = s.store := by
  unfold changeLight
  dsimp only
  (repeat' split) <;> simp

@[simp] theorem changeLight_port (u : Fin 32) (l : Light) :
    (s.changeLight u l).port = s.port := by
  unfold changeLight
  dsimp only
  (repeat' split) <;> simp

@[simp] theorem changeLight_plan (u : Fin 32) (l : Light) :
    (s.changeLight u l).area.plan = s.area.plan := by
  unfold changeLight
  dsimp only
  (repeat' split) <;> simp

@[simp] theorem changeLight_layout (u : Fin 32) (l : Light) :
    (s.changeLight u l).area.layout = s.area.layout := by
  unfold changeLight
  dsimp only
  (repeat' split) <;> simp

@[simp] theorem changeLight_groupRows (u : Fin 32) (l : Light) :
    (s.changeLight u l).area.groupRows = s.area.groupRows := by
  unfold changeLight
  dsimp only
  (repeat' split) <;> simp

@[simp] theorem changeLight_openCount (u : Fin 32) (l : Light) :
    (s.changeLight u l).openCount = s.openCount := by
  unfold changeLight
  dsimp only
  (repeat' split) <;> simp

@[simp] theorem changeLight_pending (u : Fin 32) (l : Light) :
    (s.changeLight u l).pending = s.pending := by
  unfold changeLight
  dsimp only
  (repeat' split) <;> simp

@[simp] theorem emitProbe_control (u : Fin 32) :
    (s.emitProbe u).control = s.control := by
  unfold emitProbe
  split <;> simp

@[simp] theorem emitProbe_lines (u : Fin 32) :
    (s.emitProbe u).monitor.lines = s.monitor.lines := by
  unfold emitProbe
  split <;> simp

@[simp] theorem emitProbe_conduits (u : Fin 32) :
    (s.emitProbe u).conduits = s.conduits := by
  unfold emitProbe
  split <;> simp

@[simp] theorem emitProbe_alarm (u : Fin 32) (cd : Fin 64) : (s.emitProbe u).alarm cd = s.alarm cd := by simp [alarm]

@[simp] theorem emitProbe_groups (u : Fin 32) :
    (s.emitProbe u).groups = s.groups := by
  unfold emitProbe
  split <;> simp

@[simp] theorem emitProbe_group (u : Fin 32) (gr : Nat) : (s.emitProbe u).group gr = s.group gr := by simp [group]

@[simp] theorem emitProbe_store (u : Fin 32) :
    (s.emitProbe u).store = s.store := by
  unfold emitProbe
  split <;> simp

@[simp] theorem emitProbe_engine (u : Fin 32) :
    (s.emitProbe u).engine = s.engine := by
  unfold emitProbe
  split <;> simp

@[simp] theorem emitProbe_area (u : Fin 32) :
    (s.emitProbe u).area = s.area := by
  unfold emitProbe
  split <;> simp

@[simp] theorem emitProbe_openCount (u : Fin 32) :
    (s.emitProbe u).openCount = s.openCount := by
  unfold emitProbe
  split <;> simp

@[simp] theorem emitProbe_pending (u : Fin 32) :
    (s.emitProbe u).pending = s.pending := by
  unfold emitProbe
  split <;> simp

@[simp] theorem judgeWindow_settings (u : Fin 32) :
    (s.judgeWindow u).control.settings = s.control.settings := by
  unfold judgeWindow
  dsimp only
  (repeat' split) <;> simp

@[simp] theorem judgeWindow_now (u : Fin 32) : (s.judgeWindow u).control.now = s.control.now :=
  now_of_settings (by simp)

@[simp] theorem judgeWindow_runState (u : Fin 32) : (s.judgeWindow u).control.runState = s.control.runState :=
  runState_of_settings (by simp)

@[simp] theorem judgeWindow_lines (u : Fin 32) :
    (s.judgeWindow u).monitor.lines = s.monitor.lines := by
  unfold judgeWindow
  dsimp only
  (repeat' split) <;> simp

@[simp] theorem judgeWindow_store (u : Fin 32) :
    (s.judgeWindow u).store = s.store := by
  unfold judgeWindow
  dsimp only
  (repeat' split) <;> simp

@[simp] theorem judgeWindow_port (u : Fin 32) :
    (s.judgeWindow u).port = s.port := by
  unfold judgeWindow
  dsimp only
  (repeat' split) <;> simp

@[simp] theorem judgeWindow_plan (u : Fin 32) :
    (s.judgeWindow u).area.plan = s.area.plan := by
  unfold judgeWindow
  dsimp only
  (repeat' split) <;> simp

@[simp] theorem judgeWindow_layout (u : Fin 32) :
    (s.judgeWindow u).area.layout = s.area.layout := by
  unfold judgeWindow
  dsimp only
  (repeat' split) <;> simp

@[simp] theorem judgeWindow_groupRows (u : Fin 32) :
    (s.judgeWindow u).area.groupRows = s.area.groupRows := by
  unfold judgeWindow
  dsimp only
  (repeat' split) <;> simp

@[simp] theorem judgeWindow_openCount (u : Fin 32) :
    (s.judgeWindow u).openCount = s.openCount := by
  unfold judgeWindow
  dsimp only
  (repeat' split) <;> simp

@[simp] theorem judgeWindow_pending (u : Fin 32) :
    (s.judgeWindow u).pending = s.pending := by
  unfold judgeWindow
  dsimp only
  (repeat' split) <;> simp

@[simp] theorem deliverAffirming_settings (u : Fin 32) :
    (s.deliverAffirming u).control.settings = s.control.settings := by
  unfold deliverAffirming
  (repeat' split) <;> simp

@[simp] theorem deliverAffirming_now (u : Fin 32) : (s.deliverAffirming u).control.now = s.control.now :=
  now_of_settings (by simp)

@[simp] theorem deliverAffirming_runState (u : Fin 32) : (s.deliverAffirming u).control.runState = s.control.runState :=
  runState_of_settings (by simp)

@[simp] theorem deliverAffirming_lines (u : Fin 32) :
    (s.deliverAffirming u).monitor.lines = s.monitor.lines := by
  unfold deliverAffirming
  (repeat' split) <;> simp

@[simp] theorem deliverAffirming_conduits (u : Fin 32) :
    (s.deliverAffirming u).conduits = s.conduits := by
  unfold deliverAffirming
  (repeat' split) <;> simp

@[simp] theorem deliverAffirming_alarm (u : Fin 32) (cd : Fin 64) : (s.deliverAffirming u).alarm cd = s.alarm cd := by simp [alarm]

@[simp] theorem deliverAffirming_store (u : Fin 32) :
    (s.deliverAffirming u).store = s.store := by
  unfold deliverAffirming
  (repeat' split) <;> simp

@[simp] theorem deliverAffirming_port (u : Fin 32) :
    (s.deliverAffirming u).port = s.port := by
  unfold deliverAffirming
  (repeat' split) <;> simp

@[simp] theorem deliverAffirming_plan (u : Fin 32) :
    (s.deliverAffirming u).area.plan = s.area.plan := by
  unfold deliverAffirming
  (repeat' split) <;> simp

@[simp] theorem deliverAffirming_layout (u : Fin 32) :
    (s.deliverAffirming u).area.layout = s.area.layout := by
  unfold deliverAffirming
  (repeat' split) <;> simp

@[simp] theorem deliverAffirming_groupRows (u : Fin 32) :
    (s.deliverAffirming u).area.groupRows = s.area.groupRows := by
  unfold deliverAffirming
  (repeat' split) <;> simp

@[simp] theorem deliverAffirming_openCount (u : Fin 32) :
    (s.deliverAffirming u).openCount = s.openCount := by
  unfold deliverAffirming
  (repeat' split) <;> simp

@[simp] theorem deliverAffirming_pending (u : Fin 32) :
    (s.deliverAffirming u).pending = s.pending := by
  unfold deliverAffirming
  (repeat' split) <;> simp

@[simp] theorem receiveProbe_settings (u : Fin 32) (p : ProbeContent) :
    (s.receiveProbe u p).control.settings = s.control.settings := by
  unfold receiveProbe
  dsimp only
  (repeat' split) <;> simp

@[simp] theorem receiveProbe_now (u : Fin 32) (p : ProbeContent) : (s.receiveProbe u p).control.now = s.control.now :=
  now_of_settings (by simp)

@[simp] theorem receiveProbe_runState (u : Fin 32) (p : ProbeContent) : (s.receiveProbe u p).control.runState = s.control.runState :=
  runState_of_settings (by simp)

@[simp] theorem receiveProbe_lines (u : Fin 32) (p : ProbeContent) :
    (s.receiveProbe u p).monitor.lines = s.monitor.lines := by
  unfold receiveProbe
  dsimp only
  (repeat' split) <;> simp

@[simp] theorem receiveProbe_conduits (u : Fin 32) (p : ProbeContent) :
    (s.receiveProbe u p).conduits = s.conduits := by
  unfold receiveProbe
  dsimp only
  (repeat' split) <;> simp

@[simp] theorem receiveProbe_alarm (u : Fin 32) (p : ProbeContent) (cd : Fin 64) : (s.receiveProbe u p).alarm cd = s.alarm cd := by simp [alarm]

@[simp] theorem receiveProbe_store (u : Fin 32) (p : ProbeContent) :
    (s.receiveProbe u p).store = s.store := by
  unfold receiveProbe
  dsimp only
  (repeat' split) <;> simp

@[simp] theorem receiveProbe_port (u : Fin 32) (p : ProbeContent) :
    (s.receiveProbe u p).port = s.port := by
  unfold receiveProbe
  dsimp only
  (repeat' split) <;> simp

@[simp] theorem receiveProbe_plan (u : Fin 32) (p : ProbeContent) :
    (s.receiveProbe u p).area.plan = s.area.plan := by
  unfold receiveProbe
  dsimp only
  (repeat' split) <;> simp

@[simp] theorem receiveProbe_layout (u : Fin 32) (p : ProbeContent) :
    (s.receiveProbe u p).area.layout = s.area.layout := by
  unfold receiveProbe
  dsimp only
  (repeat' split) <;> simp

@[simp] theorem receiveProbe_groupRows (u : Fin 32) (p : ProbeContent) :
    (s.receiveProbe u p).area.groupRows = s.area.groupRows := by
  unfold receiveProbe
  dsimp only
  (repeat' split) <;> simp

@[simp] theorem receiveProbe_openCount (u : Fin 32) (p : ProbeContent) :
    (s.receiveProbe u p).openCount = s.openCount := by
  unfold receiveProbe
  dsimp only
  (repeat' split) <;> simp

@[simp] theorem receiveProbe_pending (u : Fin 32) (p : ProbeContent) :
    (s.receiveProbe u p).pending = s.pending := by
  unfold receiveProbe
  dsimp only
  (repeat' split) <;> simp

@[simp] theorem arriveProbe_settings (b : Byte) (p : ProbeContent) :
    (s.arriveProbe b p).control.settings = s.control.settings := by
  unfold arriveProbe
  (repeat' split) <;> simp

@[simp] theorem arriveProbe_now (b : Byte) (p : ProbeContent) : (s.arriveProbe b p).control.now = s.control.now :=
  now_of_settings (by simp)

@[simp] theorem arriveProbe_runState (b : Byte) (p : ProbeContent) : (s.arriveProbe b p).control.runState = s.control.runState :=
  runState_of_settings (by simp)

@[simp] theorem arriveProbe_lines (b : Byte) (p : ProbeContent) :
    (s.arriveProbe b p).monitor.lines = s.monitor.lines := by
  unfold arriveProbe
  (repeat' split) <;> simp

@[simp] theorem arriveProbe_conduits (b : Byte) (p : ProbeContent) :
    (s.arriveProbe b p).conduits = s.conduits := by
  unfold arriveProbe
  (repeat' split) <;> simp

@[simp] theorem arriveProbe_alarm (b : Byte) (p : ProbeContent) (cd : Fin 64) : (s.arriveProbe b p).alarm cd = s.alarm cd := by simp [alarm]

@[simp] theorem arriveProbe_store (b : Byte) (p : ProbeContent) :
    (s.arriveProbe b p).store = s.store := by
  unfold arriveProbe
  (repeat' split) <;> simp

@[simp] theorem arriveProbe_port (b : Byte) (p : ProbeContent) :
    (s.arriveProbe b p).port = s.port := by
  unfold arriveProbe
  (repeat' split) <;> simp

@[simp] theorem arriveProbe_plan (b : Byte) (p : ProbeContent) :
    (s.arriveProbe b p).area.plan = s.area.plan := by
  unfold arriveProbe
  (repeat' split) <;> simp

@[simp] theorem arriveProbe_layout (b : Byte) (p : ProbeContent) :
    (s.arriveProbe b p).area.layout = s.area.layout := by
  unfold arriveProbe
  (repeat' split) <;> simp

@[simp] theorem arriveProbe_groupRows (b : Byte) (p : ProbeContent) :
    (s.arriveProbe b p).area.groupRows = s.area.groupRows := by
  unfold arriveProbe
  (repeat' split) <;> simp

@[simp] theorem arriveProbe_pending (b : Byte) (p : ProbeContent) :
    (s.arriveProbe b p).pending = s.pending := by
  unfold arriveProbe
  (repeat' split) <;> simp

@[simp] theorem judgeDrill_settings (u : Fin 32) (d : DrillRecord) :
    (s.judgeDrill u d).control.settings = s.control.settings := by
  unfold judgeDrill
  (repeat' split) <;> simp

@[simp] theorem judgeDrill_now (u : Fin 32) (d : DrillRecord) : (s.judgeDrill u d).control.now = s.control.now :=
  now_of_settings (by simp)

@[simp] theorem judgeDrill_runState (u : Fin 32) (d : DrillRecord) : (s.judgeDrill u d).control.runState = s.control.runState :=
  runState_of_settings (by simp)

@[simp] theorem judgeDrill_lines (u : Fin 32) (d : DrillRecord) :
    (s.judgeDrill u d).monitor.lines = s.monitor.lines := by
  unfold judgeDrill
  (repeat' split) <;> simp

@[simp] theorem judgeDrill_store (u : Fin 32) (d : DrillRecord) :
    (s.judgeDrill u d).store = s.store := by
  unfold judgeDrill
  (repeat' split) <;> simp

@[simp] theorem judgeDrill_port (u : Fin 32) (d : DrillRecord) :
    (s.judgeDrill u d).port = s.port := by
  unfold judgeDrill
  (repeat' split) <;> simp

@[simp] theorem judgeDrill_plan (u : Fin 32) (d : DrillRecord) :
    (s.judgeDrill u d).area.plan = s.area.plan := by
  unfold judgeDrill
  (repeat' split) <;> simp

@[simp] theorem judgeDrill_layout (u : Fin 32) (d : DrillRecord) :
    (s.judgeDrill u d).area.layout = s.area.layout := by
  unfold judgeDrill
  (repeat' split) <;> simp

@[simp] theorem judgeDrill_groupRows (u : Fin 32) (d : DrillRecord) :
    (s.judgeDrill u d).area.groupRows = s.area.groupRows := by
  unfold judgeDrill
  (repeat' split) <;> simp

@[simp] theorem judgeDrill_openCount (u : Fin 32) (d : DrillRecord) :
    (s.judgeDrill u d).openCount = s.openCount := by
  unfold judgeDrill
  (repeat' split) <;> simp

@[simp] theorem judgeDrill_pending (u : Fin 32) (d : DrillRecord) :
    (s.judgeDrill u d).pending = s.pending := by
  unfold judgeDrill
  (repeat' split) <;> simp

@[simp] theorem endDrill_settings (u : Fin 32) (d : DrillRecord) (f : Bool) (r : OrderReason) :
    (s.endDrill u d f r).control.settings = s.control.settings := by
  unfold endDrill
  simp

@[simp] theorem endDrill_now (u : Fin 32) (d : DrillRecord) (f : Bool) (r : OrderReason) : (s.endDrill u d f r).control.now = s.control.now :=
  now_of_settings (by simp)

@[simp] theorem endDrill_runState (u : Fin 32) (d : DrillRecord) (f : Bool) (r : OrderReason) : (s.endDrill u d f r).control.runState = s.control.runState :=
  runState_of_settings (by simp)

@[simp] theorem endDrill_lines (u : Fin 32) (d : DrillRecord) (f : Bool) (r : OrderReason) :
    (s.endDrill u d f r).monitor.lines = s.monitor.lines := by
  unfold endDrill
  simp

@[simp] theorem endDrill_store (u : Fin 32) (d : DrillRecord) (f : Bool) (r : OrderReason) :
    (s.endDrill u d f r).store = s.store := by
  unfold endDrill
  simp

@[simp] theorem endDrill_port (u : Fin 32) (d : DrillRecord) (f : Bool) (r : OrderReason) :
    (s.endDrill u d f r).port = s.port := by
  unfold endDrill
  simp

@[simp] theorem endDrill_plan (u : Fin 32) (d : DrillRecord) (f : Bool) (r : OrderReason) :
    (s.endDrill u d f r).area.plan = s.area.plan := by
  unfold endDrill
  simp

@[simp] theorem endDrill_layout (u : Fin 32) (d : DrillRecord) (f : Bool) (r : OrderReason) :
    (s.endDrill u d f r).area.layout = s.area.layout := by
  unfold endDrill
  simp

@[simp] theorem endDrill_groupRows (u : Fin 32) (d : DrillRecord) (f : Bool) (r : OrderReason) :
    (s.endDrill u d f r).area.groupRows = s.area.groupRows := by
  unfold endDrill
  simp

@[simp] theorem endDrill_openCount (u : Fin 32) (d : DrillRecord) (f : Bool) (r : OrderReason) :
    (s.endDrill u d f r).openCount = s.openCount := by
  unfold endDrill
  simp

@[simp] theorem endDrill_pending (u : Fin 32) (d : DrillRecord) (f : Bool) (r : OrderReason) :
    (s.endDrill u d f r).pending = s.pending := by
  unfold endDrill
  simp

@[simp] theorem takeDrillStart_settings (o : OrderInHand) :
    (s.takeDrillStart o).control.settings = s.control.settings := by
  unfold takeDrillStart
  (repeat' split) <;> simp

@[simp] theorem takeDrillStart_now (o : OrderInHand) : (s.takeDrillStart o).control.now = s.control.now :=
  now_of_settings (by simp)

@[simp] theorem takeDrillStart_runState (o : OrderInHand) : (s.takeDrillStart o).control.runState = s.control.runState :=
  runState_of_settings (by simp)

@[simp] theorem takeDrillStart_lines (o : OrderInHand) :
    (s.takeDrillStart o).monitor.lines = s.monitor.lines := by
  unfold takeDrillStart
  (repeat' split) <;> simp

@[simp] theorem takeDrillStart_store (o : OrderInHand) :
    (s.takeDrillStart o).store = s.store := by
  unfold takeDrillStart
  (repeat' split) <;> simp

@[simp] theorem takeDrillStart_port (o : OrderInHand) :
    (s.takeDrillStart o).port = s.port := by
  unfold takeDrillStart
  (repeat' split) <;> simp

@[simp] theorem takeDrillStart_plan (o : OrderInHand) :
    (s.takeDrillStart o).area.plan = s.area.plan := by
  unfold takeDrillStart
  (repeat' split) <;> simp

@[simp] theorem takeDrillStart_layout (o : OrderInHand) :
    (s.takeDrillStart o).area.layout = s.area.layout := by
  unfold takeDrillStart
  (repeat' split) <;> simp

@[simp] theorem takeDrillStart_groupRows (o : OrderInHand) :
    (s.takeDrillStart o).area.groupRows = s.area.groupRows := by
  unfold takeDrillStart
  (repeat' split) <;> simp

@[simp] theorem takeDrillStart_openCount (o : OrderInHand) :
    (s.takeDrillStart o).openCount = s.openCount := by
  unfold takeDrillStart
  (repeat' split) <;> simp

@[simp] theorem takeDrillStart_pending (o : OrderInHand) :
    (s.takeDrillStart o).pending = s.pending := by
  unfold takeDrillStart
  (repeat' split) <;> simp

@[simp] theorem takeDrillEnd_settings (o : OrderInHand) :
    (s.takeDrillEnd o).control.settings = s.control.settings := by
  unfold takeDrillEnd
  (repeat' split) <;> simp

@[simp] theorem takeDrillEnd_now (o : OrderInHand) : (s.takeDrillEnd o).control.now = s.control.now :=
  now_of_settings (by simp)

@[simp] theorem takeDrillEnd_runState (o : OrderInHand) : (s.takeDrillEnd o).control.runState = s.control.runState :=
  runState_of_settings (by simp)

@[simp] theorem takeDrillEnd_lines (o : OrderInHand) :
    (s.takeDrillEnd o).monitor.lines = s.monitor.lines := by
  unfold takeDrillEnd
  (repeat' split) <;> simp

@[simp] theorem takeDrillEnd_store (o : OrderInHand) :
    (s.takeDrillEnd o).store = s.store := by
  unfold takeDrillEnd
  (repeat' split) <;> simp

@[simp] theorem takeDrillEnd_port (o : OrderInHand) :
    (s.takeDrillEnd o).port = s.port := by
  unfold takeDrillEnd
  (repeat' split) <;> simp

@[simp] theorem takeDrillEnd_plan (o : OrderInHand) :
    (s.takeDrillEnd o).area.plan = s.area.plan := by
  unfold takeDrillEnd
  (repeat' split) <;> simp

@[simp] theorem takeDrillEnd_layout (o : OrderInHand) :
    (s.takeDrillEnd o).area.layout = s.area.layout := by
  unfold takeDrillEnd
  (repeat' split) <;> simp

@[simp] theorem takeDrillEnd_groupRows (o : OrderInHand) :
    (s.takeDrillEnd o).area.groupRows = s.area.groupRows := by
  unfold takeDrillEnd
  (repeat' split) <;> simp

@[simp] theorem takeDrillEnd_openCount (o : OrderInHand) :
    (s.takeDrillEnd o).openCount = s.openCount := by
  unfold takeDrillEnd
  (repeat' split) <;> simp

@[simp] theorem takeDrillEnd_pending (o : OrderInHand) :
    (s.takeDrillEnd o).pending = s.pending := by
  unfold takeDrillEnd
  (repeat' split) <;> simp

@[simp] theorem takeRelease_settings (o : OrderInHand) :
    (s.takeRelease o).control.settings = s.control.settings := by
  unfold takeRelease
  (repeat' split) <;> simp

@[simp] theorem takeRelease_now (o : OrderInHand) : (s.takeRelease o).control.now = s.control.now :=
  now_of_settings (by simp)

@[simp] theorem takeRelease_runState (o : OrderInHand) : (s.takeRelease o).control.runState = s.control.runState :=
  runState_of_settings (by simp)

@[simp] theorem takeRelease_lines (o : OrderInHand) :
    (s.takeRelease o).monitor.lines = s.monitor.lines := by
  unfold takeRelease
  (repeat' split) <;> simp

@[simp] theorem takeRelease_store (o : OrderInHand) :
    (s.takeRelease o).store = s.store := by
  unfold takeRelease
  (repeat' split) <;> simp

@[simp] theorem takeRelease_port (o : OrderInHand) :
    (s.takeRelease o).port = s.port := by
  unfold takeRelease
  (repeat' split) <;> simp

@[simp] theorem takeRelease_plan (o : OrderInHand) :
    (s.takeRelease o).area.plan = s.area.plan := by
  unfold takeRelease
  (repeat' split) <;> simp

@[simp] theorem takeRelease_layout (o : OrderInHand) :
    (s.takeRelease o).area.layout = s.area.layout := by
  unfold takeRelease
  (repeat' split) <;> simp

@[simp] theorem takeRelease_groupRows (o : OrderInHand) :
    (s.takeRelease o).area.groupRows = s.area.groupRows := by
  unfold takeRelease
  (repeat' split) <;> simp

@[simp] theorem takeRelease_openCount (o : OrderInHand) :
    (s.takeRelease o).openCount = s.openCount := by
  unfold takeRelease
  (repeat' split) <;> simp

@[simp] theorem takeRelease_pending (o : OrderInHand) :
    (s.takeRelease o).pending = s.pending := by
  unfold takeRelease
  (repeat' split) <;> simp

@[simp] theorem adoptEmpty_settings (u : Fin 32) :
    (s.adoptEmpty u).control.settings = s.control.settings := by
  unfold adoptEmpty
  dsimp only
  (repeat' split) <;> simp

@[simp] theorem adoptEmpty_now (u : Fin 32) : (s.adoptEmpty u).control.now = s.control.now :=
  now_of_settings (by simp)

@[simp] theorem adoptEmpty_runState (u : Fin 32) : (s.adoptEmpty u).control.runState = s.control.runState :=
  runState_of_settings (by simp)

@[simp] theorem adoptEmpty_lines (u : Fin 32) :
    (s.adoptEmpty u).monitor.lines = s.monitor.lines := by
  unfold adoptEmpty
  dsimp only
  (repeat' split) <;> simp

@[simp] theorem adoptEmpty_conduits (u : Fin 32) :
    (s.adoptEmpty u).conduits = s.conduits := by
  unfold adoptEmpty
  dsimp only
  (repeat' split) <;> simp

@[simp] theorem adoptEmpty_alarm (u : Fin 32) (cd : Fin 64) : (s.adoptEmpty u).alarm cd = s.alarm cd := by simp [alarm]

@[simp] theorem adoptEmpty_store (u : Fin 32) :
    (s.adoptEmpty u).store = s.store := by
  unfold adoptEmpty
  dsimp only
  (repeat' split) <;> simp

@[simp] theorem adoptEmpty_port (u : Fin 32) :
    (s.adoptEmpty u).port = s.port := by
  unfold adoptEmpty
  dsimp only
  (repeat' split) <;> simp

@[simp] theorem adoptEmpty_plan (u : Fin 32) :
    (s.adoptEmpty u).area.plan = s.area.plan := by
  unfold adoptEmpty
  dsimp only
  (repeat' split) <;> simp

@[simp] theorem adoptEmpty_layout (u : Fin 32) :
    (s.adoptEmpty u).area.layout = s.area.layout := by
  unfold adoptEmpty
  dsimp only
  (repeat' split) <;> simp

@[simp] theorem adoptEmpty_groupRows (u : Fin 32) :
    (s.adoptEmpty u).area.groupRows = s.area.groupRows := by
  unfold adoptEmpty
  dsimp only
  (repeat' split) <;> simp

@[simp] theorem adoptEmpty_openCount (u : Fin 32) :
    (s.adoptEmpty u).openCount = s.openCount := by
  unfold adoptEmpty
  dsimp only
  (repeat' split) <;> simp

@[simp] theorem adoptEmpty_pending (u : Fin 32) :
    (s.adoptEmpty u).pending = s.pending := by
  unfold adoptEmpty
  dsimp only
  (repeat' split) <;> simp

@[simp] theorem adoptDisabled_settings (u : Fin 32) (p : UplinkParams) :
    (s.adoptDisabled u p).control.settings = s.control.settings := by
  unfold adoptDisabled
  dsimp only
  (repeat' split) <;> simp

@[simp] theorem adoptDisabled_now (u : Fin 32) (p : UplinkParams) : (s.adoptDisabled u p).control.now = s.control.now :=
  now_of_settings (by simp)

@[simp] theorem adoptDisabled_runState (u : Fin 32) (p : UplinkParams) : (s.adoptDisabled u p).control.runState = s.control.runState :=
  runState_of_settings (by simp)

@[simp] theorem adoptDisabled_lines (u : Fin 32) (p : UplinkParams) :
    (s.adoptDisabled u p).monitor.lines = s.monitor.lines := by
  unfold adoptDisabled
  dsimp only
  (repeat' split) <;> simp

@[simp] theorem adoptDisabled_conduits (u : Fin 32) (p : UplinkParams) :
    (s.adoptDisabled u p).conduits = s.conduits := by
  unfold adoptDisabled
  dsimp only
  (repeat' split) <;> simp

@[simp] theorem adoptDisabled_alarm (u : Fin 32) (p : UplinkParams) (cd : Fin 64) : (s.adoptDisabled u p).alarm cd = s.alarm cd := by simp [alarm]

@[simp] theorem adoptDisabled_store (u : Fin 32) (p : UplinkParams) :
    (s.adoptDisabled u p).store = s.store := by
  unfold adoptDisabled
  dsimp only
  (repeat' split) <;> simp

@[simp] theorem adoptDisabled_port (u : Fin 32) (p : UplinkParams) :
    (s.adoptDisabled u p).port = s.port := by
  unfold adoptDisabled
  dsimp only
  (repeat' split) <;> simp

@[simp] theorem adoptDisabled_plan (u : Fin 32) (p : UplinkParams) :
    (s.adoptDisabled u p).area.plan = s.area.plan := by
  unfold adoptDisabled
  dsimp only
  (repeat' split) <;> simp

@[simp] theorem adoptDisabled_layout (u : Fin 32) (p : UplinkParams) :
    (s.adoptDisabled u p).area.layout = s.area.layout := by
  unfold adoptDisabled
  dsimp only
  (repeat' split) <;> simp

@[simp] theorem adoptDisabled_groupRows (u : Fin 32) (p : UplinkParams) :
    (s.adoptDisabled u p).area.groupRows = s.area.groupRows := by
  unfold adoptDisabled
  dsimp only
  (repeat' split) <;> simp

@[simp] theorem adoptDisabled_openCount (u : Fin 32) (p : UplinkParams) :
    (s.adoptDisabled u p).openCount = s.openCount := by
  unfold adoptDisabled
  dsimp only
  (repeat' split) <;> simp

@[simp] theorem adoptDisabled_pending (u : Fin 32) (p : UplinkParams) :
    (s.adoptDisabled u p).pending = s.pending := by
  unfold adoptDisabled
  dsimp only
  (repeat' split) <;> simp

@[simp] theorem firstWindow_control (u : Fin 32) :
    (s.firstWindow u).control = s.control := by
  unfold firstWindow
  simp

@[simp] theorem firstWindow_lines (u : Fin 32) :
    (s.firstWindow u).monitor.lines = s.monitor.lines := by
  unfold firstWindow
  simp

@[simp] theorem firstWindow_conduits (u : Fin 32) :
    (s.firstWindow u).conduits = s.conduits := by
  unfold firstWindow
  simp

@[simp] theorem firstWindow_alarm (u : Fin 32) (cd : Fin 64) : (s.firstWindow u).alarm cd = s.alarm cd := by simp [alarm]

@[simp] theorem firstWindow_groups (u : Fin 32) :
    (s.firstWindow u).groups = s.groups := by
  unfold firstWindow
  simp

@[simp] theorem firstWindow_group (u : Fin 32) (gr : Nat) : (s.firstWindow u).group gr = s.group gr := by simp [group]

@[simp] theorem firstWindow_store (u : Fin 32) :
    (s.firstWindow u).store = s.store := by
  unfold firstWindow
  simp

@[simp] theorem firstWindow_engine (u : Fin 32) :
    (s.firstWindow u).engine = s.engine := by
  unfold firstWindow
  simp

@[simp] theorem firstWindow_area (u : Fin 32) :
    (s.firstWindow u).area = s.area := by
  unfold firstWindow
  simp

@[simp] theorem firstWindow_openCount (u : Fin 32) :
    (s.firstWindow u).openCount = s.openCount := by
  unfold firstWindow
  simp

@[simp] theorem firstWindow_pending (u : Fin 32) :
    (s.firstWindow u).pending = s.pending := by
  unfold firstWindow
  simp

@[simp] theorem enable_settings (u : Fin 32) (p : UplinkParams) :
    (s.enable u p).control.settings = s.control.settings := by
  unfold enable
  dsimp only
  (repeat' split) <;> simp

@[simp] theorem enable_now (u : Fin 32) (p : UplinkParams) : (s.enable u p).control.now = s.control.now :=
  now_of_settings (by simp)

@[simp] theorem enable_runState (u : Fin 32) (p : UplinkParams) : (s.enable u p).control.runState = s.control.runState :=
  runState_of_settings (by simp)

@[simp] theorem enable_lines (u : Fin 32) (p : UplinkParams) :
    (s.enable u p).monitor.lines = s.monitor.lines := by
  unfold enable
  dsimp only
  (repeat' split) <;> simp

@[simp] theorem enable_conduits (u : Fin 32) (p : UplinkParams) :
    (s.enable u p).conduits = s.conduits := by
  unfold enable
  dsimp only
  (repeat' split) <;> simp

@[simp] theorem enable_alarm (u : Fin 32) (p : UplinkParams) (cd : Fin 64) : (s.enable u p).alarm cd = s.alarm cd := by simp [alarm]

@[simp] theorem enable_store (u : Fin 32) (p : UplinkParams) :
    (s.enable u p).store = s.store := by
  unfold enable
  dsimp only
  (repeat' split) <;> simp

@[simp] theorem enable_plan (u : Fin 32) (p : UplinkParams) :
    (s.enable u p).area.plan = s.area.plan := by
  unfold enable
  dsimp only
  (repeat' split) <;> simp

@[simp] theorem enable_layout (u : Fin 32) (p : UplinkParams) :
    (s.enable u p).area.layout = s.area.layout := by
  unfold enable
  dsimp only
  (repeat' split) <;> simp

@[simp] theorem enable_groupRows (u : Fin 32) (p : UplinkParams) :
    (s.enable u p).area.groupRows = s.area.groupRows := by
  unfold enable
  dsimp only
  (repeat' split) <;> simp

@[simp] theorem enable_openCount (u : Fin 32) (p : UplinkParams) :
    (s.enable u p).openCount = s.openCount := by
  unfold enable
  dsimp only
  (repeat' split) <;> simp

@[simp] theorem enable_pending (u : Fin 32) (p : UplinkParams) :
    (s.enable u p).pending = s.pending := by
  unfold enable
  dsimp only
  (repeat' split) <;> simp

@[simp] theorem repeer_settings (u : Fin 32) (p : UplinkParams) :
    (s.repeer u p).control.settings = s.control.settings := by
  unfold repeer
  simp

@[simp] theorem repeer_now (u : Fin 32) (p : UplinkParams) : (s.repeer u p).control.now = s.control.now :=
  now_of_settings (by simp)

@[simp] theorem repeer_runState (u : Fin 32) (p : UplinkParams) : (s.repeer u p).control.runState = s.control.runState :=
  runState_of_settings (by simp)

@[simp] theorem repeer_lines (u : Fin 32) (p : UplinkParams) :
    (s.repeer u p).monitor.lines = s.monitor.lines := by
  unfold repeer
  simp

@[simp] theorem repeer_conduits (u : Fin 32) (p : UplinkParams) :
    (s.repeer u p).conduits = s.conduits := by
  unfold repeer
  simp

@[simp] theorem repeer_alarm (u : Fin 32) (p : UplinkParams) (cd : Fin 64) : (s.repeer u p).alarm cd = s.alarm cd := by simp [alarm]

@[simp] theorem repeer_store (u : Fin 32) (p : UplinkParams) :
    (s.repeer u p).store = s.store := by
  unfold repeer
  simp

@[simp] theorem repeer_port (u : Fin 32) (p : UplinkParams) :
    (s.repeer u p).port = s.port := by
  unfold repeer
  simp

@[simp] theorem repeer_plan (u : Fin 32) (p : UplinkParams) :
    (s.repeer u p).area.plan = s.area.plan := by
  unfold repeer
  simp

@[simp] theorem repeer_layout (u : Fin 32) (p : UplinkParams) :
    (s.repeer u p).area.layout = s.area.layout := by
  unfold repeer
  simp

@[simp] theorem repeer_groupRows (u : Fin 32) (p : UplinkParams) :
    (s.repeer u p).area.groupRows = s.area.groupRows := by
  unfold repeer
  simp

@[simp] theorem repeer_openCount (u : Fin 32) (p : UplinkParams) :
    (s.repeer u p).openCount = s.openCount := by
  unfold repeer
  simp

@[simp] theorem repeer_pending (u : Fin 32) (p : UplinkParams) :
    (s.repeer u p).pending = s.pending := by
  unfold repeer
  simp

@[simp] theorem retune_control (u : Fin 32) (p : UplinkParams) :
    (s.retune u p).control = s.control := by
  unfold retune
  dsimp only
  (repeat' split) <;> simp

@[simp] theorem retune_lines (u : Fin 32) (p : UplinkParams) :
    (s.retune u p).monitor.lines = s.monitor.lines := by
  unfold retune
  dsimp only
  (repeat' split) <;> simp

@[simp] theorem retune_conduits (u : Fin 32) (p : UplinkParams) :
    (s.retune u p).conduits = s.conduits := by
  unfold retune
  dsimp only
  (repeat' split) <;> simp

@[simp] theorem retune_alarm (u : Fin 32) (p : UplinkParams) (cd : Fin 64) : (s.retune u p).alarm cd = s.alarm cd := by simp [alarm]

@[simp] theorem retune_store (u : Fin 32) (p : UplinkParams) :
    (s.retune u p).store = s.store := by
  unfold retune
  dsimp only
  (repeat' split) <;> simp

@[simp] theorem retune_port (u : Fin 32) (p : UplinkParams) :
    (s.retune u p).port = s.port := by
  unfold retune
  dsimp only
  (repeat' split) <;> simp

@[simp] theorem retune_engine (u : Fin 32) (p : UplinkParams) :
    (s.retune u p).engine = s.engine := by
  unfold retune
  dsimp only
  (repeat' split) <;> simp

@[simp] theorem retune_area (u : Fin 32) (p : UplinkParams) :
    (s.retune u p).area = s.area := by
  unfold retune
  dsimp only
  (repeat' split) <;> simp

@[simp] theorem retune_openCount (u : Fin 32) (p : UplinkParams) :
    (s.retune u p).openCount = s.openCount := by
  unfold retune
  dsimp only
  (repeat' split) <;> simp

@[simp] theorem retune_pending (u : Fin 32) (p : UplinkParams) :
    (s.retune u p).pending = s.pending := by
  unfold retune
  dsimp only
  (repeat' split) <;> simp

@[simp] theorem adoptEnabled_settings (u : Fin 32) (p : UplinkParams) :
    (s.adoptEnabled u p).control.settings = s.control.settings := by
  unfold adoptEnabled
  dsimp only
  (repeat' split) <;> simp

@[simp] theorem adoptEnabled_now (u : Fin 32) (p : UplinkParams) : (s.adoptEnabled u p).control.now = s.control.now :=
  now_of_settings (by simp)

@[simp] theorem adoptEnabled_runState (u : Fin 32) (p : UplinkParams) : (s.adoptEnabled u p).control.runState = s.control.runState :=
  runState_of_settings (by simp)

@[simp] theorem adoptEnabled_lines (u : Fin 32) (p : UplinkParams) :
    (s.adoptEnabled u p).monitor.lines = s.monitor.lines := by
  unfold adoptEnabled
  dsimp only
  (repeat' split) <;> simp

@[simp] theorem adoptEnabled_conduits (u : Fin 32) (p : UplinkParams) :
    (s.adoptEnabled u p).conduits = s.conduits := by
  unfold adoptEnabled
  dsimp only
  (repeat' split) <;> simp

@[simp] theorem adoptEnabled_alarm (u : Fin 32) (p : UplinkParams) (cd : Fin 64) : (s.adoptEnabled u p).alarm cd = s.alarm cd := by simp [alarm]

@[simp] theorem adoptEnabled_store (u : Fin 32) (p : UplinkParams) :
    (s.adoptEnabled u p).store = s.store := by
  unfold adoptEnabled
  dsimp only
  (repeat' split) <;> simp

@[simp] theorem adoptEnabled_plan (u : Fin 32) (p : UplinkParams) :
    (s.adoptEnabled u p).area.plan = s.area.plan := by
  unfold adoptEnabled
  dsimp only
  (repeat' split) <;> simp

@[simp] theorem adoptEnabled_layout (u : Fin 32) (p : UplinkParams) :
    (s.adoptEnabled u p).area.layout = s.area.layout := by
  unfold adoptEnabled
  dsimp only
  (repeat' split) <;> simp

@[simp] theorem adoptEnabled_groupRows (u : Fin 32) (p : UplinkParams) :
    (s.adoptEnabled u p).area.groupRows = s.area.groupRows := by
  unfold adoptEnabled
  dsimp only
  (repeat' split) <;> simp

@[simp] theorem adoptEnabled_openCount (u : Fin 32) (p : UplinkParams) :
    (s.adoptEnabled u p).openCount = s.openCount := by
  unfold adoptEnabled
  dsimp only
  (repeat' split) <;> simp

@[simp] theorem adoptEnabled_pending (u : Fin 32) (p : UplinkParams) :
    (s.adoptEnabled u p).pending = s.pending := by
  unfold adoptEnabled
  dsimp only
  (repeat' split) <;> simp

@[simp] theorem applyUplinkRow_settings (u : Fin 32) (r : UplinkRow) :
    (s.applyUplinkRow u r).control.settings = s.control.settings := by
  unfold applyUplinkRow
  split <;> simp

@[simp] theorem applyUplinkRow_now (u : Fin 32) (r : UplinkRow) : (s.applyUplinkRow u r).control.now = s.control.now :=
  now_of_settings (by simp)

@[simp] theorem applyUplinkRow_runState (u : Fin 32) (r : UplinkRow) : (s.applyUplinkRow u r).control.runState = s.control.runState :=
  runState_of_settings (by simp)

@[simp] theorem applyUplinkRow_lines (u : Fin 32) (r : UplinkRow) :
    (s.applyUplinkRow u r).monitor.lines = s.monitor.lines := by
  unfold applyUplinkRow
  split <;> simp

@[simp] theorem applyUplinkRow_conduits (u : Fin 32) (r : UplinkRow) :
    (s.applyUplinkRow u r).conduits = s.conduits := by
  unfold applyUplinkRow
  split <;> simp

@[simp] theorem applyUplinkRow_alarm (u : Fin 32) (r : UplinkRow) (cd : Fin 64) : (s.applyUplinkRow u r).alarm cd = s.alarm cd := by simp [alarm]

@[simp] theorem applyUplinkRow_store (u : Fin 32) (r : UplinkRow) :
    (s.applyUplinkRow u r).store = s.store := by
  unfold applyUplinkRow
  split <;> simp

@[simp] theorem applyUplinkRow_plan (u : Fin 32) (r : UplinkRow) :
    (s.applyUplinkRow u r).area.plan = s.area.plan := by
  unfold applyUplinkRow
  split <;> simp

@[simp] theorem applyUplinkRow_layout (u : Fin 32) (r : UplinkRow) :
    (s.applyUplinkRow u r).area.layout = s.area.layout := by
  unfold applyUplinkRow
  split <;> simp

@[simp] theorem applyUplinkRow_groupRows (u : Fin 32) (r : UplinkRow) :
    (s.applyUplinkRow u r).area.groupRows = s.area.groupRows := by
  unfold applyUplinkRow
  split <;> simp

@[simp] theorem applyUplinkRow_openCount (u : Fin 32) (r : UplinkRow) :
    (s.applyUplinkRow u r).openCount = s.openCount := by
  unfold applyUplinkRow
  split <;> simp

@[simp] theorem applyUplinkRow_pending (u : Fin 32) (r : UplinkRow) :
    (s.applyUplinkRow u r).pending = s.pending := by
  unfold applyUplinkRow
  split <;> simp

@[simp] theorem endDrillForRow_settings (u : Fin 32) :
    (s.endDrillForRow u).control.settings = s.control.settings := by
  unfold endDrillForRow
  split <;> simp

@[simp] theorem endDrillForRow_now (u : Fin 32) : (s.endDrillForRow u).control.now = s.control.now :=
  now_of_settings (by simp)

@[simp] theorem endDrillForRow_runState (u : Fin 32) : (s.endDrillForRow u).control.runState = s.control.runState :=
  runState_of_settings (by simp)

@[simp] theorem endDrillForRow_lines (u : Fin 32) :
    (s.endDrillForRow u).monitor.lines = s.monitor.lines := by
  unfold endDrillForRow
  split <;> simp

@[simp] theorem endDrillForRow_store (u : Fin 32) :
    (s.endDrillForRow u).store = s.store := by
  unfold endDrillForRow
  split <;> simp

@[simp] theorem endDrillForRow_port (u : Fin 32) :
    (s.endDrillForRow u).port = s.port := by
  unfold endDrillForRow
  split <;> simp

@[simp] theorem endDrillForRow_plan (u : Fin 32) :
    (s.endDrillForRow u).area.plan = s.area.plan := by
  unfold endDrillForRow
  split <;> simp

@[simp] theorem endDrillForRow_layout (u : Fin 32) :
    (s.endDrillForRow u).area.layout = s.area.layout := by
  unfold endDrillForRow
  split <;> simp

@[simp] theorem endDrillForRow_groupRows (u : Fin 32) :
    (s.endDrillForRow u).area.groupRows = s.area.groupRows := by
  unfold endDrillForRow
  split <;> simp

@[simp] theorem endDrillForRow_openCount (u : Fin 32) :
    (s.endDrillForRow u).openCount = s.openCount := by
  unfold endDrillForRow
  split <;> simp

@[simp] theorem endDrillForRow_pending (u : Fin 32) :
    (s.endDrillForRow u).pending = s.pending := by
  unfold endDrillForRow
  split <;> simp

@[simp] theorem adoptUplinkRow_settings (u : Fin 32) (r : UplinkRow) (g : Generation) :
    (s.adoptUplinkRow u r g).control.settings = s.control.settings := by
  unfold adoptUplinkRow
  simp

@[simp] theorem adoptUplinkRow_now (u : Fin 32) (r : UplinkRow) (g : Generation) : (s.adoptUplinkRow u r g).control.now = s.control.now :=
  now_of_settings (by simp)

@[simp] theorem adoptUplinkRow_runState (u : Fin 32) (r : UplinkRow) (g : Generation) : (s.adoptUplinkRow u r g).control.runState = s.control.runState :=
  runState_of_settings (by simp)

@[simp] theorem adoptUplinkRow_lines (u : Fin 32) (r : UplinkRow) (g : Generation) :
    (s.adoptUplinkRow u r g).monitor.lines = s.monitor.lines := by
  unfold adoptUplinkRow
  simp

@[simp] theorem adoptUplinkRow_store (u : Fin 32) (r : UplinkRow) (g : Generation) :
    (s.adoptUplinkRow u r g).store = s.store := by
  unfold adoptUplinkRow
  simp

@[simp] theorem adoptUplinkRow_plan (u : Fin 32) (r : UplinkRow) (g : Generation) :
    (s.adoptUplinkRow u r g).area.plan = s.area.plan := by
  unfold adoptUplinkRow
  simp

@[simp] theorem adoptUplinkRow_layout (u : Fin 32) (r : UplinkRow) (g : Generation) :
    (s.adoptUplinkRow u r g).area.layout = s.area.layout := by
  unfold adoptUplinkRow
  simp

@[simp] theorem adoptUplinkRow_groupRows (u : Fin 32) (r : UplinkRow) (g : Generation) :
    (s.adoptUplinkRow u r g).area.groupRows = s.area.groupRows := by
  unfold adoptUplinkRow
  simp

@[simp] theorem adoptUplinkRow_openCount (u : Fin 32) (r : UplinkRow) (g : Generation) :
    (s.adoptUplinkRow u r g).openCount = s.openCount := by
  unfold adoptUplinkRow
  simp

@[simp] theorem adoptUplinkRow_pending (u : Fin 32) (r : UplinkRow) (g : Generation) :
    (s.adoptUplinkRow u r g).pending = s.pending := by
  unfold adoptUplinkRow
  simp

@[simp] theorem abandonBlockStep_control (g : Nat) :
    (s.abandonBlockStep g).control = s.control := by
  unfold abandonBlockStep
  split <;> simp

@[simp] theorem abandonBlockStep_monitor (g : Nat) :
    (s.abandonBlockStep g).monitor = s.monitor := by
  unfold abandonBlockStep
  split <;> simp

@[simp] theorem abandonBlockStep_uplink (g : Nat) (v : Fin 32) : (s.abandonBlockStep g).uplink v = s.uplink v := by simp [uplink]

@[simp] theorem abandonBlockStep_conduits (g : Nat) :
    (s.abandonBlockStep g).conduits = s.conduits := by
  unfold abandonBlockStep
  split <;> simp

@[simp] theorem abandonBlockStep_alarm (g : Nat) (cd : Fin 64) : (s.abandonBlockStep g).alarm cd = s.alarm cd := by simp [alarm]

@[simp] theorem abandonBlockStep_groups (g : Nat) :
    (s.abandonBlockStep g).groups = s.groups := by
  unfold abandonBlockStep
  split <;> simp

@[simp] theorem abandonBlockStep_group (g : Nat) (gr : Nat) : (s.abandonBlockStep g).group gr = s.group gr := by simp [group]

@[simp] theorem abandonBlockStep_store_memory (g : Nat) :
    (s.abandonBlockStep g).store.memory = s.store.memory := by
  unfold abandonBlockStep
  split <;> simp

@[simp] theorem abandonBlockStep_store_owners (g : Nat) :
    (s.abandonBlockStep g).store.owners = s.store.owners := by
  unfold abandonBlockStep
  split <;> simp

@[simp] theorem abandonBlockStep_store_loads (g : Nat) :
    (s.abandonBlockStep g).store.loads = s.store.loads := by
  unfold abandonBlockStep
  split <;> simp

@[simp] theorem abandonBlockStep_store_fixQueue (g : Nat) :
    (s.abandonBlockStep g).store.fixQueue = s.store.fixQueue := by
  unfold abandonBlockStep
  split <;> simp

@[simp] theorem abandonBlockStep_store_burst (g : Nat) :
    (s.abandonBlockStep g).store.burst = s.store.burst := by
  unfold abandonBlockStep
  split <;> simp

@[simp] theorem abandonBlockStep_store_snapshot (g : Nat) :
    (s.abandonBlockStep g).store.snapshot = s.store.snapshot := by
  unfold abandonBlockStep
  split <;> simp

@[simp] theorem abandonBlockStep_port (g : Nat) :
    (s.abandonBlockStep g).port = s.port := by
  unfold abandonBlockStep
  split <;> simp

@[simp] theorem abandonBlockStep_area (g : Nat) :
    (s.abandonBlockStep g).area = s.area := by
  unfold abandonBlockStep
  split <;> simp

@[simp] theorem abandonBlockStep_openCount (g : Nat) :
    (s.abandonBlockStep g).openCount = s.openCount := by
  unfold abandonBlockStep
  split <;> simp

@[simp] theorem abandonBlockStep_pending (g : Nat) :
    (s.abandonBlockStep g).pending = s.pending := by
  unfold abandonBlockStep
  split <;> simp

@[simp] theorem supersede_settings (g : Nat) (n : Generation) :
    (s.supersede g n).control.settings = s.control.settings := by
  unfold supersede
  split <;> simp

@[simp] theorem supersede_now (g : Nat) (n : Generation) : (s.supersede g n).control.now = s.control.now :=
  now_of_settings (by simp)

@[simp] theorem supersede_runState (g : Nat) (n : Generation) : (s.supersede g n).control.runState = s.control.runState :=
  runState_of_settings (by simp)

@[simp] theorem supersede_monitor (g : Nat) (n : Generation) :
    (s.supersede g n).monitor = s.monitor := by
  unfold supersede
  split <;> simp

@[simp] theorem supersede_uplink (g : Nat) (n : Generation) (v : Fin 32) : (s.supersede g n).uplink v = s.uplink v := by simp [uplink]

@[simp] theorem supersede_conduits (g : Nat) (n : Generation) :
    (s.supersede g n).conduits = s.conduits := by
  unfold supersede
  split <;> simp

@[simp] theorem supersede_alarm (g : Nat) (n : Generation) (cd : Fin 64) : (s.supersede g n).alarm cd = s.alarm cd := by simp [alarm]

@[simp] theorem supersede_store_memory (g : Nat) (n : Generation) :
    (s.supersede g n).store.memory = s.store.memory := by
  unfold supersede
  split <;> simp

@[simp] theorem supersede_store_loads (g : Nat) (n : Generation) :
    (s.supersede g n).store.loads = s.store.loads := by
  unfold supersede
  split <;> simp

@[simp] theorem supersede_store_fixQueue (g : Nat) (n : Generation) :
    (s.supersede g n).store.fixQueue = s.store.fixQueue := by
  unfold supersede
  split <;> simp

@[simp] theorem supersede_store_burst (g : Nat) (n : Generation) :
    (s.supersede g n).store.burst = s.store.burst := by
  unfold supersede
  split <;> simp

@[simp] theorem supersede_store_snapshot (g : Nat) (n : Generation) :
    (s.supersede g n).store.snapshot = s.store.snapshot := by
  unfold supersede
  split <;> simp

@[simp] theorem supersede_port (g : Nat) (n : Generation) :
    (s.supersede g n).port = s.port := by
  unfold supersede
  split <;> simp

@[simp] theorem supersede_plan (g : Nat) (n : Generation) :
    (s.supersede g n).area.plan = s.area.plan := by
  unfold supersede
  split <;> simp

@[simp] theorem supersede_layout (g : Nat) (n : Generation) :
    (s.supersede g n).area.layout = s.area.layout := by
  unfold supersede
  split <;> simp

@[simp] theorem supersede_groupRows (g : Nat) (n : Generation) :
    (s.supersede g n).area.groupRows = s.area.groupRows := by
  unfold supersede
  split <;> simp

@[simp] theorem supersede_openCount (g : Nat) (n : Generation) :
    (s.supersede g n).openCount = s.openCount := by
  unfold supersede
  split <;> simp

@[simp] theorem supersede_pending (g : Nat) (n : Generation) :
    (s.supersede g n).pending = s.pending := by
  unfold supersede
  split <;> simp

@[simp] theorem endWorkOn_control (g : Nat) :
    (s.endWorkOn g).control = s.control := by
  unfold endWorkOn
  (repeat' split) <;> simp

@[simp] theorem endWorkOn_monitor (g : Nat) :
    (s.endWorkOn g).monitor = s.monitor := by
  unfold endWorkOn
  (repeat' split) <;> simp

@[simp] theorem endWorkOn_uplink (g : Nat) (v : Fin 32) : (s.endWorkOn g).uplink v = s.uplink v := by simp [uplink]

@[simp] theorem endWorkOn_conduits (g : Nat) :
    (s.endWorkOn g).conduits = s.conduits := by
  unfold endWorkOn
  (repeat' split) <;> simp

@[simp] theorem endWorkOn_alarm (g : Nat) (cd : Fin 64) : (s.endWorkOn g).alarm cd = s.alarm cd := by simp [alarm]

@[simp] theorem endWorkOn_groups (g : Nat) :
    (s.endWorkOn g).groups = s.groups := by
  unfold endWorkOn
  (repeat' split) <;> simp

@[simp] theorem endWorkOn_group (g : Nat) (gr : Nat) : (s.endWorkOn g).group gr = s.group gr := by simp [group]

@[simp] theorem endWorkOn_store_memory (g : Nat) :
    (s.endWorkOn g).store.memory = s.store.memory := by
  unfold endWorkOn
  (repeat' split) <;> simp

@[simp] theorem endWorkOn_store_owners (g : Nat) :
    (s.endWorkOn g).store.owners = s.store.owners := by
  unfold endWorkOn
  (repeat' split) <;> simp

@[simp] theorem endWorkOn_store_loads (g : Nat) :
    (s.endWorkOn g).store.loads = s.store.loads := by
  unfold endWorkOn
  (repeat' split) <;> simp

@[simp] theorem endWorkOn_store_fixQueue (g : Nat) :
    (s.endWorkOn g).store.fixQueue = s.store.fixQueue := by
  unfold endWorkOn
  (repeat' split) <;> simp

@[simp] theorem endWorkOn_store_burst (g : Nat) :
    (s.endWorkOn g).store.burst = s.store.burst := by
  unfold endWorkOn
  (repeat' split) <;> simp

@[simp] theorem endWorkOn_store_snapshot (g : Nat) :
    (s.endWorkOn g).store.snapshot = s.store.snapshot := by
  unfold endWorkOn
  (repeat' split) <;> simp

@[simp] theorem endWorkOn_port (g : Nat) :
    (s.endWorkOn g).port = s.port := by
  unfold endWorkOn
  (repeat' split) <;> simp

@[simp] theorem endWorkOn_area (g : Nat) :
    (s.endWorkOn g).area = s.area := by
  unfold endWorkOn
  (repeat' split) <;> simp

@[simp] theorem endWorkOn_openCount (g : Nat) :
    (s.endWorkOn g).openCount = s.openCount := by
  unfold endWorkOn
  (repeat' split) <;> simp

@[simp] theorem endWorkOn_pending (g : Nat) :
    (s.endWorkOn g).pending = s.pending := by
  unfold endWorkOn
  (repeat' split) <;> simp

@[simp] theorem dropRun_settings (g : Nat) :
    (s.dropRun g).control.settings = s.control.settings := by
  unfold dropRun
  split <;> simp

@[simp] theorem dropRun_now (g : Nat) : (s.dropRun g).control.now = s.control.now :=
  now_of_settings (by simp)

@[simp] theorem dropRun_runState (g : Nat) : (s.dropRun g).control.runState = s.control.runState :=
  runState_of_settings (by simp)

@[simp] theorem dropRun_monitor (g : Nat) :
    (s.dropRun g).monitor = s.monitor := by
  unfold dropRun
  split <;> simp

@[simp] theorem dropRun_uplink (g : Nat) (v : Fin 32) : (s.dropRun g).uplink v = s.uplink v := by simp [uplink]

@[simp] theorem dropRun_conduits (g : Nat) :
    (s.dropRun g).conduits = s.conduits := by
  unfold dropRun
  split <;> simp

@[simp] theorem dropRun_alarm (g : Nat) (cd : Fin 64) : (s.dropRun g).alarm cd = s.alarm cd := by simp [alarm]

@[simp] theorem dropRun_groups (g : Nat) :
    (s.dropRun g).groups = s.groups := by
  unfold dropRun
  split <;> simp

@[simp] theorem dropRun_group (g : Nat) (gr : Nat) : (s.dropRun g).group gr = s.group gr := by simp [group]

@[simp] theorem dropRun_store_memory (g : Nat) :
    (s.dropRun g).store.memory = s.store.memory := by
  unfold dropRun
  split <;> simp

@[simp] theorem dropRun_store_fixQueue (g : Nat) :
    (s.dropRun g).store.fixQueue = s.store.fixQueue := by
  unfold dropRun
  split <;> simp

@[simp] theorem dropRun_store_burst (g : Nat) :
    (s.dropRun g).store.burst = s.store.burst := by
  unfold dropRun
  split <;> simp

@[simp] theorem dropRun_port (g : Nat) :
    (s.dropRun g).port = s.port := by
  unfold dropRun
  split <;> simp

@[simp] theorem dropRun_plan (g : Nat) :
    (s.dropRun g).area.plan = s.area.plan := by
  unfold dropRun
  split <;> simp

@[simp] theorem dropRun_layout (g : Nat) :
    (s.dropRun g).area.layout = s.area.layout := by
  unfold dropRun
  split <;> simp

@[simp] theorem dropRun_groupRows (g : Nat) :
    (s.dropRun g).area.groupRows = s.area.groupRows := by
  unfold dropRun
  split <;> simp

@[simp] theorem dropRun_openCount (g : Nat) :
    (s.dropRun g).openCount = s.openCount := by
  unfold dropRun
  split <;> simp

@[simp] theorem dropRun_pending (g : Nat) :
    (s.dropRun g).pending = s.pending := by
  unfold dropRun
  split <;> simp

@[simp] theorem removeGroupRow_settings (g : Nat) (n : Generation) :
    (s.removeGroupRow g n).control.settings = s.control.settings := by
  unfold removeGroupRow
  simp

@[simp] theorem removeGroupRow_now (g : Nat) (n : Generation) : (s.removeGroupRow g n).control.now = s.control.now :=
  now_of_settings (by simp)

@[simp] theorem removeGroupRow_runState (g : Nat) (n : Generation) : (s.removeGroupRow g n).control.runState = s.control.runState :=
  runState_of_settings (by simp)

@[simp] theorem removeGroupRow_monitor (g : Nat) (n : Generation) :
    (s.removeGroupRow g n).monitor = s.monitor := by
  unfold removeGroupRow
  simp

@[simp] theorem removeGroupRow_uplink (g : Nat) (n : Generation) (v : Fin 32) : (s.removeGroupRow g n).uplink v = s.uplink v := by simp [uplink]

@[simp] theorem removeGroupRow_conduits (g : Nat) (n : Generation) :
    (s.removeGroupRow g n).conduits = s.conduits := by
  unfold removeGroupRow
  simp

@[simp] theorem removeGroupRow_alarm (g : Nat) (n : Generation) (cd : Fin 64) : (s.removeGroupRow g n).alarm cd = s.alarm cd := by simp [alarm]

@[simp] theorem removeGroupRow_store_memory (g : Nat) (n : Generation) :
    (s.removeGroupRow g n).store.memory = s.store.memory := by
  unfold removeGroupRow
  simp

@[simp] theorem removeGroupRow_store_fixQueue (g : Nat) (n : Generation) :
    (s.removeGroupRow g n).store.fixQueue = s.store.fixQueue := by
  unfold removeGroupRow
  simp

@[simp] theorem removeGroupRow_store_burst (g : Nat) (n : Generation) :
    (s.removeGroupRow g n).store.burst = s.store.burst := by
  unfold removeGroupRow
  simp

@[simp] theorem removeGroupRow_port (g : Nat) (n : Generation) :
    (s.removeGroupRow g n).port = s.port := by
  unfold removeGroupRow
  simp

@[simp] theorem removeGroupRow_plan (g : Nat) (n : Generation) :
    (s.removeGroupRow g n).area.plan = s.area.plan := by
  unfold removeGroupRow
  simp

@[simp] theorem removeGroupRow_layout (g : Nat) (n : Generation) :
    (s.removeGroupRow g n).area.layout = s.area.layout := by
  unfold removeGroupRow
  simp

@[simp] theorem removeGroupRow_groupRows (g : Nat) (n : Generation) :
    (s.removeGroupRow g n).area.groupRows = s.area.groupRows := by
  unfold removeGroupRow
  simp

@[simp] theorem removeGroupRow_openCount (g : Nat) (n : Generation) :
    (s.removeGroupRow g n).openCount = s.openCount := by
  unfold removeGroupRow
  simp

@[simp] theorem removeGroupRow_pending (g : Nat) (n : Generation) :
    (s.removeGroupRow g n).pending = s.pending := by
  unfold removeGroupRow
  simp

@[simp] theorem rejectRoom_settings (g : Nat) (n : Generation) (r : RowReason) (a f : Nat) :
    (s.rejectRoom g n r a f).control.settings = s.control.settings := by
  unfold rejectRoom
  simp

@[simp] theorem rejectRoom_now (g : Nat) (n : Generation) (r : RowReason) (a f : Nat) : (s.rejectRoom g n r a f).control.now = s.control.now :=
  now_of_settings (by simp)

@[simp] theorem rejectRoom_runState (g : Nat) (n : Generation) (r : RowReason) (a f : Nat) : (s.rejectRoom g n r a f).control.runState = s.control.runState :=
  runState_of_settings (by simp)

@[simp] theorem rejectRoom_monitor (g : Nat) (n : Generation) (r : RowReason) (a f : Nat) :
    (s.rejectRoom g n r a f).monitor = s.monitor := by
  unfold rejectRoom
  simp

@[simp] theorem rejectRoom_uplink (g : Nat) (n : Generation) (r : RowReason) (a f : Nat) (v : Fin 32) : (s.rejectRoom g n r a f).uplink v = s.uplink v := by simp [uplink]

@[simp] theorem rejectRoom_conduits (g : Nat) (n : Generation) (r : RowReason) (a f : Nat) :
    (s.rejectRoom g n r a f).conduits = s.conduits := by
  unfold rejectRoom
  simp

@[simp] theorem rejectRoom_alarm (g : Nat) (n : Generation) (r : RowReason) (a f : Nat) (cd : Fin 64) : (s.rejectRoom g n r a f).alarm cd = s.alarm cd := by simp [alarm]

@[simp] theorem rejectRoom_store (g : Nat) (n : Generation) (r : RowReason) (a f : Nat) :
    (s.rejectRoom g n r a f).store = s.store := by
  unfold rejectRoom
  simp

@[simp] theorem rejectRoom_port (g : Nat) (n : Generation) (r : RowReason) (a f : Nat) :
    (s.rejectRoom g n r a f).port = s.port := by
  unfold rejectRoom
  simp

@[simp] theorem rejectRoom_engine (g : Nat) (n : Generation) (r : RowReason) (a f : Nat) :
    (s.rejectRoom g n r a f).engine = s.engine := by
  unfold rejectRoom
  simp

@[simp] theorem rejectRoom_plan (g : Nat) (n : Generation) (r : RowReason) (a f : Nat) :
    (s.rejectRoom g n r a f).area.plan = s.area.plan := by
  unfold rejectRoom
  simp

@[simp] theorem rejectRoom_layout (g : Nat) (n : Generation) (r : RowReason) (a f : Nat) :
    (s.rejectRoom g n r a f).area.layout = s.area.layout := by
  unfold rejectRoom
  simp

@[simp] theorem rejectRoom_groupRows (g : Nat) (n : Generation) (r : RowReason) (a f : Nat) :
    (s.rejectRoom g n r a f).area.groupRows = s.area.groupRows := by
  unfold rejectRoom
  simp

@[simp] theorem rejectRoom_openCount (g : Nat) (n : Generation) (r : RowReason) (a f : Nat) :
    (s.rejectRoom g n r a f).openCount = s.openCount := by
  unfold rejectRoom
  simp

@[simp] theorem rejectRoom_pending (g : Nat) (n : Generation) (r : RowReason) (a f : Nat) :
    (s.rejectRoom g n r a f).pending = s.pending := by
  unfold rejectRoom
  simp

@[simp] theorem createRebuild_settings (g : Nat) (f : GroupFields) (n : Generation) (l : List Nat) (k : Nat) :
    (s.createRebuild g f n l k).control.settings = s.control.settings := by
  unfold createRebuild
  simp

@[simp] theorem createRebuild_now (g : Nat) (f : GroupFields) (n : Generation) (l : List Nat) (k : Nat) : (s.createRebuild g f n l k).control.now = s.control.now :=
  now_of_settings (by simp)

@[simp] theorem createRebuild_runState (g : Nat) (f : GroupFields) (n : Generation) (l : List Nat) (k : Nat) : (s.createRebuild g f n l k).control.runState = s.control.runState :=
  runState_of_settings (by simp)

@[simp] theorem createRebuild_monitor (g : Nat) (f : GroupFields) (n : Generation) (l : List Nat) (k : Nat) :
    (s.createRebuild g f n l k).monitor = s.monitor := by
  unfold createRebuild
  simp

@[simp] theorem createRebuild_uplink (g : Nat) (f : GroupFields) (n : Generation) (l : List Nat) (k : Nat) (v : Fin 32) : (s.createRebuild g f n l k).uplink v = s.uplink v := by simp [uplink]

@[simp] theorem createRebuild_conduits (g : Nat) (f : GroupFields) (n : Generation) (l : List Nat) (k : Nat) :
    (s.createRebuild g f n l k).conduits = s.conduits := by
  unfold createRebuild
  simp

@[simp] theorem createRebuild_alarm (g : Nat) (f : GroupFields) (n : Generation) (l : List Nat) (k : Nat) (cd : Fin 64) : (s.createRebuild g f n l k).alarm cd = s.alarm cd := by simp [alarm]

@[simp] theorem createRebuild_store (g : Nat) (f : GroupFields) (n : Generation) (l : List Nat) (k : Nat) :
    (s.createRebuild g f n l k).store = s.store := by
  unfold createRebuild
  simp

@[simp] theorem createRebuild_port (g : Nat) (f : GroupFields) (n : Generation) (l : List Nat) (k : Nat) :
    (s.createRebuild g f n l k).port = s.port := by
  unfold createRebuild
  simp

@[simp] theorem createRebuild_plan (g : Nat) (f : GroupFields) (n : Generation) (l : List Nat) (k : Nat) :
    (s.createRebuild g f n l k).area.plan = s.area.plan := by
  unfold createRebuild
  simp

@[simp] theorem createRebuild_layout (g : Nat) (f : GroupFields) (n : Generation) (l : List Nat) (k : Nat) :
    (s.createRebuild g f n l k).area.layout = s.area.layout := by
  unfold createRebuild
  simp

@[simp] theorem createRebuild_groupRows (g : Nat) (f : GroupFields) (n : Generation) (l : List Nat) (k : Nat) :
    (s.createRebuild g f n l k).area.groupRows = s.area.groupRows := by
  unfold createRebuild
  simp

@[simp] theorem createRebuild_openCount (g : Nat) (f : GroupFields) (n : Generation) (l : List Nat) (k : Nat) :
    (s.createRebuild g f n l k).openCount = s.openCount := by
  unfold createRebuild
  simp

@[simp] theorem createRebuild_pending (g : Nat) (f : GroupFields) (n : Generation) (l : List Nat) (k : Nat) :
    (s.createRebuild g f n l k).pending = s.pending := by
  unfold createRebuild
  simp

@[simp] theorem reserveRow_settings (g : Nat) (f : GroupFields) (n : Generation) :
    (s.reserveRow g f n).1.control.settings = s.control.settings := by
  unfold reserveRow
  split
  · simp
  · rename_i h
    cases reserveBlocks_eq s h
    dsimp only
    split <;> simp

@[simp] theorem reserveRow_now (g : Nat) (f : GroupFields) (n : Generation) : (s.reserveRow g f n).1.control.now = s.control.now :=
  now_of_settings (by simp)

@[simp] theorem reserveRow_runState (g : Nat) (f : GroupFields) (n : Generation) : (s.reserveRow g f n).1.control.runState = s.control.runState :=
  runState_of_settings (by simp)

@[simp] theorem reserveRow_monitor (g : Nat) (f : GroupFields) (n : Generation) :
    (s.reserveRow g f n).1.monitor = s.monitor := by
  unfold reserveRow
  split
  · simp
  · rename_i h
    cases reserveBlocks_eq s h
    dsimp only
    split <;> simp

@[simp] theorem reserveRow_uplink (g : Nat) (f : GroupFields) (n : Generation) (v : Fin 32) : (s.reserveRow g f n).1.uplink v = s.uplink v := by simp [uplink]

@[simp] theorem reserveRow_conduits (g : Nat) (f : GroupFields) (n : Generation) :
    (s.reserveRow g f n).1.conduits = s.conduits := by
  unfold reserveRow
  split
  · simp
  · rename_i h
    cases reserveBlocks_eq s h
    dsimp only
    split <;> simp

@[simp] theorem reserveRow_alarm (g : Nat) (f : GroupFields) (n : Generation) (cd : Fin 64) : (s.reserveRow g f n).1.alarm cd = s.alarm cd := by simp [alarm]

@[simp] theorem reserveRow_store_memory (g : Nat) (f : GroupFields) (n : Generation) :
    (s.reserveRow g f n).1.store.memory = s.store.memory := by
  unfold reserveRow
  split
  · simp
  · rename_i h
    cases reserveBlocks_eq s h
    dsimp only
    split <;> simp

@[simp] theorem reserveRow_store_loads (g : Nat) (f : GroupFields) (n : Generation) :
    (s.reserveRow g f n).1.store.loads = s.store.loads := by
  unfold reserveRow
  split
  · simp
  · rename_i h
    cases reserveBlocks_eq s h
    dsimp only
    split <;> simp

@[simp] theorem reserveRow_store_fixQueue (g : Nat) (f : GroupFields) (n : Generation) :
    (s.reserveRow g f n).1.store.fixQueue = s.store.fixQueue := by
  unfold reserveRow
  split
  · simp
  · rename_i h
    cases reserveBlocks_eq s h
    dsimp only
    split <;> simp

@[simp] theorem reserveRow_store_access (g : Nat) (f : GroupFields) (n : Generation) :
    (s.reserveRow g f n).1.store.access = s.store.access := by
  unfold reserveRow
  split
  · simp
  · rename_i h
    cases reserveBlocks_eq s h
    dsimp only
    split <;> simp

@[simp] theorem reserveRow_store_burst (g : Nat) (f : GroupFields) (n : Generation) :
    (s.reserveRow g f n).1.store.burst = s.store.burst := by
  unfold reserveRow
  split
  · simp
  · rename_i h
    cases reserveBlocks_eq s h
    dsimp only
    split <;> simp

@[simp] theorem reserveRow_store_snapshot (g : Nat) (f : GroupFields) (n : Generation) :
    (s.reserveRow g f n).1.store.snapshot = s.store.snapshot := by
  unfold reserveRow
  split
  · simp
  · rename_i h
    cases reserveBlocks_eq s h
    dsimp only
    split <;> simp

@[simp] theorem reserveRow_port (g : Nat) (f : GroupFields) (n : Generation) :
    (s.reserveRow g f n).1.port = s.port := by
  unfold reserveRow
  split
  · simp
  · rename_i h
    cases reserveBlocks_eq s h
    dsimp only
    split <;> simp

@[simp] theorem reserveRow_plan (g : Nat) (f : GroupFields) (n : Generation) :
    (s.reserveRow g f n).1.area.plan = s.area.plan := by
  unfold reserveRow
  split
  · simp
  · rename_i h
    cases reserveBlocks_eq s h
    dsimp only
    split <;> simp

@[simp] theorem reserveRow_layout (g : Nat) (f : GroupFields) (n : Generation) :
    (s.reserveRow g f n).1.area.layout = s.area.layout := by
  unfold reserveRow
  split
  · simp
  · rename_i h
    cases reserveBlocks_eq s h
    dsimp only
    split <;> simp

@[simp] theorem reserveRow_groupRows (g : Nat) (f : GroupFields) (n : Generation) :
    (s.reserveRow g f n).1.area.groupRows = s.area.groupRows := by
  unfold reserveRow
  split
  · simp
  · rename_i h
    cases reserveBlocks_eq s h
    dsimp only
    split <;> simp

@[simp] theorem reserveRow_openCount (g : Nat) (f : GroupFields) (n : Generation) :
    (s.reserveRow g f n).1.openCount = s.openCount := by
  unfold reserveRow
  split
  · simp
  · rename_i h
    cases reserveBlocks_eq s h
    dsimp only
    split <;> simp

@[simp] theorem reserveRow_pending (g : Nat) (f : GroupFields) (n : Generation) :
    (s.reserveRow g f n).1.pending = s.pending := by
  unfold reserveRow
  split
  · simp
  · rename_i h
    cases reserveBlocks_eq s h
    dsimp only
    split <;> simp

@[simp] theorem adoptGroupRow_settings (g : Nat) (f : Option GroupFields) (n : Generation) :
    (s.adoptGroupRow g f n).1.control.settings = s.control.settings := by
  unfold adoptGroupRow
  split <;> simp

@[simp] theorem adoptGroupRow_now (g : Nat) (f : Option GroupFields) (n : Generation) : (s.adoptGroupRow g f n).1.control.now = s.control.now :=
  now_of_settings (by simp)

@[simp] theorem adoptGroupRow_runState (g : Nat) (f : Option GroupFields) (n : Generation) : (s.adoptGroupRow g f n).1.control.runState = s.control.runState :=
  runState_of_settings (by simp)

@[simp] theorem adoptGroupRow_monitor (g : Nat) (f : Option GroupFields) (n : Generation) :
    (s.adoptGroupRow g f n).1.monitor = s.monitor := by
  unfold adoptGroupRow
  split <;> simp

@[simp] theorem adoptGroupRow_uplink (g : Nat) (f : Option GroupFields) (n : Generation) (v : Fin 32) : (s.adoptGroupRow g f n).1.uplink v = s.uplink v := by simp [uplink]

@[simp] theorem adoptGroupRow_conduits (g : Nat) (f : Option GroupFields) (n : Generation) :
    (s.adoptGroupRow g f n).1.conduits = s.conduits := by
  unfold adoptGroupRow
  split <;> simp

@[simp] theorem adoptGroupRow_alarm (g : Nat) (f : Option GroupFields) (n : Generation) (cd : Fin 64) : (s.adoptGroupRow g f n).1.alarm cd = s.alarm cd := by simp [alarm]

@[simp] theorem adoptGroupRow_store_memory (g : Nat) (f : Option GroupFields) (n : Generation) :
    (s.adoptGroupRow g f n).1.store.memory = s.store.memory := by
  unfold adoptGroupRow
  split <;> simp

@[simp] theorem adoptGroupRow_store_fixQueue (g : Nat) (f : Option GroupFields) (n : Generation) :
    (s.adoptGroupRow g f n).1.store.fixQueue = s.store.fixQueue := by
  unfold adoptGroupRow
  split <;> simp

@[simp] theorem adoptGroupRow_store_burst (g : Nat) (f : Option GroupFields) (n : Generation) :
    (s.adoptGroupRow g f n).1.store.burst = s.store.burst := by
  unfold adoptGroupRow
  split <;> simp

@[simp] theorem adoptGroupRow_port (g : Nat) (f : Option GroupFields) (n : Generation) :
    (s.adoptGroupRow g f n).1.port = s.port := by
  unfold adoptGroupRow
  split <;> simp

@[simp] theorem adoptGroupRow_plan (g : Nat) (f : Option GroupFields) (n : Generation) :
    (s.adoptGroupRow g f n).1.area.plan = s.area.plan := by
  unfold adoptGroupRow
  split <;> simp

@[simp] theorem adoptGroupRow_layout (g : Nat) (f : Option GroupFields) (n : Generation) :
    (s.adoptGroupRow g f n).1.area.layout = s.area.layout := by
  unfold adoptGroupRow
  split <;> simp

@[simp] theorem adoptGroupRow_groupRows (g : Nat) (f : Option GroupFields) (n : Generation) :
    (s.adoptGroupRow g f n).1.area.groupRows = s.area.groupRows := by
  unfold adoptGroupRow
  split <;> simp

@[simp] theorem adoptGroupRow_openCount (g : Nat) (f : Option GroupFields) (n : Generation) :
    (s.adoptGroupRow g f n).1.openCount = s.openCount := by
  unfold adoptGroupRow
  split <;> simp

@[simp] theorem adoptGroupRow_pending (g : Nat) (f : Option GroupFields) (n : Generation) :
    (s.adoptGroupRow g f n).1.pending = s.pending := by
  unfold adoptGroupRow
  split <;> simp

@[simp] theorem offerSettlePass_control (g : Nat) :
    (s.offerSettlePass g).control = s.control := by
  unfold offerSettlePass
  split <;> simp

@[simp] theorem offerSettlePass_monitor (g : Nat) :
    (s.offerSettlePass g).monitor = s.monitor := by
  unfold offerSettlePass
  split <;> simp

@[simp] theorem offerSettlePass_uplink (g : Nat) (v : Fin 32) : (s.offerSettlePass g).uplink v = s.uplink v := by simp [uplink]

@[simp] theorem offerSettlePass_conduits (g : Nat) :
    (s.offerSettlePass g).conduits = s.conduits := by
  unfold offerSettlePass
  split <;> simp

@[simp] theorem offerSettlePass_alarm (g : Nat) (cd : Fin 64) : (s.offerSettlePass g).alarm cd = s.alarm cd := by simp [alarm]

@[simp] theorem offerSettlePass_groups (g : Nat) :
    (s.offerSettlePass g).groups = s.groups := by
  unfold offerSettlePass
  split <;> simp

@[simp] theorem offerSettlePass_group (g : Nat) (gr : Nat) : (s.offerSettlePass g).group gr = s.group gr := by simp [group]

@[simp] theorem offerSettlePass_store (g : Nat) :
    (s.offerSettlePass g).store = s.store := by
  unfold offerSettlePass
  split <;> simp

@[simp] theorem offerSettlePass_port (g : Nat) :
    (s.offerSettlePass g).port = s.port := by
  unfold offerSettlePass
  split <;> simp

@[simp] theorem offerSettlePass_area (g : Nat) :
    (s.offerSettlePass g).area = s.area := by
  unfold offerSettlePass
  split <;> simp

@[simp] theorem offerSettlePass_openCount (g : Nat) :
    (s.offerSettlePass g).openCount = s.openCount := by
  unfold offerSettlePass
  split <;> simp

@[simp] theorem offerSettlePass_pending (g : Nat) :
    (s.offerSettlePass g).pending = s.pending := by
  unfold offerSettlePass
  split <;> simp

@[simp] theorem returnRun_control (r : Option LiveRun) :
    (s.returnRun r).control = s.control := by
  unfold returnRun
  split <;> simp

@[simp] theorem returnRun_monitor (r : Option LiveRun) :
    (s.returnRun r).monitor = s.monitor := by
  unfold returnRun
  split <;> simp

@[simp] theorem returnRun_uplink (r : Option LiveRun) (v : Fin 32) : (s.returnRun r).uplink v = s.uplink v := by simp [uplink]

@[simp] theorem returnRun_conduits (r : Option LiveRun) :
    (s.returnRun r).conduits = s.conduits := by
  unfold returnRun
  split <;> simp

@[simp] theorem returnRun_alarm (r : Option LiveRun) (cd : Fin 64) : (s.returnRun r).alarm cd = s.alarm cd := by simp [alarm]

@[simp] theorem returnRun_groups (r : Option LiveRun) :
    (s.returnRun r).groups = s.groups := by
  unfold returnRun
  split <;> simp

@[simp] theorem returnRun_group (r : Option LiveRun) (gr : Nat) : (s.returnRun r).group gr = s.group gr := by simp [group]

@[simp] theorem returnRun_store_memory (r : Option LiveRun) :
    (s.returnRun r).store.memory = s.store.memory := by
  unfold returnRun
  split <;> simp

@[simp] theorem returnRun_store_fixQueue (r : Option LiveRun) :
    (s.returnRun r).store.fixQueue = s.store.fixQueue := by
  unfold returnRun
  split <;> simp

@[simp] theorem returnRun_store_access (r : Option LiveRun) :
    (s.returnRun r).store.access = s.store.access := by
  unfold returnRun
  split <;> simp

@[simp] theorem returnRun_store_burst (r : Option LiveRun) :
    (s.returnRun r).store.burst = s.store.burst := by
  unfold returnRun
  split <;> simp

@[simp] theorem returnRun_store_snapshot (r : Option LiveRun) :
    (s.returnRun r).store.snapshot = s.store.snapshot := by
  unfold returnRun
  split <;> simp

@[simp] theorem returnRun_port (r : Option LiveRun) :
    (s.returnRun r).port = s.port := by
  unfold returnRun
  split <;> simp

@[simp] theorem returnRun_engine (r : Option LiveRun) :
    (s.returnRun r).engine = s.engine := by
  unfold returnRun
  split <;> simp

@[simp] theorem returnRun_area (r : Option LiveRun) :
    (s.returnRun r).area = s.area := by
  unfold returnRun
  split <;> simp

@[simp] theorem returnRun_openCount (r : Option LiveRun) :
    (s.returnRun r).openCount = s.openCount := by
  unfold returnRun
  split <;> simp

@[simp] theorem returnRun_pending (r : Option LiveRun) :
    (s.returnRun r).pending = s.pending := by
  unfold returnRun
  split <;> simp

@[simp] theorem flip_settings (g : Nat) :
    (s.flip g).control.settings = s.control.settings := by
  unfold flip
  dsimp only
  (repeat' split) <;> simp

@[simp] theorem flip_now (g : Nat) : (s.flip g).control.now = s.control.now :=
  now_of_settings (by simp)

@[simp] theorem flip_runState (g : Nat) : (s.flip g).control.runState = s.control.runState :=
  runState_of_settings (by simp)

@[simp] theorem flip_monitor (g : Nat) :
    (s.flip g).monitor = s.monitor := by
  unfold flip
  dsimp only
  (repeat' split) <;> simp

@[simp] theorem flip_uplink (g : Nat) (v : Fin 32) : (s.flip g).uplink v = s.uplink v := by simp [uplink]

@[simp] theorem flip_conduits (g : Nat) :
    (s.flip g).conduits = s.conduits := by
  unfold flip
  dsimp only
  (repeat' split) <;> simp

@[simp] theorem flip_alarm (g : Nat) (cd : Fin 64) : (s.flip g).alarm cd = s.alarm cd := by simp [alarm]

@[simp] theorem flip_store_memory (g : Nat) :
    (s.flip g).store.memory = s.store.memory := by
  unfold flip
  dsimp only
  (repeat' split) <;> simp

@[simp] theorem flip_store_fixQueue (g : Nat) :
    (s.flip g).store.fixQueue = s.store.fixQueue := by
  unfold flip
  dsimp only
  (repeat' split) <;> simp

@[simp] theorem flip_store_burst (g : Nat) :
    (s.flip g).store.burst = s.store.burst := by
  unfold flip
  dsimp only
  (repeat' split) <;> simp

@[simp] theorem flip_port (g : Nat) :
    (s.flip g).port = s.port := by
  unfold flip
  dsimp only
  (repeat' split) <;> simp

@[simp] theorem flip_plan (g : Nat) :
    (s.flip g).area.plan = s.area.plan := by
  unfold flip
  dsimp only
  (repeat' split) <;> simp

@[simp] theorem flip_layout (g : Nat) :
    (s.flip g).area.layout = s.area.layout := by
  unfold flip
  dsimp only
  (repeat' split) <;> simp

@[simp] theorem flip_groupRows (g : Nat) :
    (s.flip g).area.groupRows = s.area.groupRows := by
  unfold flip
  dsimp only
  (repeat' split) <;> simp

@[simp] theorem flip_openCount (g : Nat) :
    (s.flip g).openCount = s.openCount := by
  unfold flip
  dsimp only
  (repeat' split) <;> simp

@[simp] theorem flip_pending (g : Nat) :
    (s.flip g).pending = s.pending := by
  unfold flip
  dsimp only
  (repeat' split) <;> simp

@[simp] theorem beginLiveAccess_control (r : Requester) (g b : Nat) :
    (s.beginLiveAccess r g b).control = s.control := by
  unfold beginLiveAccess
  split <;> simp

@[simp] theorem beginLiveAccess_monitor (r : Requester) (g b : Nat) :
    (s.beginLiveAccess r g b).monitor = s.monitor := by
  unfold beginLiveAccess
  split <;> simp

@[simp] theorem beginLiveAccess_uplink (r : Requester) (g b : Nat) (v : Fin 32) : (s.beginLiveAccess r g b).uplink v = s.uplink v := by simp [uplink]

@[simp] theorem beginLiveAccess_conduits (r : Requester) (g b : Nat) :
    (s.beginLiveAccess r g b).conduits = s.conduits := by
  unfold beginLiveAccess
  split <;> simp

@[simp] theorem beginLiveAccess_alarm (r : Requester) (g b : Nat) (cd : Fin 64) : (s.beginLiveAccess r g b).alarm cd = s.alarm cd := by simp [alarm]

@[simp] theorem beginLiveAccess_groups (r : Requester) (g b : Nat) :
    (s.beginLiveAccess r g b).groups = s.groups := by
  unfold beginLiveAccess
  split <;> simp

@[simp] theorem beginLiveAccess_group (r : Requester) (g b : Nat) (gr : Nat) : (s.beginLiveAccess r g b).group gr = s.group gr := by simp [group]

@[simp] theorem beginLiveAccess_store_memory (r : Requester) (g b : Nat) :
    (s.beginLiveAccess r g b).store.memory = s.store.memory := by
  unfold beginLiveAccess
  split <;> simp

@[simp] theorem beginLiveAccess_store_owners (r : Requester) (g b : Nat) :
    (s.beginLiveAccess r g b).store.owners = s.store.owners := by
  unfold beginLiveAccess
  split <;> simp

@[simp] theorem beginLiveAccess_store_loads (r : Requester) (g b : Nat) :
    (s.beginLiveAccess r g b).store.loads = s.store.loads := by
  unfold beginLiveAccess
  split <;> simp

@[simp] theorem beginLiveAccess_store_fixQueue (r : Requester) (g b : Nat) :
    (s.beginLiveAccess r g b).store.fixQueue = s.store.fixQueue := by
  unfold beginLiveAccess
  split <;> simp

@[simp] theorem beginLiveAccess_store_burst (r : Requester) (g b : Nat) :
    (s.beginLiveAccess r g b).store.burst = s.store.burst := by
  unfold beginLiveAccess
  split <;> simp

@[simp] theorem beginLiveAccess_store_snapshot (r : Requester) (g b : Nat) :
    (s.beginLiveAccess r g b).store.snapshot = s.store.snapshot := by
  unfold beginLiveAccess
  split <;> simp

@[simp] theorem beginLiveAccess_port (r : Requester) (g b : Nat) :
    (s.beginLiveAccess r g b).port = s.port := by
  unfold beginLiveAccess
  split <;> simp

@[simp] theorem beginLiveAccess_engine (r : Requester) (g b : Nat) :
    (s.beginLiveAccess r g b).engine = s.engine := by
  unfold beginLiveAccess
  split <;> simp

@[simp] theorem beginLiveAccess_area (r : Requester) (g b : Nat) :
    (s.beginLiveAccess r g b).area = s.area := by
  unfold beginLiveAccess
  split <;> simp

@[simp] theorem beginLiveAccess_openCount (r : Requester) (g b : Nat) :
    (s.beginLiveAccess r g b).openCount = s.openCount := by
  unfold beginLiveAccess
  split <;> simp

@[simp] theorem beginLiveAccess_pending (r : Requester) (g b : Nat) :
    (s.beginLiveAccess r g b).pending = s.pending := by
  unfold beginLiveAccess
  split <;> simp

@[simp] theorem grantLookup_control (r : Resolution) :
    (s.grantLookup r).control = s.control := by
  unfold grantLookup
  dsimp only
  (repeat' split) <;> simp

@[simp] theorem grantLookup_monitor (r : Resolution) :
    (s.grantLookup r).monitor = s.monitor := by
  unfold grantLookup
  dsimp only
  (repeat' split) <;> simp

@[simp] theorem grantLookup_uplink (r : Resolution) (v : Fin 32) : (s.grantLookup r).uplink v = s.uplink v := by simp [uplink]

@[simp] theorem grantLookup_conduits (r : Resolution) :
    (s.grantLookup r).conduits = s.conduits := by
  unfold grantLookup
  dsimp only
  (repeat' split) <;> simp

@[simp] theorem grantLookup_alarm (r : Resolution) (cd : Fin 64) : (s.grantLookup r).alarm cd = s.alarm cd := by simp [alarm]

@[simp] theorem grantLookup_groups (r : Resolution) :
    (s.grantLookup r).groups = s.groups := by
  unfold grantLookup
  dsimp only
  (repeat' split) <;> simp

@[simp] theorem grantLookup_group (r : Resolution) (gr : Nat) : (s.grantLookup r).group gr = s.group gr := by simp [group]

@[simp] theorem grantLookup_store_memory (r : Resolution) :
    (s.grantLookup r).store.memory = s.store.memory := by
  unfold grantLookup
  dsimp only
  (repeat' split) <;> simp

@[simp] theorem grantLookup_store_owners (r : Resolution) :
    (s.grantLookup r).store.owners = s.store.owners := by
  unfold grantLookup
  dsimp only
  (repeat' split) <;> simp

@[simp] theorem grantLookup_store_loads (r : Resolution) :
    (s.grantLookup r).store.loads = s.store.loads := by
  unfold grantLookup
  dsimp only
  (repeat' split) <;> simp

@[simp] theorem grantLookup_store_fixQueue (r : Resolution) :
    (s.grantLookup r).store.fixQueue = s.store.fixQueue := by
  unfold grantLookup
  dsimp only
  (repeat' split) <;> simp

@[simp] theorem grantLookup_store_burst (r : Resolution) :
    (s.grantLookup r).store.burst = s.store.burst := by
  unfold grantLookup
  dsimp only
  (repeat' split) <;> simp

@[simp] theorem grantLookup_store_snapshot (r : Resolution) :
    (s.grantLookup r).store.snapshot = s.store.snapshot := by
  unfold grantLookup
  dsimp only
  (repeat' split) <;> simp

@[simp] theorem grantLookup_engine (r : Resolution) :
    (s.grantLookup r).engine = s.engine := by
  unfold grantLookup
  dsimp only
  (repeat' split) <;> simp

@[simp] theorem grantLookup_area (r : Resolution) :
    (s.grantLookup r).area = s.area := by
  unfold grantLookup
  dsimp only
  (repeat' split) <;> simp

@[simp] theorem grantLookup_openCount (r : Resolution) :
    (s.grantLookup r).openCount = s.openCount := by
  unfold grantLookup
  dsimp only
  (repeat' split) <;> simp

@[simp] theorem grantLookup_pending (r : Resolution) :
    (s.grantLookup r).pending = s.pending := by
  unfold grantLookup
  dsimp only
  (repeat' split) <;> simp

@[simp] theorem countMove_control (u : Fin 32) (a b : Nat) :
    (s.countMove u a b).control = s.control := by
  unfold countMove
  split <;> simp

@[simp] theorem countMove_monitor (u : Fin 32) (a b : Nat) :
    (s.countMove u a b).monitor = s.monitor := by
  unfold countMove
  split <;> simp

@[simp] theorem countMove_uplink (u : Fin 32) (a b : Nat) (v : Fin 32) : (s.countMove u a b).uplink v = s.uplink v := by simp [uplink]

@[simp] theorem countMove_conduits (u : Fin 32) (a b : Nat) :
    (s.countMove u a b).conduits = s.conduits := by
  unfold countMove
  split <;> simp

@[simp] theorem countMove_alarm (u : Fin 32) (a b : Nat) (cd : Fin 64) : (s.countMove u a b).alarm cd = s.alarm cd := by simp [alarm]

@[simp] theorem countMove_groups (u : Fin 32) (a b : Nat) :
    (s.countMove u a b).groups = s.groups := by
  unfold countMove
  split <;> simp

@[simp] theorem countMove_group (u : Fin 32) (a b : Nat) (gr : Nat) : (s.countMove u a b).group gr = s.group gr := by simp [group]

@[simp] theorem countMove_store (u : Fin 32) (a b : Nat) :
    (s.countMove u a b).store = s.store := by
  unfold countMove
  split <;> simp

@[simp] theorem countMove_port (u : Fin 32) (a b : Nat) :
    (s.countMove u a b).port = s.port := by
  unfold countMove
  split <;> simp

@[simp] theorem countMove_area (u : Fin 32) (a b : Nat) :
    (s.countMove u a b).area = s.area := by
  unfold countMove
  split <;> simp

@[simp] theorem countMove_openCount (u : Fin 32) (a b : Nat) :
    (s.countMove u a b).openCount = s.openCount := by
  unfold countMove
  split <;> simp

@[simp] theorem countMove_pending (u : Fin 32) (a b : Nat) :
    (s.countMove u a b).pending = s.pending := by
  unfold countMove
  split <;> simp

@[simp] theorem writeStagedBucket_control (g p o : Nat) :
    (s.writeStagedBucket g p o).control = s.control := by
  unfold writeStagedBucket
  split <;> simp

@[simp] theorem writeStagedBucket_monitor (g p o : Nat) :
    (s.writeStagedBucket g p o).monitor = s.monitor := by
  unfold writeStagedBucket
  split <;> simp

@[simp] theorem writeStagedBucket_uplink (g p o : Nat) (v : Fin 32) : (s.writeStagedBucket g p o).uplink v = s.uplink v := by simp [uplink]

@[simp] theorem writeStagedBucket_conduits (g p o : Nat) :
    (s.writeStagedBucket g p o).conduits = s.conduits := by
  unfold writeStagedBucket
  split <;> simp

@[simp] theorem writeStagedBucket_alarm (g p o : Nat) (cd : Fin 64) : (s.writeStagedBucket g p o).alarm cd = s.alarm cd := by simp [alarm]

@[simp] theorem writeStagedBucket_groups (g p o : Nat) :
    (s.writeStagedBucket g p o).groups = s.groups := by
  unfold writeStagedBucket
  split <;> simp

@[simp] theorem writeStagedBucket_group (g p o : Nat) (gr : Nat) : (s.writeStagedBucket g p o).group gr = s.group gr := by simp [group]

@[simp] theorem writeStagedBucket_store_owners (g p o : Nat) :
    (s.writeStagedBucket g p o).store.owners = s.store.owners := by
  unfold writeStagedBucket
  split <;> simp

@[simp] theorem writeStagedBucket_store_loads (g p o : Nat) :
    (s.writeStagedBucket g p o).store.loads = s.store.loads := by
  unfold writeStagedBucket
  split <;> simp

@[simp] theorem writeStagedBucket_store_fixQueue (g p o : Nat) :
    (s.writeStagedBucket g p o).store.fixQueue = s.store.fixQueue := by
  unfold writeStagedBucket
  split <;> simp

@[simp] theorem writeStagedBucket_store_burst (g p o : Nat) :
    (s.writeStagedBucket g p o).store.burst = s.store.burst := by
  unfold writeStagedBucket
  split <;> simp

@[simp] theorem writeStagedBucket_store_snapshot (g p o : Nat) :
    (s.writeStagedBucket g p o).store.snapshot = s.store.snapshot := by
  unfold writeStagedBucket
  split <;> simp

@[simp] theorem writeStagedBucket_port (g p o : Nat) :
    (s.writeStagedBucket g p o).port = s.port := by
  unfold writeStagedBucket
  split <;> simp

@[simp] theorem writeStagedBucket_engine (g p o : Nat) :
    (s.writeStagedBucket g p o).engine = s.engine := by
  unfold writeStagedBucket
  split <;> simp

@[simp] theorem writeStagedBucket_area (g p o : Nat) :
    (s.writeStagedBucket g p o).area = s.area := by
  unfold writeStagedBucket
  split <;> simp

@[simp] theorem writeStagedBucket_openCount (g p o : Nat) :
    (s.writeStagedBucket g p o).openCount = s.openCount := by
  unfold writeStagedBucket
  split <;> simp

@[simp] theorem writeStagedBucket_pending (g p o : Nat) :
    (s.writeStagedBucket g p o).pending = s.pending := by
  unfold writeStagedBucket
  split <;> simp

@[simp] theorem grantEngine_settings (w : Work) :
    (s.grantEngine w).control.settings = s.control.settings := by
  unfold grantEngine
  split <;> simp

@[simp] theorem grantEngine_now (w : Work) : (s.grantEngine w).control.now = s.control.now :=
  now_of_settings (by simp)

@[simp] theorem grantEngine_runState (w : Work) : (s.grantEngine w).control.runState = s.control.runState :=
  runState_of_settings (by simp)

@[simp] theorem grantEngine_monitor (w : Work) :
    (s.grantEngine w).monitor = s.monitor := by
  unfold grantEngine
  split <;> simp

@[simp] theorem grantEngine_uplink (w : Work) (v : Fin 32) : (s.grantEngine w).uplink v = s.uplink v := by simp [uplink]

@[simp] theorem grantEngine_conduits (w : Work) :
    (s.grantEngine w).conduits = s.conduits := by
  unfold grantEngine
  split <;> simp

@[simp] theorem grantEngine_alarm (w : Work) (cd : Fin 64) : (s.grantEngine w).alarm cd = s.alarm cd := by simp [alarm]

@[simp] theorem grantEngine_groups (w : Work) :
    (s.grantEngine w).groups = s.groups := by
  unfold grantEngine
  split <;> simp

@[simp] theorem grantEngine_group (w : Work) (gr : Nat) : (s.grantEngine w).group gr = s.group gr := by simp [group]

@[simp] theorem grantEngine_store_owners (w : Work) :
    (s.grantEngine w).store.owners = s.store.owners := by
  unfold grantEngine
  split <;> simp

@[simp] theorem grantEngine_store_fixQueue (w : Work) :
    (s.grantEngine w).store.fixQueue = s.store.fixQueue := by
  unfold grantEngine
  split <;> simp

@[simp] theorem grantEngine_store_burst (w : Work) :
    (s.grantEngine w).store.burst = s.store.burst := by
  unfold grantEngine
  split <;> simp

@[simp] theorem grantEngine_store_snapshot (w : Work) :
    (s.grantEngine w).store.snapshot = s.store.snapshot := by
  unfold grantEngine
  split <;> simp

@[simp] theorem grantEngine_port (w : Work) :
    (s.grantEngine w).port = s.port := by
  unfold grantEngine
  split <;> simp

@[simp] theorem grantEngine_plan (w : Work) :
    (s.grantEngine w).area.plan = s.area.plan := by
  unfold grantEngine
  split <;> simp

@[simp] theorem grantEngine_layout (w : Work) :
    (s.grantEngine w).area.layout = s.area.layout := by
  unfold grantEngine
  split <;> simp

@[simp] theorem grantEngine_groupRows (w : Work) :
    (s.grantEngine w).area.groupRows = s.area.groupRows := by
  unfold grantEngine
  split <;> simp

@[simp] theorem grantEngine_openCount (w : Work) :
    (s.grantEngine w).openCount = s.openCount := by
  unfold grantEngine
  split <;> simp

@[simp] theorem grantEngine_pending (w : Work) :
    (s.grantEngine w).pending = s.pending := by
  unfold grantEngine
  split <;> simp

@[simp] theorem grantScrub_control (b : Burst) :
    (s.grantScrub b).control = s.control := by
  unfold grantScrub
  dsimp only
  (repeat' split) <;> simp

@[simp] theorem grantScrub_monitor (b : Burst) :
    (s.grantScrub b).monitor = s.monitor := by
  unfold grantScrub
  dsimp only
  (repeat' split) <;> simp

@[simp] theorem grantScrub_uplink (b : Burst) (v : Fin 32) : (s.grantScrub b).uplink v = s.uplink v := by simp [uplink]

@[simp] theorem grantScrub_conduits (b : Burst) :
    (s.grantScrub b).conduits = s.conduits := by
  unfold grantScrub
  dsimp only
  (repeat' split) <;> simp

@[simp] theorem grantScrub_alarm (b : Burst) (cd : Fin 64) : (s.grantScrub b).alarm cd = s.alarm cd := by simp [alarm]

@[simp] theorem grantScrub_groups (b : Burst) :
    (s.grantScrub b).groups = s.groups := by
  unfold grantScrub
  dsimp only
  (repeat' split) <;> simp

@[simp] theorem grantScrub_group (b : Burst) (gr : Nat) : (s.grantScrub b).group gr = s.group gr := by simp [group]

@[simp] theorem grantScrub_store_owners (b : Burst) :
    (s.grantScrub b).store.owners = s.store.owners := by
  unfold grantScrub
  dsimp only
  (repeat' split) <;> simp

@[simp] theorem grantScrub_store_loads (b : Burst) :
    (s.grantScrub b).store.loads = s.store.loads := by
  unfold grantScrub
  dsimp only
  (repeat' split) <;> simp

@[simp] theorem grantScrub_store_fixQueue (b : Burst) :
    (s.grantScrub b).store.fixQueue = s.store.fixQueue := by
  unfold grantScrub
  dsimp only
  (repeat' split) <;> simp

@[simp] theorem grantScrub_store_snapshot (b : Burst) :
    (s.grantScrub b).store.snapshot = s.store.snapshot := by
  unfold grantScrub
  dsimp only
  (repeat' split) <;> simp

@[simp] theorem grantScrub_port (b : Burst) :
    (s.grantScrub b).port = s.port := by
  unfold grantScrub
  dsimp only
  (repeat' split) <;> simp

@[simp] theorem grantScrub_engine (b : Burst) :
    (s.grantScrub b).engine = s.engine := by
  unfold grantScrub
  dsimp only
  (repeat' split) <;> simp

@[simp] theorem grantScrub_area (b : Burst) :
    (s.grantScrub b).area = s.area := by
  unfold grantScrub
  dsimp only
  (repeat' split) <;> simp

@[simp] theorem grantScrub_openCount (b : Burst) :
    (s.grantScrub b).openCount = s.openCount := by
  unfold grantScrub
  dsimp only
  (repeat' split) <;> simp

@[simp] theorem grantScrub_pending (b : Burst) :
    (s.grantScrub b).pending = s.pending := by
  unfold grantScrub
  dsimp only
  (repeat' split) <;> simp

@[simp] theorem grantSnapshot_control (r : SnapshotRecord) :
    (s.grantSnapshot r).control = s.control := by
  unfold grantSnapshot
  simp

@[simp] theorem grantSnapshot_monitor (r : SnapshotRecord) :
    (s.grantSnapshot r).monitor = s.monitor := by
  unfold grantSnapshot
  simp

@[simp] theorem grantSnapshot_uplink (r : SnapshotRecord) (v : Fin 32) : (s.grantSnapshot r).uplink v = s.uplink v := by simp [uplink]

@[simp] theorem grantSnapshot_conduits (r : SnapshotRecord) :
    (s.grantSnapshot r).conduits = s.conduits := by
  unfold grantSnapshot
  simp

@[simp] theorem grantSnapshot_alarm (r : SnapshotRecord) (cd : Fin 64) : (s.grantSnapshot r).alarm cd = s.alarm cd := by simp [alarm]

@[simp] theorem grantSnapshot_groups (r : SnapshotRecord) :
    (s.grantSnapshot r).groups = s.groups := by
  unfold grantSnapshot
  simp

@[simp] theorem grantSnapshot_group (r : SnapshotRecord) (gr : Nat) : (s.grantSnapshot r).group gr = s.group gr := by simp [group]

@[simp] theorem grantSnapshot_store_memory (r : SnapshotRecord) :
    (s.grantSnapshot r).store.memory = s.store.memory := by
  unfold grantSnapshot
  simp

@[simp] theorem grantSnapshot_store_owners (r : SnapshotRecord) :
    (s.grantSnapshot r).store.owners = s.store.owners := by
  unfold grantSnapshot
  simp

@[simp] theorem grantSnapshot_store_loads (r : SnapshotRecord) :
    (s.grantSnapshot r).store.loads = s.store.loads := by
  unfold grantSnapshot
  simp

@[simp] theorem grantSnapshot_store_fixQueue (r : SnapshotRecord) :
    (s.grantSnapshot r).store.fixQueue = s.store.fixQueue := by
  unfold grantSnapshot
  simp

@[simp] theorem grantSnapshot_store_burst (r : SnapshotRecord) :
    (s.grantSnapshot r).store.burst = s.store.burst := by
  unfold grantSnapshot
  simp

@[simp] theorem grantSnapshot_port (r : SnapshotRecord) :
    (s.grantSnapshot r).port = s.port := by
  unfold grantSnapshot
  simp

@[simp] theorem grantSnapshot_engine (r : SnapshotRecord) :
    (s.grantSnapshot r).engine = s.engine := by
  unfold grantSnapshot
  simp

@[simp] theorem grantSnapshot_area (r : SnapshotRecord) :
    (s.grantSnapshot r).area = s.area := by
  unfold grantSnapshot
  simp

@[simp] theorem grantSnapshot_openCount (r : SnapshotRecord) :
    (s.grantSnapshot r).openCount = s.openCount := by
  unfold grantSnapshot
  simp

@[simp] theorem grantSnapshot_pending (r : SnapshotRecord) :
    (s.grantSnapshot r).pending = s.pending := by
  unfold grantSnapshot
  simp

@[simp] theorem grantBackground_control (b : Background) :
    (s.grantBackground b).control = s.control := by
  unfold grantBackground
  dsimp only
  (repeat' split) <;> simp

@[simp] theorem grantBackground_monitor (b : Background) :
    (s.grantBackground b).monitor = s.monitor := by
  unfold grantBackground
  dsimp only
  (repeat' split) <;> simp

@[simp] theorem grantBackground_uplink (b : Background) (v : Fin 32) : (s.grantBackground b).uplink v = s.uplink v := by simp [uplink]

@[simp] theorem grantBackground_conduits (b : Background) :
    (s.grantBackground b).conduits = s.conduits := by
  unfold grantBackground
  dsimp only
  (repeat' split) <;> simp

@[simp] theorem grantBackground_alarm (b : Background) (cd : Fin 64) : (s.grantBackground b).alarm cd = s.alarm cd := by simp [alarm]

@[simp] theorem grantBackground_groups (b : Background) :
    (s.grantBackground b).groups = s.groups := by
  unfold grantBackground
  dsimp only
  (repeat' split) <;> simp

@[simp] theorem grantBackground_group (b : Background) (gr : Nat) : (s.grantBackground b).group gr = s.group gr := by simp [group]

@[simp] theorem grantBackground_store_owners (b : Background) :
    (s.grantBackground b).store.owners = s.store.owners := by
  unfold grantBackground
  dsimp only
  (repeat' split) <;> simp

@[simp] theorem grantBackground_store_loads (b : Background) :
    (s.grantBackground b).store.loads = s.store.loads := by
  unfold grantBackground
  dsimp only
  (repeat' split) <;> simp

@[simp] theorem grantBackground_store_fixQueue (b : Background) :
    (s.grantBackground b).store.fixQueue = s.store.fixQueue := by
  unfold grantBackground
  dsimp only
  (repeat' split) <;> simp

@[simp] theorem grantBackground_port (b : Background) :
    (s.grantBackground b).port = s.port := by
  unfold grantBackground
  dsimp only
  (repeat' split) <;> simp

@[simp] theorem grantBackground_engine (b : Background) :
    (s.grantBackground b).engine = s.engine := by
  unfold grantBackground
  dsimp only
  (repeat' split) <;> simp

@[simp] theorem grantBackground_area (b : Background) :
    (s.grantBackground b).area = s.area := by
  unfold grantBackground
  dsimp only
  (repeat' split) <;> simp

@[simp] theorem grantBackground_openCount (b : Background) :
    (s.grantBackground b).openCount = s.openCount := by
  unfold grantBackground
  dsimp only
  (repeat' split) <;> simp

@[simp] theorem grantBackground_pending (b : Background) :
    (s.grantBackground b).pending = s.pending := by
  unfold grantBackground
  dsimp only
  (repeat' split) <;> simp

@[simp] theorem grantClass3_control :
    (s.grantClass3).control = s.control := by
  unfold grantClass3
  split <;> simp

@[simp] theorem grantClass3_monitor :
    (s.grantClass3).monitor = s.monitor := by
  unfold grantClass3
  split <;> simp

@[simp] theorem grantClass3_uplink (v : Fin 32) : (s.grantClass3).uplink v = s.uplink v := by simp [uplink]

@[simp] theorem grantClass3_conduits :
    (s.grantClass3).conduits = s.conduits := by
  unfold grantClass3
  split <;> simp

@[simp] theorem grantClass3_alarm (cd : Fin 64) : (s.grantClass3).alarm cd = s.alarm cd := by simp [alarm]

@[simp] theorem grantClass3_groups :
    (s.grantClass3).groups = s.groups := by
  unfold grantClass3
  split <;> simp

@[simp] theorem grantClass3_group (gr : Nat) : (s.grantClass3).group gr = s.group gr := by simp [group]

@[simp] theorem grantClass3_store_owners :
    (s.grantClass3).store.owners = s.store.owners := by
  unfold grantClass3
  split <;> simp

@[simp] theorem grantClass3_store_loads :
    (s.grantClass3).store.loads = s.store.loads := by
  unfold grantClass3
  split <;> simp

@[simp] theorem grantClass3_store_fixQueue :
    (s.grantClass3).store.fixQueue = s.store.fixQueue := by
  unfold grantClass3
  split <;> simp

@[simp] theorem grantClass3_port :
    (s.grantClass3).port = s.port := by
  unfold grantClass3
  split <;> simp

@[simp] theorem grantClass3_engine :
    (s.grantClass3).engine = s.engine := by
  unfold grantClass3
  split <;> simp

@[simp] theorem grantClass3_area :
    (s.grantClass3).area = s.area := by
  unfold grantClass3
  split <;> simp

@[simp] theorem grantClass3_pending :
    (s.grantClass3).pending = s.pending := by
  unfold grantClass3
  split <;> simp

@[simp] theorem grantNext_settings :
    (s.grantNext).control.settings = s.control.settings := by
  unfold grantNext
  (repeat' split) <;> simp

@[simp] theorem grantNext_now : (s.grantNext).control.now = s.control.now :=
  now_of_settings (by simp)

@[simp] theorem grantNext_runState : (s.grantNext).control.runState = s.control.runState :=
  runState_of_settings (by simp)

@[simp] theorem grantNext_monitor :
    (s.grantNext).monitor = s.monitor := by
  unfold grantNext
  (repeat' split) <;> simp

@[simp] theorem grantNext_uplink (v : Fin 32) : (s.grantNext).uplink v = s.uplink v := by simp [uplink]

@[simp] theorem grantNext_conduits :
    (s.grantNext).conduits = s.conduits := by
  unfold grantNext
  (repeat' split) <;> simp

@[simp] theorem grantNext_alarm (cd : Fin 64) : (s.grantNext).alarm cd = s.alarm cd := by simp [alarm]

@[simp] theorem grantNext_groups :
    (s.grantNext).groups = s.groups := by
  unfold grantNext
  (repeat' split) <;> simp

@[simp] theorem grantNext_group (gr : Nat) : (s.grantNext).group gr = s.group gr := by simp [group]

@[simp] theorem grantNext_store_owners :
    (s.grantNext).store.owners = s.store.owners := by
  unfold grantNext
  (repeat' split) <;> simp

@[simp] theorem grantNext_store_fixQueue :
    (s.grantNext).store.fixQueue = s.store.fixQueue := by
  unfold grantNext
  (repeat' split) <;> simp

@[simp] theorem grantNext_plan :
    (s.grantNext).area.plan = s.area.plan := by
  unfold grantNext
  (repeat' split) <;> simp

@[simp] theorem grantNext_layout :
    (s.grantNext).area.layout = s.area.layout := by
  unfold grantNext
  (repeat' split) <;> simp

@[simp] theorem grantNext_groupRows :
    (s.grantNext).area.groupRows = s.area.groupRows := by
  unfold grantNext
  (repeat' split) <;> simp

@[simp] theorem grantNext_pending :
    (s.grantNext).pending = s.pending := by
  unfold grantNext
  (repeat' split) <;> simp

@[simp] theorem reportWalk_control (w : Walk) (c : WalkClass) (d : PartTime) :
    (s.reportWalk w c d).control = s.control := by
  unfold reportWalk
  split <;> simp

@[simp] theorem reportWalk_lines (w : Walk) (c : WalkClass) (d : PartTime) :
    (s.reportWalk w c d).monitor.lines = s.monitor.lines := by
  unfold reportWalk
  split <;> simp

@[simp] theorem reportWalk_conduits (w : Walk) (c : WalkClass) (d : PartTime) :
    (s.reportWalk w c d).conduits = s.conduits := by
  unfold reportWalk
  split <;> simp

@[simp] theorem reportWalk_alarm (w : Walk) (c : WalkClass) (d : PartTime) (cd : Fin 64) : (s.reportWalk w c d).alarm cd = s.alarm cd := by simp [alarm]

@[simp] theorem reportWalk_groups (w : Walk) (c : WalkClass) (d : PartTime) :
    (s.reportWalk w c d).groups = s.groups := by
  unfold reportWalk
  split <;> simp

@[simp] theorem reportWalk_group (w : Walk) (c : WalkClass) (d : PartTime) (gr : Nat) : (s.reportWalk w c d).group gr = s.group gr := by simp [group]

@[simp] theorem reportWalk_store (w : Walk) (c : WalkClass) (d : PartTime) :
    (s.reportWalk w c d).store = s.store := by
  unfold reportWalk
  split <;> simp

@[simp] theorem reportWalk_port (w : Walk) (c : WalkClass) (d : PartTime) :
    (s.reportWalk w c d).port = s.port := by
  unfold reportWalk
  split <;> simp

@[simp] theorem reportWalk_engine (w : Walk) (c : WalkClass) (d : PartTime) :
    (s.reportWalk w c d).engine = s.engine := by
  unfold reportWalk
  split <;> simp

@[simp] theorem reportWalk_area (w : Walk) (c : WalkClass) (d : PartTime) :
    (s.reportWalk w c d).area = s.area := by
  unfold reportWalk
  split <;> simp

@[simp] theorem reportWalk_openCount (w : Walk) (c : WalkClass) (d : PartTime) :
    (s.reportWalk w c d).openCount = s.openCount := by
  unfold reportWalk
  split <;> simp

@[simp] theorem reportWalk_pending (w : Walk) (c : WalkClass) (d : PartTime) :
    (s.reportWalk w c d).pending = s.pending := by
  unfold reportWalk
  split <;> simp

@[simp] theorem endWalk_settings (w : Walk) (c : WalkClass) :
    (s.endWalk w c).control.settings = s.control.settings := by
  unfold endWalk
  split <;> simp

@[simp] theorem endWalk_now (w : Walk) (c : WalkClass) : (s.endWalk w c).control.now = s.control.now :=
  now_of_settings (by simp)

@[simp] theorem endWalk_runState (w : Walk) (c : WalkClass) : (s.endWalk w c).control.runState = s.control.runState :=
  runState_of_settings (by simp)

@[simp] theorem endWalk_lines (w : Walk) (c : WalkClass) :
    (s.endWalk w c).monitor.lines = s.monitor.lines := by
  unfold endWalk
  split <;> simp

@[simp] theorem endWalk_conduits (w : Walk) (c : WalkClass) :
    (s.endWalk w c).conduits = s.conduits := by
  unfold endWalk
  split <;> simp

@[simp] theorem endWalk_alarm (w : Walk) (c : WalkClass) (cd : Fin 64) : (s.endWalk w c).alarm cd = s.alarm cd := by simp [alarm]

@[simp] theorem endWalk_groups (w : Walk) (c : WalkClass) :
    (s.endWalk w c).groups = s.groups := by
  unfold endWalk
  split <;> simp

@[simp] theorem endWalk_group (w : Walk) (c : WalkClass) (gr : Nat) : (s.endWalk w c).group gr = s.group gr := by simp [group]

@[simp] theorem endWalk_store (w : Walk) (c : WalkClass) :
    (s.endWalk w c).store = s.store := by
  unfold endWalk
  split <;> simp

@[simp] theorem endWalk_port (w : Walk) (c : WalkClass) :
    (s.endWalk w c).port = s.port := by
  unfold endWalk
  split <;> simp

@[simp] theorem endWalk_plan (w : Walk) (c : WalkClass) :
    (s.endWalk w c).area.plan = s.area.plan := by
  unfold endWalk
  split <;> simp

@[simp] theorem endWalk_layout (w : Walk) (c : WalkClass) :
    (s.endWalk w c).area.layout = s.area.layout := by
  unfold endWalk
  split <;> simp

@[simp] theorem endWalk_groupRows (w : Walk) (c : WalkClass) :
    (s.endWalk w c).area.groupRows = s.area.groupRows := by
  unfold endWalk
  split <;> simp

@[simp] theorem endWalk_openCount (w : Walk) (c : WalkClass) :
    (s.endWalk w c).openCount = s.openCount := by
  unfold endWalk
  split <;> simp

@[simp] theorem endWalk_pending (w : Walk) (c : WalkClass) :
    (s.endWalk w c).pending = s.pending := by
  unfold endWalk
  split <;> simp

@[simp] theorem beginStep_control (w : Walk) (g : Nat) :
    (s.beginStep w g).control = s.control := by
  unfold beginStep
  simp

@[simp] theorem beginStep_monitor (w : Walk) (g : Nat) :
    (s.beginStep w g).monitor = s.monitor := by
  unfold beginStep
  simp

@[simp] theorem beginStep_uplink (w : Walk) (g : Nat) (v : Fin 32) : (s.beginStep w g).uplink v = s.uplink v := by simp [uplink]

@[simp] theorem beginStep_conduits (w : Walk) (g : Nat) :
    (s.beginStep w g).conduits = s.conduits := by
  unfold beginStep
  simp

@[simp] theorem beginStep_alarm (w : Walk) (g : Nat) (cd : Fin 64) : (s.beginStep w g).alarm cd = s.alarm cd := by simp [alarm]

@[simp] theorem beginStep_groups (w : Walk) (g : Nat) :
    (s.beginStep w g).groups = s.groups := by
  unfold beginStep
  simp

@[simp] theorem beginStep_group (w : Walk) (g : Nat) (gr : Nat) : (s.beginStep w g).group gr = s.group gr := by simp [group]

@[simp] theorem beginStep_store (w : Walk) (g : Nat) :
    (s.beginStep w g).store = s.store := by
  unfold beginStep
  simp

@[simp] theorem beginStep_port (w : Walk) (g : Nat) :
    (s.beginStep w g).port = s.port := by
  unfold beginStep
  simp

@[simp] theorem beginStep_area (w : Walk) (g : Nat) :
    (s.beginStep w g).area = s.area := by
  unfold beginStep
  simp

@[simp] theorem beginStep_openCount (w : Walk) (g : Nat) :
    (s.beginStep w g).openCount = s.openCount := by
  unfold beginStep
  simp

@[simp] theorem beginStep_pending (w : Walk) (g : Nat) :
    (s.beginStep w g).pending = s.pending := by
  unfold beginStep
  simp

@[simp] theorem takeIntake_settings (i : IntakeItem) :
    (s.takeIntake i).control.settings = s.control.settings := by
  unfold takeIntake
  dsimp only
  (repeat' split) <;> simp

@[simp] theorem takeIntake_now (i : IntakeItem) : (s.takeIntake i).control.now = s.control.now :=
  now_of_settings (by simp)

@[simp] theorem takeIntake_runState (i : IntakeItem) : (s.takeIntake i).control.runState = s.control.runState :=
  runState_of_settings (by simp)

@[simp] theorem takeIntake_monitor (i : IntakeItem) :
    (s.takeIntake i).monitor = s.monitor := by
  unfold takeIntake
  dsimp only
  (repeat' split) <;> simp

@[simp] theorem takeIntake_uplink (i : IntakeItem) (v : Fin 32) : (s.takeIntake i).uplink v = s.uplink v := by simp [uplink]

@[simp] theorem takeIntake_conduits (i : IntakeItem) :
    (s.takeIntake i).conduits = s.conduits := by
  unfold takeIntake
  dsimp only
  (repeat' split) <;> simp

@[simp] theorem takeIntake_alarm (i : IntakeItem) (cd : Fin 64) : (s.takeIntake i).alarm cd = s.alarm cd := by simp [alarm]

@[simp] theorem takeIntake_store_memory (i : IntakeItem) :
    (s.takeIntake i).store.memory = s.store.memory := by
  unfold takeIntake
  dsimp only
  (repeat' split) <;> simp

@[simp] theorem takeIntake_store_burst (i : IntakeItem) :
    (s.takeIntake i).store.burst = s.store.burst := by
  unfold takeIntake
  dsimp only
  (repeat' split) <;> simp

@[simp] theorem takeIntake_port (i : IntakeItem) :
    (s.takeIntake i).port = s.port := by
  unfold takeIntake
  dsimp only
  (repeat' split) <;> simp

@[simp] theorem takeIntake_plan (i : IntakeItem) :
    (s.takeIntake i).area.plan = s.area.plan := by
  unfold takeIntake
  dsimp only
  (repeat' split) <;> simp

@[simp] theorem takeIntake_layout (i : IntakeItem) :
    (s.takeIntake i).area.layout = s.area.layout := by
  unfold takeIntake
  dsimp only
  (repeat' split) <;> simp

@[simp] theorem takeIntake_groupRows (i : IntakeItem) :
    (s.takeIntake i).area.groupRows = s.area.groupRows := by
  unfold takeIntake
  dsimp only
  (repeat' split) <;> simp

@[simp] theorem takeIntake_openCount (i : IntakeItem) :
    (s.takeIntake i).openCount = s.openCount := by
  unfold takeIntake
  dsimp only
  (repeat' split) <;> simp

@[simp] theorem takeIntake_pending (i : IntakeItem) :
    (s.takeIntake i).pending = s.pending := by
  unfold takeIntake
  dsimp only
  (repeat' split) <;> simp

@[simp] theorem select_settings (n : Nat) :
    (s.select n).control.settings = s.control.settings := by
  induction n generalizing s with
  | zero => rfl
  | succ n ih =>
    unfold select
    repeat' split
    all_goals simp [ih]

@[simp] theorem select_now (n : Nat) : (s.select n).control.now = s.control.now :=
  now_of_settings (by simp)

@[simp] theorem select_runState (n : Nat) : (s.select n).control.runState = s.control.runState :=
  runState_of_settings (by simp)

@[simp] theorem select_lines (n : Nat) :
    (s.select n).monitor.lines = s.monitor.lines := by
  induction n generalizing s with
  | zero => rfl
  | succ n ih =>
    unfold select
    repeat' split
    all_goals simp [ih]

@[simp] theorem select_conduits (n : Nat) :
    (s.select n).conduits = s.conduits := by
  induction n generalizing s with
  | zero => rfl
  | succ n ih =>
    unfold select
    repeat' split
    all_goals simp [ih]

@[simp] theorem select_alarm (n : Nat) (cd : Fin 64) : (s.select n).alarm cd = s.alarm cd := by simp [alarm]

@[simp] theorem select_store_memory (n : Nat) :
    (s.select n).store.memory = s.store.memory := by
  induction n generalizing s with
  | zero => rfl
  | succ n ih =>
    unfold select
    repeat' split
    all_goals simp [ih]

@[simp] theorem select_store_burst (n : Nat) :
    (s.select n).store.burst = s.store.burst := by
  induction n generalizing s with
  | zero => rfl
  | succ n ih =>
    unfold select
    repeat' split
    all_goals simp [ih]

@[simp] theorem select_port (n : Nat) :
    (s.select n).port = s.port := by
  induction n generalizing s with
  | zero => rfl
  | succ n ih =>
    unfold select
    repeat' split
    all_goals simp [ih]

@[simp] theorem select_plan (n : Nat) :
    (s.select n).area.plan = s.area.plan := by
  induction n generalizing s with
  | zero => rfl
  | succ n ih =>
    unfold select
    repeat' split
    all_goals simp [ih]

@[simp] theorem select_layout (n : Nat) :
    (s.select n).area.layout = s.area.layout := by
  induction n generalizing s with
  | zero => rfl
  | succ n ih =>
    unfold select
    repeat' split
    all_goals simp [ih]

@[simp] theorem select_groupRows (n : Nat) :
    (s.select n).area.groupRows = s.area.groupRows := by
  induction n generalizing s with
  | zero => rfl
  | succ n ih =>
    unfold select
    repeat' split
    all_goals simp [ih]

@[simp] theorem select_openCount (n : Nat) :
    (s.select n).openCount = s.openCount := by
  induction n generalizing s with
  | zero => rfl
  | succ n ih =>
    unfold select
    repeat' split
    all_goals simp [ih]

@[simp] theorem select_pending (n : Nat) :
    (s.select n).pending = s.pending := by
  induction n generalizing s with
  | zero => rfl
  | succ n ih =>
    unfold select
    repeat' split
    all_goals simp [ih]

@[simp] theorem completePass_settings (g : Nat) :
    (s.completePass g).control.settings = s.control.settings := by
  unfold completePass
  simp

@[simp] theorem completePass_now (g : Nat) : (s.completePass g).control.now = s.control.now :=
  now_of_settings (by simp)

@[simp] theorem completePass_runState (g : Nat) : (s.completePass g).control.runState = s.control.runState :=
  runState_of_settings (by simp)

@[simp] theorem completePass_monitor (g : Nat) :
    (s.completePass g).monitor = s.monitor := by
  unfold completePass
  simp

@[simp] theorem completePass_uplink (g : Nat) (v : Fin 32) : (s.completePass g).uplink v = s.uplink v := by simp [uplink]

@[simp] theorem completePass_conduits (g : Nat) :
    (s.completePass g).conduits = s.conduits := by
  unfold completePass
  simp

@[simp] theorem completePass_alarm (g : Nat) (cd : Fin 64) : (s.completePass g).alarm cd = s.alarm cd := by simp [alarm]

@[simp] theorem completePass_store (g : Nat) :
    (s.completePass g).store = s.store := by
  unfold completePass
  simp

@[simp] theorem completePass_port (g : Nat) :
    (s.completePass g).port = s.port := by
  unfold completePass
  simp

@[simp] theorem completePass_engine (g : Nat) :
    (s.completePass g).engine = s.engine := by
  unfold completePass
  simp

@[simp] theorem completePass_plan (g : Nat) :
    (s.completePass g).area.plan = s.area.plan := by
  unfold completePass
  simp

@[simp] theorem completePass_layout (g : Nat) :
    (s.completePass g).area.layout = s.area.layout := by
  unfold completePass
  simp

@[simp] theorem completePass_groupRows (g : Nat) :
    (s.completePass g).area.groupRows = s.area.groupRows := by
  unfold completePass
  simp

@[simp] theorem completePass_openCount (g : Nat) :
    (s.completePass g).openCount = s.openCount := by
  unfold completePass
  simp

@[simp] theorem completePass_pending (g : Nat) :
    (s.completePass g).pending = s.pending := by
  unfold completePass
  simp

@[simp] theorem completeStep_settings (u : Fin 32) (g : Nat) (c : Bool) :
    (s.completeStep u g c).control.settings = s.control.settings := by
  unfold completeStep
  simp

@[simp] theorem completeStep_now (u : Fin 32) (g : Nat) (c : Bool) : (s.completeStep u g c).control.now = s.control.now :=
  now_of_settings (by simp)

@[simp] theorem completeStep_runState (u : Fin 32) (g : Nat) (c : Bool) : (s.completeStep u g c).control.runState = s.control.runState :=
  runState_of_settings (by simp)

@[simp] theorem completeStep_monitor (u : Fin 32) (g : Nat) (c : Bool) :
    (s.completeStep u g c).monitor = s.monitor := by
  unfold completeStep
  simp

@[simp] theorem completeStep_uplink (u : Fin 32) (g : Nat) (c : Bool) (v : Fin 32) : (s.completeStep u g c).uplink v = s.uplink v := by simp [uplink]

@[simp] theorem completeStep_conduits (u : Fin 32) (g : Nat) (c : Bool) :
    (s.completeStep u g c).conduits = s.conduits := by
  unfold completeStep
  simp

@[simp] theorem completeStep_alarm (u : Fin 32) (g : Nat) (c : Bool) (cd : Fin 64) : (s.completeStep u g c).alarm cd = s.alarm cd := by simp [alarm]

@[simp] theorem completeStep_store (u : Fin 32) (g : Nat) (c : Bool) :
    (s.completeStep u g c).store = s.store := by
  unfold completeStep
  simp

@[simp] theorem completeStep_port (u : Fin 32) (g : Nat) (c : Bool) :
    (s.completeStep u g c).port = s.port := by
  unfold completeStep
  simp

@[simp] theorem completeStep_plan (u : Fin 32) (g : Nat) (c : Bool) :
    (s.completeStep u g c).area.plan = s.area.plan := by
  unfold completeStep
  simp

@[simp] theorem completeStep_layout (u : Fin 32) (g : Nat) (c : Bool) :
    (s.completeStep u g c).area.layout = s.area.layout := by
  unfold completeStep
  simp

@[simp] theorem completeStep_groupRows (u : Fin 32) (g : Nat) (c : Bool) :
    (s.completeStep u g c).area.groupRows = s.area.groupRows := by
  unfold completeStep
  simp

@[simp] theorem completeStep_openCount (u : Fin 32) (g : Nat) (c : Bool) :
    (s.completeStep u g c).openCount = s.openCount := by
  unfold completeStep
  simp

@[simp] theorem completeStep_pending (u : Fin 32) (g : Nat) (c : Bool) :
    (s.completeStep u g c).pending = s.pending := by
  unfold completeStep
  simp

@[simp] theorem nextStepBucket_settings (u : Fin 32) (g b : Nat) (c : Bool) :
    (s.nextStepBucket u g b c).control.settings = s.control.settings := by
  unfold nextStepBucket
  split <;> simp

@[simp] theorem nextStepBucket_now (u : Fin 32) (g b : Nat) (c : Bool) : (s.nextStepBucket u g b c).control.now = s.control.now :=
  now_of_settings (by simp)

@[simp] theorem nextStepBucket_runState (u : Fin 32) (g b : Nat) (c : Bool) : (s.nextStepBucket u g b c).control.runState = s.control.runState :=
  runState_of_settings (by simp)

@[simp] theorem nextStepBucket_monitor (u : Fin 32) (g b : Nat) (c : Bool) :
    (s.nextStepBucket u g b c).monitor = s.monitor := by
  unfold nextStepBucket
  split <;> simp

@[simp] theorem nextStepBucket_uplink (u : Fin 32) (g b : Nat) (c : Bool) (v : Fin 32) : (s.nextStepBucket u g b c).uplink v = s.uplink v := by simp [uplink]

@[simp] theorem nextStepBucket_conduits (u : Fin 32) (g b : Nat) (c : Bool) :
    (s.nextStepBucket u g b c).conduits = s.conduits := by
  unfold nextStepBucket
  split <;> simp

@[simp] theorem nextStepBucket_alarm (u : Fin 32) (g b : Nat) (c : Bool) (cd : Fin 64) : (s.nextStepBucket u g b c).alarm cd = s.alarm cd := by simp [alarm]

@[simp] theorem nextStepBucket_store (u : Fin 32) (g b : Nat) (c : Bool) :
    (s.nextStepBucket u g b c).store = s.store := by
  unfold nextStepBucket
  split <;> simp

@[simp] theorem nextStepBucket_port (u : Fin 32) (g b : Nat) (c : Bool) :
    (s.nextStepBucket u g b c).port = s.port := by
  unfold nextStepBucket
  split <;> simp

@[simp] theorem nextStepBucket_plan (u : Fin 32) (g b : Nat) (c : Bool) :
    (s.nextStepBucket u g b c).area.plan = s.area.plan := by
  unfold nextStepBucket
  split <;> simp

@[simp] theorem nextStepBucket_layout (u : Fin 32) (g b : Nat) (c : Bool) :
    (s.nextStepBucket u g b c).area.layout = s.area.layout := by
  unfold nextStepBucket
  split <;> simp

@[simp] theorem nextStepBucket_groupRows (u : Fin 32) (g b : Nat) (c : Bool) :
    (s.nextStepBucket u g b c).area.groupRows = s.area.groupRows := by
  unfold nextStepBucket
  split <;> simp

@[simp] theorem nextStepBucket_openCount (u : Fin 32) (g b : Nat) (c : Bool) :
    (s.nextStepBucket u g b c).openCount = s.openCount := by
  unfold nextStepBucket
  split <;> simp

@[simp] theorem nextStepBucket_pending (u : Fin 32) (g b : Nat) (c : Bool) :
    (s.nextStepBucket u g b c).pending = s.pending := by
  unfold nextStepBucket
  split <;> simp

@[simp] theorem nextPassBucket_settings (g b : Nat) :
    (s.nextPassBucket g b).control.settings = s.control.settings := by
  unfold nextPassBucket
  split <;> simp

@[simp] theorem nextPassBucket_now (g b : Nat) : (s.nextPassBucket g b).control.now = s.control.now :=
  now_of_settings (by simp)

@[simp] theorem nextPassBucket_runState (g b : Nat) : (s.nextPassBucket g b).control.runState = s.control.runState :=
  runState_of_settings (by simp)

@[simp] theorem nextPassBucket_monitor (g b : Nat) :
    (s.nextPassBucket g b).monitor = s.monitor := by
  unfold nextPassBucket
  split <;> simp

@[simp] theorem nextPassBucket_uplink (g b : Nat) (v : Fin 32) : (s.nextPassBucket g b).uplink v = s.uplink v := by simp [uplink]

@[simp] theorem nextPassBucket_conduits (g b : Nat) :
    (s.nextPassBucket g b).conduits = s.conduits := by
  unfold nextPassBucket
  split <;> simp

@[simp] theorem nextPassBucket_alarm (g b : Nat) (cd : Fin 64) : (s.nextPassBucket g b).alarm cd = s.alarm cd := by simp [alarm]

@[simp] theorem nextPassBucket_store (g b : Nat) :
    (s.nextPassBucket g b).store = s.store := by
  unfold nextPassBucket
  split <;> simp

@[simp] theorem nextPassBucket_port (g b : Nat) :
    (s.nextPassBucket g b).port = s.port := by
  unfold nextPassBucket
  split <;> simp

@[simp] theorem nextPassBucket_plan (g b : Nat) :
    (s.nextPassBucket g b).area.plan = s.area.plan := by
  unfold nextPassBucket
  split <;> simp

@[simp] theorem nextPassBucket_layout (g b : Nat) :
    (s.nextPassBucket g b).area.layout = s.area.layout := by
  unfold nextPassBucket
  split <;> simp

@[simp] theorem nextPassBucket_groupRows (g b : Nat) :
    (s.nextPassBucket g b).area.groupRows = s.area.groupRows := by
  unfold nextPassBucket
  split <;> simp

@[simp] theorem nextPassBucket_openCount (g b : Nat) :
    (s.nextPassBucket g b).openCount = s.openCount := by
  unfold nextPassBucket
  split <;> simp

@[simp] theorem nextPassBucket_pending (g b : Nat) :
    (s.nextPassBucket g b).pending = s.pending := by
  unfold nextPassBucket
  split <;> simp

@[simp] theorem endBlockStep_control (g p : Nat) :
    (s.endBlockStep g p).control = s.control := by
  unfold endBlockStep
  split <;> simp

@[simp] theorem endBlockStep_monitor (g p : Nat) :
    (s.endBlockStep g p).monitor = s.monitor := by
  unfold endBlockStep
  split <;> simp

@[simp] theorem endBlockStep_uplink (g p : Nat) (v : Fin 32) : (s.endBlockStep g p).uplink v = s.uplink v := by simp [uplink]

@[simp] theorem endBlockStep_conduits (g p : Nat) :
    (s.endBlockStep g p).conduits = s.conduits := by
  unfold endBlockStep
  split <;> simp

@[simp] theorem endBlockStep_alarm (g p : Nat) (cd : Fin 64) : (s.endBlockStep g p).alarm cd = s.alarm cd := by simp [alarm]

@[simp] theorem endBlockStep_store (g p : Nat) :
    (s.endBlockStep g p).store = s.store := by
  unfold endBlockStep
  split <;> simp

@[simp] theorem endBlockStep_port (g p : Nat) :
    (s.endBlockStep g p).port = s.port := by
  unfold endBlockStep
  split <;> simp

@[simp] theorem endBlockStep_area (g p : Nat) :
    (s.endBlockStep g p).area = s.area := by
  unfold endBlockStep
  split <;> simp

@[simp] theorem endBlockStep_openCount (g p : Nat) :
    (s.endBlockStep g p).openCount = s.openCount := by
  unfold endBlockStep
  split <;> simp

@[simp] theorem endBlockStep_pending (g p : Nat) :
    (s.endBlockStep g p).pending = s.pending := by
  unfold endBlockStep
  split <;> simp

@[simp] theorem answer_control (a : Answer) :
    (s.answer a).control = s.control := by
  unfold answer
  simp

@[simp] theorem answer_monitor (a : Answer) :
    (s.answer a).monitor = s.monitor := by
  unfold answer
  simp

@[simp] theorem answer_uplink (a : Answer) (v : Fin 32) : (s.answer a).uplink v = s.uplink v := by simp [uplink]

@[simp] theorem answer_conduits (a : Answer) :
    (s.answer a).conduits = s.conduits := by
  unfold answer
  simp

@[simp] theorem answer_alarm (a : Answer) (cd : Fin 64) : (s.answer a).alarm cd = s.alarm cd := by simp [alarm]

@[simp] theorem answer_groups (a : Answer) :
    (s.answer a).groups = s.groups := by
  unfold answer
  simp

@[simp] theorem answer_group (a : Answer) (gr : Nat) : (s.answer a).group gr = s.group gr := by simp [group]

@[simp] theorem answer_store (a : Answer) :
    (s.answer a).store = s.store := by
  unfold answer
  simp

@[simp] theorem answer_engine (a : Answer) :
    (s.answer a).engine = s.engine := by
  unfold answer
  simp

@[simp] theorem answer_area (a : Answer) :
    (s.answer a).area = s.area := by
  unfold answer
  simp

@[simp] theorem answer_openCount (a : Answer) :
    (s.answer a).openCount = s.openCount := by
  unfold answer
  simp

@[simp] theorem answer_pending (a : Answer) :
    (s.answer a).pending = s.pending := by
  unfold answer
  simp

@[simp] theorem arriveHello_control (v : Byte) :
    (s.arriveHello v).control = s.control := by
  unfold arriveHello
  split <;> simp

@[simp] theorem arriveHello_monitor (v : Byte) :
    (s.arriveHello v).monitor = s.monitor := by
  unfold arriveHello
  split <;> simp

@[simp] theorem arriveHello_uplink (v : Byte) (v : Fin 32) : (s.arriveHello v).uplink v = s.uplink v := by simp [uplink]

@[simp] theorem arriveHello_conduits (v : Byte) :
    (s.arriveHello v).conduits = s.conduits := by
  unfold arriveHello
  split <;> simp

@[simp] theorem arriveHello_alarm (v : Byte) (cd : Fin 64) : (s.arriveHello v).alarm cd = s.alarm cd := by simp [alarm]

@[simp] theorem arriveHello_groups (v : Byte) :
    (s.arriveHello v).groups = s.groups := by
  unfold arriveHello
  split <;> simp

@[simp] theorem arriveHello_group (v : Byte) (gr : Nat) : (s.arriveHello v).group gr = s.group gr := by simp [group]

@[simp] theorem arriveHello_store_memory (v : Byte) :
    (s.arriveHello v).store.memory = s.store.memory := by
  unfold arriveHello
  split <;> simp

@[simp] theorem arriveHello_store_owners (v : Byte) :
    (s.arriveHello v).store.owners = s.store.owners := by
  unfold arriveHello
  split <;> simp

@[simp] theorem arriveHello_store_loads (v : Byte) :
    (s.arriveHello v).store.loads = s.store.loads := by
  unfold arriveHello
  split <;> simp

@[simp] theorem arriveHello_store_fixQueue (v : Byte) :
    (s.arriveHello v).store.fixQueue = s.store.fixQueue := by
  unfold arriveHello
  split <;> simp

@[simp] theorem arriveHello_store_burst (v : Byte) :
    (s.arriveHello v).store.burst = s.store.burst := by
  unfold arriveHello
  split <;> simp

@[simp] theorem arriveHello_store_snapshot (v : Byte) :
    (s.arriveHello v).store.snapshot = s.store.snapshot := by
  unfold arriveHello
  split <;> simp

@[simp] theorem arriveHello_engine (v : Byte) :
    (s.arriveHello v).engine = s.engine := by
  unfold arriveHello
  split <;> simp

@[simp] theorem arriveHello_area (v : Byte) :
    (s.arriveHello v).area = s.area := by
  unfold arriveHello
  split <;> simp

@[simp] theorem arriveHello_openCount (v : Byte) :
    (s.arriveHello v).openCount = s.openCount := by
  unfold arriveHello
  split <;> simp

@[simp] theorem arriveHello_pending (v : Byte) :
    (s.arriveHello v).pending = s.pending := by
  unfold arriveHello
  split <;> simp

@[simp] theorem arriveLookup_control (l : Lookup) :
    (s.arriveLookup l).control = s.control := by
  unfold arriveLookup
  (repeat' split) <;> simp

@[simp] theorem arriveLookup_monitor (l : Lookup) :
    (s.arriveLookup l).monitor = s.monitor := by
  unfold arriveLookup
  (repeat' split) <;> simp

@[simp] theorem arriveLookup_uplink (l : Lookup) (v : Fin 32) : (s.arriveLookup l).uplink v = s.uplink v := by simp [uplink]

@[simp] theorem arriveLookup_conduits (l : Lookup) :
    (s.arriveLookup l).conduits = s.conduits := by
  unfold arriveLookup
  (repeat' split) <;> simp

@[simp] theorem arriveLookup_alarm (l : Lookup) (cd : Fin 64) : (s.arriveLookup l).alarm cd = s.alarm cd := by simp [alarm]

@[simp] theorem arriveLookup_groups (l : Lookup) :
    (s.arriveLookup l).groups = s.groups := by
  unfold arriveLookup
  (repeat' split) <;> simp

@[simp] theorem arriveLookup_group (l : Lookup) (gr : Nat) : (s.arriveLookup l).group gr = s.group gr := by simp [group]

@[simp] theorem arriveLookup_store (l : Lookup) :
    (s.arriveLookup l).store = s.store := by
  unfold arriveLookup
  (repeat' split) <;> simp

@[simp] theorem arriveLookup_engine (l : Lookup) :
    (s.arriveLookup l).engine = s.engine := by
  unfold arriveLookup
  (repeat' split) <;> simp

@[simp] theorem arriveLookup_area (l : Lookup) :
    (s.arriveLookup l).area = s.area := by
  unfold arriveLookup
  (repeat' split) <;> simp

@[simp] theorem arriveLookup_openCount (l : Lookup) :
    (s.arriveLookup l).openCount = s.openCount := by
  unfold arriveLookup
  (repeat' split) <;> simp

@[simp] theorem arriveLookup_pending (l : Lookup) :
    (s.arriveLookup l).pending = s.pending := by
  unfold arriveLookup
  (repeat' split) <;> simp

@[simp] theorem offerLookupFix_control (r : LiveRun) (g b : Nat) (a : BucketAccess) :
    (s.offerLookupFix r g b a).control = s.control := by
  unfold offerLookupFix
  split <;> simp

@[simp] theorem offerLookupFix_monitor (r : LiveRun) (g b : Nat) (a : BucketAccess) :
    (s.offerLookupFix r g b a).monitor = s.monitor := by
  unfold offerLookupFix
  split <;> simp

@[simp] theorem offerLookupFix_uplink (r : LiveRun) (g b : Nat) (a : BucketAccess) (v : Fin 32) : (s.offerLookupFix r g b a).uplink v = s.uplink v := by simp [uplink]

@[simp] theorem offerLookupFix_conduits (r : LiveRun) (g b : Nat) (a : BucketAccess) :
    (s.offerLookupFix r g b a).conduits = s.conduits := by
  unfold offerLookupFix
  split <;> simp

@[simp] theorem offerLookupFix_alarm (r : LiveRun) (g b : Nat) (a : BucketAccess) (cd : Fin 64) : (s.offerLookupFix r g b a).alarm cd = s.alarm cd := by simp [alarm]

@[simp] theorem offerLookupFix_groups (r : LiveRun) (g b : Nat) (a : BucketAccess) :
    (s.offerLookupFix r g b a).groups = s.groups := by
  unfold offerLookupFix
  split <;> simp

@[simp] theorem offerLookupFix_group (r : LiveRun) (g b : Nat) (a : BucketAccess) (gr : Nat) : (s.offerLookupFix r g b a).group gr = s.group gr := by simp [group]

@[simp] theorem offerLookupFix_store_memory (r : LiveRun) (g b : Nat) (a : BucketAccess) :
    (s.offerLookupFix r g b a).store.memory = s.store.memory := by
  unfold offerLookupFix
  split <;> simp

@[simp] theorem offerLookupFix_store_owners (r : LiveRun) (g b : Nat) (a : BucketAccess) :
    (s.offerLookupFix r g b a).store.owners = s.store.owners := by
  unfold offerLookupFix
  split <;> simp

@[simp] theorem offerLookupFix_store_loads (r : LiveRun) (g b : Nat) (a : BucketAccess) :
    (s.offerLookupFix r g b a).store.loads = s.store.loads := by
  unfold offerLookupFix
  split <;> simp

@[simp] theorem offerLookupFix_store_access (r : LiveRun) (g b : Nat) (a : BucketAccess) :
    (s.offerLookupFix r g b a).store.access = s.store.access := by
  unfold offerLookupFix
  split <;> simp

@[simp] theorem offerLookupFix_store_burst (r : LiveRun) (g b : Nat) (a : BucketAccess) :
    (s.offerLookupFix r g b a).store.burst = s.store.burst := by
  unfold offerLookupFix
  split <;> simp

@[simp] theorem offerLookupFix_store_snapshot (r : LiveRun) (g b : Nat) (a : BucketAccess) :
    (s.offerLookupFix r g b a).store.snapshot = s.store.snapshot := by
  unfold offerLookupFix
  split <;> simp

@[simp] theorem offerLookupFix_port (r : LiveRun) (g b : Nat) (a : BucketAccess) :
    (s.offerLookupFix r g b a).port = s.port := by
  unfold offerLookupFix
  split <;> simp

@[simp] theorem offerLookupFix_area (r : LiveRun) (g b : Nat) (a : BucketAccess) :
    (s.offerLookupFix r g b a).area = s.area := by
  unfold offerLookupFix
  split <;> simp

@[simp] theorem offerLookupFix_openCount (r : LiveRun) (g b : Nat) (a : BucketAccess) :
    (s.offerLookupFix r g b a).openCount = s.openCount := by
  unfold offerLookupFix
  split <;> simp

@[simp] theorem offerLookupFix_pending (r : LiveRun) (g b : Nat) (a : BucketAccess) :
    (s.offerLookupFix r g b a).pending = s.pending := by
  unfold offerLookupFix
  split <;> simp

@[simp] theorem resolveEscape_control (r : Resolution) :
    (s.resolveEscape r).control = s.control := by
  unfold resolveEscape
  (repeat' split) <;> simp

@[simp] theorem resolveEscape_monitor (r : Resolution) :
    (s.resolveEscape r).monitor = s.monitor := by
  unfold resolveEscape
  (repeat' split) <;> simp

@[simp] theorem resolveEscape_uplink (r : Resolution) (v : Fin 32) : (s.resolveEscape r).uplink v = s.uplink v := by simp [uplink]

@[simp] theorem resolveEscape_conduits (r : Resolution) :
    (s.resolveEscape r).conduits = s.conduits := by
  unfold resolveEscape
  (repeat' split) <;> simp

@[simp] theorem resolveEscape_alarm (r : Resolution) (cd : Fin 64) : (s.resolveEscape r).alarm cd = s.alarm cd := by simp [alarm]

@[simp] theorem resolveEscape_groups (r : Resolution) :
    (s.resolveEscape r).groups = s.groups := by
  unfold resolveEscape
  (repeat' split) <;> simp

@[simp] theorem resolveEscape_group (r : Resolution) (gr : Nat) : (s.resolveEscape r).group gr = s.group gr := by simp [group]

@[simp] theorem resolveEscape_store (r : Resolution) :
    (s.resolveEscape r).store = s.store := by
  unfold resolveEscape
  (repeat' split) <;> simp

@[simp] theorem resolveEscape_engine (r : Resolution) :
    (s.resolveEscape r).engine = s.engine := by
  unfold resolveEscape
  (repeat' split) <;> simp

@[simp] theorem resolveEscape_area (r : Resolution) :
    (s.resolveEscape r).area = s.area := by
  unfold resolveEscape
  (repeat' split) <;> simp

@[simp] theorem resolveEscape_openCount (r : Resolution) :
    (s.resolveEscape r).openCount = s.openCount := by
  unfold resolveEscape
  (repeat' split) <;> simp

@[simp] theorem resolveEscape_pending (r : Resolution) :
    (s.resolveEscape r).pending = s.pending := by
  unfold resolveEscape
  (repeat' split) <;> simp

@[simp] theorem finishRead_control (r : Resolution) (a : BucketAccess) :
    (s.finishRead r a).control = s.control := by
  unfold finishRead
  (repeat' split) <;> simp

@[simp] theorem finishRead_monitor (r : Resolution) (a : BucketAccess) :
    (s.finishRead r a).monitor = s.monitor := by
  unfold finishRead
  (repeat' split) <;> simp

@[simp] theorem finishRead_uplink (r : Resolution) (a : BucketAccess) (v : Fin 32) : (s.finishRead r a).uplink v = s.uplink v := by simp [uplink]

@[simp] theorem finishRead_conduits (r : Resolution) (a : BucketAccess) :
    (s.finishRead r a).conduits = s.conduits := by
  unfold finishRead
  (repeat' split) <;> simp

@[simp] theorem finishRead_alarm (r : Resolution) (a : BucketAccess) (cd : Fin 64) : (s.finishRead r a).alarm cd = s.alarm cd := by simp [alarm]

@[simp] theorem finishRead_groups (r : Resolution) (a : BucketAccess) :
    (s.finishRead r a).groups = s.groups := by
  unfold finishRead
  (repeat' split) <;> simp

@[simp] theorem finishRead_group (r : Resolution) (a : BucketAccess) (gr : Nat) : (s.finishRead r a).group gr = s.group gr := by simp [group]

@[simp] theorem finishRead_store_memory (r : Resolution) (a : BucketAccess) :
    (s.finishRead r a).store.memory = s.store.memory := by
  unfold finishRead
  (repeat' split) <;> simp

@[simp] theorem finishRead_store_owners (r : Resolution) (a : BucketAccess) :
    (s.finishRead r a).store.owners = s.store.owners := by
  unfold finishRead
  (repeat' split) <;> simp

@[simp] theorem finishRead_store_loads (r : Resolution) (a : BucketAccess) :
    (s.finishRead r a).store.loads = s.store.loads := by
  unfold finishRead
  (repeat' split) <;> simp

@[simp] theorem finishRead_store_access (r : Resolution) (a : BucketAccess) :
    (s.finishRead r a).store.access = s.store.access := by
  unfold finishRead
  (repeat' split) <;> simp

@[simp] theorem finishRead_store_burst (r : Resolution) (a : BucketAccess) :
    (s.finishRead r a).store.burst = s.store.burst := by
  unfold finishRead
  (repeat' split) <;> simp

@[simp] theorem finishRead_store_snapshot (r : Resolution) (a : BucketAccess) :
    (s.finishRead r a).store.snapshot = s.store.snapshot := by
  unfold finishRead
  (repeat' split) <;> simp

@[simp] theorem finishRead_area (r : Resolution) (a : BucketAccess) :
    (s.finishRead r a).area = s.area := by
  unfold finishRead
  (repeat' split) <;> simp

@[simp] theorem finishRead_openCount (r : Resolution) (a : BucketAccess) :
    (s.finishRead r a).openCount = s.openCount := by
  unfold finishRead
  (repeat' split) <;> simp

@[simp] theorem finishRead_pending (r : Resolution) (a : BucketAccess) :
    (s.finishRead r a).pending = s.pending := by
  unfold finishRead
  (repeat' split) <;> simp

@[simp] theorem finishEscape_control (r : Resolution) (a : BucketAccess) :
    (s.finishEscape r a).control = s.control := by
  unfold finishEscape
  split <;> simp

@[simp] theorem finishEscape_monitor (r : Resolution) (a : BucketAccess) :
    (s.finishEscape r a).monitor = s.monitor := by
  unfold finishEscape
  split <;> simp

@[simp] theorem finishEscape_uplink (r : Resolution) (a : BucketAccess) (v : Fin 32) : (s.finishEscape r a).uplink v = s.uplink v := by simp [uplink]

@[simp] theorem finishEscape_conduits (r : Resolution) (a : BucketAccess) :
    (s.finishEscape r a).conduits = s.conduits := by
  unfold finishEscape
  split <;> simp

@[simp] theorem finishEscape_alarm (r : Resolution) (a : BucketAccess) (cd : Fin 64) : (s.finishEscape r a).alarm cd = s.alarm cd := by simp [alarm]

@[simp] theorem finishEscape_groups (r : Resolution) (a : BucketAccess) :
    (s.finishEscape r a).groups = s.groups := by
  unfold finishEscape
  split <;> simp

@[simp] theorem finishEscape_group (r : Resolution) (a : BucketAccess) (gr : Nat) : (s.finishEscape r a).group gr = s.group gr := by simp [group]

@[simp] theorem finishEscape_store_memory (r : Resolution) (a : BucketAccess) :
    (s.finishEscape r a).store.memory = s.store.memory := by
  unfold finishEscape
  split <;> simp

@[simp] theorem finishEscape_store_owners (r : Resolution) (a : BucketAccess) :
    (s.finishEscape r a).store.owners = s.store.owners := by
  unfold finishEscape
  split <;> simp

@[simp] theorem finishEscape_store_loads (r : Resolution) (a : BucketAccess) :
    (s.finishEscape r a).store.loads = s.store.loads := by
  unfold finishEscape
  split <;> simp

@[simp] theorem finishEscape_store_access (r : Resolution) (a : BucketAccess) :
    (s.finishEscape r a).store.access = s.store.access := by
  unfold finishEscape
  split <;> simp

@[simp] theorem finishEscape_store_burst (r : Resolution) (a : BucketAccess) :
    (s.finishEscape r a).store.burst = s.store.burst := by
  unfold finishEscape
  split <;> simp

@[simp] theorem finishEscape_store_snapshot (r : Resolution) (a : BucketAccess) :
    (s.finishEscape r a).store.snapshot = s.store.snapshot := by
  unfold finishEscape
  split <;> simp

@[simp] theorem finishEscape_area (r : Resolution) (a : BucketAccess) :
    (s.finishEscape r a).area = s.area := by
  unfold finishEscape
  split <;> simp

@[simp] theorem finishEscape_openCount (r : Resolution) (a : BucketAccess) :
    (s.finishEscape r a).openCount = s.openCount := by
  unfold finishEscape
  split <;> simp

@[simp] theorem finishEscape_pending (r : Resolution) (a : BucketAccess) :
    (s.finishEscape r a).pending = s.pending := by
  unfold finishEscape
  split <;> simp

@[simp] theorem sweepOrDue_control :
    (s.sweepOrDue).control = s.control := by
  unfold sweepOrDue
  split <;> simp

@[simp] theorem sweepOrDue_monitor :
    (s.sweepOrDue).monitor = s.monitor := by
  unfold sweepOrDue
  split <;> simp

@[simp] theorem sweepOrDue_uplink (v : Fin 32) : (s.sweepOrDue).uplink v = s.uplink v := by simp [uplink]

@[simp] theorem sweepOrDue_conduits :
    (s.sweepOrDue).conduits = s.conduits := by
  unfold sweepOrDue
  split <;> simp

@[simp] theorem sweepOrDue_alarm (cd : Fin 64) : (s.sweepOrDue).alarm cd = s.alarm cd := by simp [alarm]

@[simp] theorem sweepOrDue_groups :
    (s.sweepOrDue).groups = s.groups := by
  unfold sweepOrDue
  split <;> simp

@[simp] theorem sweepOrDue_group (gr : Nat) : (s.sweepOrDue).group gr = s.group gr := by simp [group]

@[simp] theorem sweepOrDue_store :
    (s.sweepOrDue).store = s.store := by
  unfold sweepOrDue
  split <;> simp

@[simp] theorem sweepOrDue_port :
    (s.sweepOrDue).port = s.port := by
  unfold sweepOrDue
  split <;> simp

@[simp] theorem sweepOrDue_engine :
    (s.sweepOrDue).engine = s.engine := by
  unfold sweepOrDue
  split <;> simp

@[simp] theorem sweepOrDue_layout :
    (s.sweepOrDue).area.layout = s.area.layout := by
  unfold sweepOrDue
  split <;> rfl

@[simp] theorem sweepOrDue_groupRows :
    (s.sweepOrDue).area.groupRows = s.area.groupRows := by
  unfold sweepOrDue
  split <;> simp

@[simp] theorem sweepOrDue_openCount :
    (s.sweepOrDue).openCount = s.openCount := by
  unfold sweepOrDue
  split <;> simp

@[simp] theorem sweepOrDue_pending :
    (s.sweepOrDue).pending = s.pending := by
  unfold sweepOrDue
  split <;> simp

@[simp] theorem beginPage_control (r : SweepRecord) :
    (s.beginPage r).control = s.control := by
  unfold beginPage
  simp

@[simp] theorem beginPage_monitor (r : SweepRecord) :
    (s.beginPage r).monitor = s.monitor := by
  unfold beginPage
  simp

@[simp] theorem beginPage_uplink (r : SweepRecord) (v : Fin 32) : (s.beginPage r).uplink v = s.uplink v := by simp [uplink]

@[simp] theorem beginPage_conduits (r : SweepRecord) :
    (s.beginPage r).conduits = s.conduits := by
  unfold beginPage
  simp

@[simp] theorem beginPage_alarm (r : SweepRecord) (cd : Fin 64) : (s.beginPage r).alarm cd = s.alarm cd := by simp [alarm]

@[simp] theorem beginPage_groups (r : SweepRecord) :
    (s.beginPage r).groups = s.groups := by
  unfold beginPage
  simp

@[simp] theorem beginPage_group (r : SweepRecord) (gr : Nat) : (s.beginPage r).group gr = s.group gr := by simp [group]

@[simp] theorem beginPage_store (r : SweepRecord) :
    (s.beginPage r).store = s.store := by
  unfold beginPage
  simp

@[simp] theorem beginPage_port (r : SweepRecord) :
    (s.beginPage r).port = s.port := by
  unfold beginPage
  simp

@[simp] theorem beginPage_engine (r : SweepRecord) :
    (s.beginPage r).engine = s.engine := by
  unfold beginPage
  simp

@[simp] theorem beginPage_layout (r : SweepRecord) :
    (s.beginPage r).area.layout = s.area.layout := rfl

@[simp] theorem beginPage_groupRows (r : SweepRecord) :
    (s.beginPage r).area.groupRows = s.area.groupRows := by
  unfold beginPage
  simp

@[simp] theorem beginPage_openCount (r : SweepRecord) :
    (s.beginPage r).openCount = s.openCount := by
  unfold beginPage
  simp

@[simp] theorem beginPage_pending (r : SweepRecord) :
    (s.beginPage r).pending = s.pending := by
  unfold beginPage
  simp

@[simp] theorem resumeFlush_control :
    (s.resumeFlush).control = s.control := by
  unfold resumeFlush
  (repeat' split) <;> simp

@[simp] theorem resumeFlush_monitor :
    (s.resumeFlush).monitor = s.monitor := by
  unfold resumeFlush
  (repeat' split) <;> simp

@[simp] theorem resumeFlush_uplink (v : Fin 32) : (s.resumeFlush).uplink v = s.uplink v := by simp [uplink]

@[simp] theorem resumeFlush_conduits :
    (s.resumeFlush).conduits = s.conduits := by
  unfold resumeFlush
  (repeat' split) <;> simp

@[simp] theorem resumeFlush_alarm (cd : Fin 64) : (s.resumeFlush).alarm cd = s.alarm cd := by simp [alarm]

@[simp] theorem resumeFlush_groups :
    (s.resumeFlush).groups = s.groups := by
  unfold resumeFlush
  (repeat' split) <;> simp

@[simp] theorem resumeFlush_group (gr : Nat) : (s.resumeFlush).group gr = s.group gr := by simp [group]

@[simp] theorem resumeFlush_store :
    (s.resumeFlush).store = s.store := by
  unfold resumeFlush
  (repeat' split) <;> simp

@[simp] theorem resumeFlush_port :
    (s.resumeFlush).port = s.port := by
  unfold resumeFlush
  (repeat' split) <;> simp

@[simp] theorem resumeFlush_engine :
    (s.resumeFlush).engine = s.engine := by
  unfold resumeFlush
  (repeat' split) <;> simp

@[simp] theorem resumeFlush_layout :
    (s.resumeFlush).area.layout = s.area.layout := by
  unfold resumeFlush
  (repeat' split) <;> simp

@[simp] theorem resumeFlush_groupRows :
    (s.resumeFlush).area.groupRows = s.area.groupRows := by
  unfold resumeFlush
  (repeat' split) <;> simp

@[simp] theorem resumeFlush_openCount :
    (s.resumeFlush).openCount = s.openCount := by
  unfold resumeFlush
  (repeat' split) <;> simp

@[simp] theorem resumeFlush_pending :
    (s.resumeFlush).pending = s.pending := by
  unfold resumeFlush
  (repeat' split) <;> simp

@[simp] theorem beginFlush_control :
    (s.beginFlush).control = s.control := by
  unfold beginFlush
  simp

@[simp] theorem beginFlush_monitor :
    (s.beginFlush).monitor = s.monitor := by
  unfold beginFlush
  simp

@[simp] theorem beginFlush_uplink (v : Fin 32) : (s.beginFlush).uplink v = s.uplink v := by simp [uplink]

@[simp] theorem beginFlush_conduits :
    (s.beginFlush).conduits = s.conduits := by
  unfold beginFlush
  simp

@[simp] theorem beginFlush_alarm (cd : Fin 64) : (s.beginFlush).alarm cd = s.alarm cd := by simp [alarm]

@[simp] theorem beginFlush_groups :
    (s.beginFlush).groups = s.groups := by
  unfold beginFlush
  simp

@[simp] theorem beginFlush_group (gr : Nat) : (s.beginFlush).group gr = s.group gr := by simp [group]

@[simp] theorem beginFlush_store :
    (s.beginFlush).store = s.store := by
  unfold beginFlush
  simp

@[simp] theorem beginFlush_port :
    (s.beginFlush).port = s.port := by
  unfold beginFlush
  simp

@[simp] theorem beginFlush_engine :
    (s.beginFlush).engine = s.engine := by
  unfold beginFlush
  simp

@[simp] theorem beginFlush_layout :
    (s.beginFlush).area.layout = s.area.layout := by
  unfold beginFlush
  (repeat' split) <;> first | (simp; done) | rfl | (simp <;> rfl)

@[simp] theorem beginFlush_groupRows :
    (s.beginFlush).area.groupRows = s.area.groupRows := by
  unfold beginFlush
  simp

@[simp] theorem beginFlush_openCount :
    (s.beginFlush).openCount = s.openCount := by
  unfold beginFlush
  simp

@[simp] theorem beginFlush_pending :
    (s.beginFlush).pending = s.pending := by
  unfold beginFlush
  simp

@[simp] theorem afterSlot_control (k : Fin 16) :
    (s.afterSlot k).control = s.control := by
  unfold afterSlot
  (repeat' split) <;> simp

@[simp] theorem afterSlot_monitor (k : Fin 16) :
    (s.afterSlot k).monitor = s.monitor := by
  unfold afterSlot
  (repeat' split) <;> simp

@[simp] theorem afterSlot_uplink (k : Fin 16) (v : Fin 32) : (s.afterSlot k).uplink v = s.uplink v := by simp [uplink]

@[simp] theorem afterSlot_conduits (k : Fin 16) :
    (s.afterSlot k).conduits = s.conduits := by
  unfold afterSlot
  (repeat' split) <;> simp

@[simp] theorem afterSlot_alarm (k : Fin 16) (cd : Fin 64) : (s.afterSlot k).alarm cd = s.alarm cd := by simp [alarm]

@[simp] theorem afterSlot_groups (k : Fin 16) :
    (s.afterSlot k).groups = s.groups := by
  unfold afterSlot
  (repeat' split) <;> simp

@[simp] theorem afterSlot_group (k : Fin 16) (gr : Nat) : (s.afterSlot k).group gr = s.group gr := by simp [group]

@[simp] theorem afterSlot_store (k : Fin 16) :
    (s.afterSlot k).store = s.store := by
  unfold afterSlot
  (repeat' split) <;> simp

@[simp] theorem afterSlot_port (k : Fin 16) :
    (s.afterSlot k).port = s.port := by
  unfold afterSlot
  (repeat' split) <;> simp

@[simp] theorem afterSlot_engine (k : Fin 16) :
    (s.afterSlot k).engine = s.engine := by
  unfold afterSlot
  (repeat' split) <;> simp

@[simp] theorem afterSlot_layout (k : Fin 16) :
    (s.afterSlot k).area.layout = s.area.layout := by
  unfold afterSlot
  (repeat' split) <;> simp

@[simp] theorem afterSlot_groupRows (k : Fin 16) :
    (s.afterSlot k).area.groupRows = s.area.groupRows := by
  unfold afterSlot
  (repeat' split) <;> simp

@[simp] theorem afterSlot_openCount (k : Fin 16) :
    (s.afterSlot k).openCount = s.openCount := by
  unfold afterSlot
  (repeat' split) <;> simp

@[simp] theorem afterSlot_pending (k : Fin 16) :
    (s.afterSlot k).pending = s.pending := by
  unfold afterSlot
  (repeat' split) <;> simp

@[simp] theorem afterRow_control (r : RowId) :
    (s.afterRow r).control = s.control := by
  unfold afterRow
  (repeat' split) <;> simp

@[simp] theorem afterRow_monitor (r : RowId) :
    (s.afterRow r).monitor = s.monitor := by
  unfold afterRow
  (repeat' split) <;> simp

@[simp] theorem afterRow_uplink (r : RowId) (v : Fin 32) : (s.afterRow r).uplink v = s.uplink v := by simp [uplink]

@[simp] theorem afterRow_conduits (r : RowId) :
    (s.afterRow r).conduits = s.conduits := by
  unfold afterRow
  (repeat' split) <;> simp

@[simp] theorem afterRow_alarm (r : RowId) (cd : Fin 64) : (s.afterRow r).alarm cd = s.alarm cd := by simp [alarm]

@[simp] theorem afterRow_groups (r : RowId) :
    (s.afterRow r).groups = s.groups := by
  unfold afterRow
  (repeat' split) <;> simp

@[simp] theorem afterRow_group (r : RowId) (gr : Nat) : (s.afterRow r).group gr = s.group gr := by simp [group]

@[simp] theorem afterRow_store (r : RowId) :
    (s.afterRow r).store = s.store := by
  unfold afterRow
  (repeat' split) <;> simp

@[simp] theorem afterRow_port (r : RowId) :
    (s.afterRow r).port = s.port := by
  unfold afterRow
  (repeat' split) <;> simp

@[simp] theorem afterRow_engine (r : RowId) :
    (s.afterRow r).engine = s.engine := by
  unfold afterRow
  (repeat' split) <;> simp

@[simp] theorem afterRow_layout (r : RowId) :
    (s.afterRow r).area.layout = s.area.layout := by
  unfold afterRow
  (repeat' split) <;> simp

@[simp] theorem afterRow_groupRows (r : RowId) :
    (s.afterRow r).area.groupRows = s.area.groupRows := by
  unfold afterRow
  (repeat' split) <;> simp

@[simp] theorem afterRow_openCount (r : RowId) :
    (s.afterRow r).openCount = s.openCount := by
  unfold afterRow
  (repeat' split) <;> simp

@[simp] theorem afterRow_pending (r : RowId) :
    (s.afterRow r).pending = s.pending := by
  unfold afterRow
  (repeat' split) <;> simp

@[simp] theorem setRowMemory_control (r : RowId) (m : RowMemory) :
    (s.setRowMemory r m).control = s.control := by
  unfold setRowMemory
  split <;> simp

@[simp] theorem setRowMemory_monitor (r : RowId) (m : RowMemory) :
    (s.setRowMemory r m).monitor = s.monitor := by
  unfold setRowMemory
  split <;> simp

@[simp] theorem setRowMemory_uplink (r : RowId) (m : RowMemory) (v : Fin 32) : (s.setRowMemory r m).uplink v = s.uplink v := by simp [uplink]

@[simp] theorem setRowMemory_conduits (r : RowId) (m : RowMemory) :
    (s.setRowMemory r m).conduits = s.conduits := by
  unfold setRowMemory
  split <;> simp

@[simp] theorem setRowMemory_alarm (r : RowId) (m : RowMemory) (cd : Fin 64) : (s.setRowMemory r m).alarm cd = s.alarm cd := by simp [alarm]

@[simp] theorem setRowMemory_groups (r : RowId) (m : RowMemory) :
    (s.setRowMemory r m).groups = s.groups := by
  unfold setRowMemory
  split <;> simp

@[simp] theorem setRowMemory_group (r : RowId) (m : RowMemory) (gr : Nat) : (s.setRowMemory r m).group gr = s.group gr := by simp [group]

@[simp] theorem setRowMemory_store (r : RowId) (m : RowMemory) :
    (s.setRowMemory r m).store = s.store := by
  unfold setRowMemory
  split <;> simp

@[simp] theorem setRowMemory_port (r : RowId) (m : RowMemory) :
    (s.setRowMemory r m).port = s.port := by
  unfold setRowMemory
  split <;> simp

@[simp] theorem setRowMemory_engine (r : RowId) (m : RowMemory) :
    (s.setRowMemory r m).engine = s.engine := by
  unfold setRowMemory
  split <;> simp

@[simp] theorem setRowMemory_layout (r : RowId) (m : RowMemory) :
    (s.setRowMemory r m).area.layout = s.area.layout := by
  unfold setRowMemory
  split <;> rfl

@[simp] theorem setRowMemory_openCount (r : RowId) (m : RowMemory) :
    (s.setRowMemory r m).openCount = s.openCount := by
  unfold setRowMemory
  split <;> simp

@[simp] theorem setRowMemory_pending (r : RowId) (m : RowMemory) :
    (s.setRowMemory r m).pending = s.pending := by
  unfold setRowMemory
  split <;> simp

@[simp] theorem tornRow_settings (r : RowId) (h t : Generation) :
    (s.tornRow r h t).control.settings = s.control.settings := by
  unfold tornRow
  dsimp only
  (repeat' split) <;> simp

@[simp] theorem tornRow_now (r : RowId) (h t : Generation) : (s.tornRow r h t).control.now = s.control.now :=
  now_of_settings (by simp)

@[simp] theorem tornRow_runState (r : RowId) (h t : Generation) : (s.tornRow r h t).control.runState = s.control.runState :=
  runState_of_settings (by simp)

@[simp] theorem tornRow_monitor (r : RowId) (h t : Generation) :
    (s.tornRow r h t).monitor = s.monitor := by
  unfold tornRow
  dsimp only
  (repeat' split) <;> simp

@[simp] theorem tornRow_uplink (r : RowId) (h t : Generation) (v : Fin 32) : (s.tornRow r h t).uplink v = s.uplink v := by simp [uplink]

@[simp] theorem tornRow_conduits (r : RowId) (h t : Generation) :
    (s.tornRow r h t).conduits = s.conduits := by
  unfold tornRow
  dsimp only
  (repeat' split) <;> simp

@[simp] theorem tornRow_alarm (r : RowId) (h t : Generation) (cd : Fin 64) : (s.tornRow r h t).alarm cd = s.alarm cd := by simp [alarm]

@[simp] theorem tornRow_groups (r : RowId) (h t : Generation) :
    (s.tornRow r h t).groups = s.groups := by
  unfold tornRow
  dsimp only
  (repeat' split) <;> simp

@[simp] theorem tornRow_group (r : RowId) (h t : Generation) (gr : Nat) : (s.tornRow r h t).group gr = s.group gr := by simp [group]

@[simp] theorem tornRow_store (r : RowId) (h t : Generation) :
    (s.tornRow r h t).store = s.store := by
  unfold tornRow
  dsimp only
  (repeat' split) <;> simp

@[simp] theorem tornRow_port (r : RowId) (h t : Generation) :
    (s.tornRow r h t).port = s.port := by
  unfold tornRow
  dsimp only
  (repeat' split) <;> simp

@[simp] theorem tornRow_engine (r : RowId) (h t : Generation) :
    (s.tornRow r h t).engine = s.engine := by
  unfold tornRow
  dsimp only
  (repeat' split) <;> simp

@[simp] theorem tornRow_layout (r : RowId) (h t : Generation) :
    (s.tornRow r h t).area.layout = s.area.layout := by
  unfold tornRow
  dsimp only
  (repeat' split) <;> simp

@[simp] theorem tornRow_openCount (r : RowId) (h t : Generation) :
    (s.tornRow r h t).openCount = s.openCount := by
  unfold tornRow
  dsimp only
  (repeat' split) <;> simp

@[simp] theorem tornRow_pending (r : RowId) (h t : Generation) :
    (s.tornRow r h t).pending = s.pending := by
  unfold tornRow
  dsimp only
  (repeat' split) <;> simp

@[simp] theorem rejectRow_settings (r : RowId) (g : Generation) (w : Rejection) :
    (s.rejectRow r g w).control.settings = s.control.settings := by
  unfold rejectRow
  simp

@[simp] theorem rejectRow_now (r : RowId) (g : Generation) (w : Rejection) : (s.rejectRow r g w).control.now = s.control.now :=
  now_of_settings (by simp)

@[simp] theorem rejectRow_runState (r : RowId) (g : Generation) (w : Rejection) : (s.rejectRow r g w).control.runState = s.control.runState :=
  runState_of_settings (by simp)

@[simp] theorem rejectRow_monitor (r : RowId) (g : Generation) (w : Rejection) :
    (s.rejectRow r g w).monitor = s.monitor := by
  unfold rejectRow
  simp

@[simp] theorem rejectRow_uplink (r : RowId) (g : Generation) (w : Rejection) (v : Fin 32) : (s.rejectRow r g w).uplink v = s.uplink v := by simp [uplink]

@[simp] theorem rejectRow_conduits (r : RowId) (g : Generation) (w : Rejection) :
    (s.rejectRow r g w).conduits = s.conduits := by
  unfold rejectRow
  simp

@[simp] theorem rejectRow_alarm (r : RowId) (g : Generation) (w : Rejection) (cd : Fin 64) : (s.rejectRow r g w).alarm cd = s.alarm cd := by simp [alarm]

@[simp] theorem rejectRow_groups (r : RowId) (g : Generation) (w : Rejection) :
    (s.rejectRow r g w).groups = s.groups := by
  unfold rejectRow
  simp

@[simp] theorem rejectRow_group (r : RowId) (g : Generation) (w : Rejection) (gr : Nat) : (s.rejectRow r g w).group gr = s.group gr := by simp [group]

@[simp] theorem rejectRow_store (r : RowId) (g : Generation) (w : Rejection) :
    (s.rejectRow r g w).store = s.store := by
  unfold rejectRow
  simp

@[simp] theorem rejectRow_port (r : RowId) (g : Generation) (w : Rejection) :
    (s.rejectRow r g w).port = s.port := by
  unfold rejectRow
  simp

@[simp] theorem rejectRow_engine (r : RowId) (g : Generation) (w : Rejection) :
    (s.rejectRow r g w).engine = s.engine := by
  unfold rejectRow
  simp

@[simp] theorem rejectRow_layout (r : RowId) (g : Generation) (w : Rejection) :
    (s.rejectRow r g w).area.layout = s.area.layout := by
  unfold rejectRow
  simp

@[simp] theorem rejectRow_openCount (r : RowId) (g : Generation) (w : Rejection) :
    (s.rejectRow r g w).openCount = s.openCount := by
  unfold rejectRow
  simp

@[simp] theorem rejectRow_pending (r : RowId) (g : Generation) (w : Rejection) :
    (s.rejectRow r g w).pending = s.pending := by
  unfold rejectRow
  simp

@[simp] theorem countHandOver_control (r : RowId) :
    (s.countHandOver r).control = s.control := by
  unfold countHandOver
  simp

@[simp] theorem countHandOver_monitor (r : RowId) :
    (s.countHandOver r).monitor = s.monitor := by
  unfold countHandOver
  simp

@[simp] theorem countHandOver_uplink (r : RowId) (v : Fin 32) : (s.countHandOver r).uplink v = s.uplink v := by simp [uplink]

@[simp] theorem countHandOver_conduits (r : RowId) :
    (s.countHandOver r).conduits = s.conduits := by
  unfold countHandOver
  simp

@[simp] theorem countHandOver_alarm (r : RowId) (cd : Fin 64) : (s.countHandOver r).alarm cd = s.alarm cd := by simp [alarm]

@[simp] theorem countHandOver_groups (r : RowId) :
    (s.countHandOver r).groups = s.groups := by
  unfold countHandOver
  simp

@[simp] theorem countHandOver_group (r : RowId) (gr : Nat) : (s.countHandOver r).group gr = s.group gr := by simp [group]

@[simp] theorem countHandOver_store (r : RowId) :
    (s.countHandOver r).store = s.store := by
  unfold countHandOver
  simp

@[simp] theorem countHandOver_port (r : RowId) :
    (s.countHandOver r).port = s.port := by
  unfold countHandOver
  simp

@[simp] theorem countHandOver_engine (r : RowId) :
    (s.countHandOver r).engine = s.engine := by
  unfold countHandOver
  simp

@[simp] theorem countHandOver_layout (r : RowId) :
    (s.countHandOver r).area.layout = s.area.layout := by
  unfold countHandOver
  simp

@[simp] theorem countHandOver_openCount (r : RowId) :
    (s.countHandOver r).openCount = s.openCount := by
  unfold countHandOver
  simp

@[simp] theorem countHandOver_pending (r : RowId) :
    (s.countHandOver r).pending = s.pending := by
  unfold countHandOver
  simp

@[simp] theorem countRoomReject_control (r : RowId) (g : Generation) :
    (s.countRoomReject r g).control = s.control := by
  unfold countRoomReject
  simp

@[simp] theorem countRoomReject_monitor (r : RowId) (g : Generation) :
    (s.countRoomReject r g).monitor = s.monitor := by
  unfold countRoomReject
  simp

@[simp] theorem countRoomReject_uplink (r : RowId) (g : Generation) (v : Fin 32) : (s.countRoomReject r g).uplink v = s.uplink v := by simp [uplink]

@[simp] theorem countRoomReject_conduits (r : RowId) (g : Generation) :
    (s.countRoomReject r g).conduits = s.conduits := by
  unfold countRoomReject
  simp

@[simp] theorem countRoomReject_alarm (r : RowId) (g : Generation) (cd : Fin 64) : (s.countRoomReject r g).alarm cd = s.alarm cd := by simp [alarm]

@[simp] theorem countRoomReject_groups (r : RowId) (g : Generation) :
    (s.countRoomReject r g).groups = s.groups := by
  unfold countRoomReject
  simp

@[simp] theorem countRoomReject_group (r : RowId) (g : Generation) (gr : Nat) : (s.countRoomReject r g).group gr = s.group gr := by simp [group]

@[simp] theorem countRoomReject_store (r : RowId) (g : Generation) :
    (s.countRoomReject r g).store = s.store := by
  unfold countRoomReject
  simp

@[simp] theorem countRoomReject_port (r : RowId) (g : Generation) :
    (s.countRoomReject r g).port = s.port := by
  unfold countRoomReject
  simp

@[simp] theorem countRoomReject_engine (r : RowId) (g : Generation) :
    (s.countRoomReject r g).engine = s.engine := by
  unfold countRoomReject
  simp

@[simp] theorem countRoomReject_layout (r : RowId) (g : Generation) :
    (s.countRoomReject r g).area.layout = s.area.layout := by
  unfold countRoomReject
  simp

@[simp] theorem countRoomReject_openCount (r : RowId) (g : Generation) :
    (s.countRoomReject r g).openCount = s.openCount := by
  unfold countRoomReject
  simp

@[simp] theorem countRoomReject_pending (r : RowId) (g : Generation) :
    (s.countRoomReject r g).pending = s.pending := by
  unfold countRoomReject
  simp

@[simp] theorem checkRow_settings (r : RowId) (g : Generation) (b : List Byte) :
    (s.checkRow r g b).control.settings = s.control.settings := by
  unfold checkRow
  (repeat' split) <;> first | (simp; done) | rfl | (simp <;> rfl) | (rename_i h; cases (congrArg Prod.fst h); simp)

@[simp] theorem checkRow_now (r : RowId) (g : Generation) (b : List Byte) : (s.checkRow r g b).control.now = s.control.now :=
  now_of_settings (by simp)

@[simp] theorem checkRow_runState (r : RowId) (g : Generation) (b : List Byte) : (s.checkRow r g b).control.runState = s.control.runState :=
  runState_of_settings (by simp)

@[simp] theorem checkRow_lines (r : RowId) (g : Generation) (b : List Byte) :
    (s.checkRow r g b).monitor.lines = s.monitor.lines := by
  unfold checkRow
  (repeat' split) <;> first | (simp; done) | rfl | (simp <;> rfl) | (rename_i h; cases (congrArg Prod.fst h); simp)

@[simp] theorem checkRow_store_memory (r : RowId) (g : Generation) (b : List Byte) :
    (s.checkRow r g b).store.memory = s.store.memory := by
  unfold checkRow
  (repeat' split) <;> first | (simp; done) | rfl | (simp <;> rfl) | (rename_i h; cases (congrArg Prod.fst h); simp)

@[simp] theorem checkRow_store_fixQueue (r : RowId) (g : Generation) (b : List Byte) :
    (s.checkRow r g b).store.fixQueue = s.store.fixQueue := by
  unfold checkRow
  (repeat' split) <;> first | (simp; done) | rfl | (simp <;> rfl) | (rename_i h; cases (congrArg Prod.fst h); simp)

@[simp] theorem checkRow_store_burst (r : RowId) (g : Generation) (b : List Byte) :
    (s.checkRow r g b).store.burst = s.store.burst := by
  unfold checkRow
  (repeat' split) <;> first | (simp; done) | rfl | (simp <;> rfl) | (rename_i h; cases (congrArg Prod.fst h); simp)

@[simp] theorem checkRow_layout (r : RowId) (g : Generation) (b : List Byte) :
    (s.checkRow r g b).area.layout = s.area.layout := by
  unfold checkRow
  (repeat' split) <;> first | (simp; done) | rfl | (simp <;> rfl) | (rename_i h; cases (congrArg Prod.fst h); simp)

@[simp] theorem checkRow_openCount (r : RowId) (g : Generation) (b : List Byte) :
    (s.checkRow r g b).openCount = s.openCount := by
  unfold checkRow
  (repeat' split) <;> first | (simp; done) | rfl | (simp <;> rfl) | (rename_i h; cases (congrArg Prod.fst h); simp)

@[simp] theorem checkRow_pending (r : RowId) (g : Generation) (b : List Byte) :
    (s.checkRow r g b).pending = s.pending := by
  unfold checkRow
  (repeat' split) <;> first | (simp; done) | rfl | (simp <;> rfl) | (rename_i h; cases (congrArg Prod.fst h); simp)

@[simp] theorem changedRow_settings (r : RowId) (g : Generation) (b : List Byte) :
    (s.changedRow r g b).control.settings = s.control.settings := by
  unfold changedRow
  dsimp only
  (repeat' split) <;> simp

@[simp] theorem changedRow_now (r : RowId) (g : Generation) (b : List Byte) : (s.changedRow r g b).control.now = s.control.now :=
  now_of_settings (by simp)

@[simp] theorem changedRow_runState (r : RowId) (g : Generation) (b : List Byte) : (s.changedRow r g b).control.runState = s.control.runState :=
  runState_of_settings (by simp)

@[simp] theorem changedRow_lines (r : RowId) (g : Generation) (b : List Byte) :
    (s.changedRow r g b).monitor.lines = s.monitor.lines := by
  unfold changedRow
  dsimp only
  (repeat' split) <;> simp

@[simp] theorem changedRow_store_memory (r : RowId) (g : Generation) (b : List Byte) :
    (s.changedRow r g b).store.memory = s.store.memory := by
  unfold changedRow
  dsimp only
  (repeat' split) <;> simp

@[simp] theorem changedRow_store_fixQueue (r : RowId) (g : Generation) (b : List Byte) :
    (s.changedRow r g b).store.fixQueue = s.store.fixQueue := by
  unfold changedRow
  dsimp only
  (repeat' split) <;> simp

@[simp] theorem changedRow_store_burst (r : RowId) (g : Generation) (b : List Byte) :
    (s.changedRow r g b).store.burst = s.store.burst := by
  unfold changedRow
  dsimp only
  (repeat' split) <;> simp

@[simp] theorem changedRow_layout (r : RowId) (g : Generation) (b : List Byte) :
    (s.changedRow r g b).area.layout = s.area.layout := by
  unfold changedRow
  dsimp only
  (repeat' split) <;> simp

@[simp] theorem changedRow_openCount (r : RowId) (g : Generation) (b : List Byte) :
    (s.changedRow r g b).openCount = s.openCount := by
  unfold changedRow
  dsimp only
  (repeat' split) <;> simp

@[simp] theorem changedRow_pending (r : RowId) (g : Generation) (b : List Byte) :
    (s.changedRow r g b).pending = s.pending := by
  unfold changedRow
  dsimp only
  (repeat' split) <;> simp

@[simp] theorem treatRow_settings (r : RowId) (b : List Byte) :
    (s.treatRow r b).control.settings = s.control.settings := by
  unfold treatRow
  dsimp only
  (repeat' split) <;> simp

@[simp] theorem treatRow_now (r : RowId) (b : List Byte) : (s.treatRow r b).control.now = s.control.now :=
  now_of_settings (by simp)

@[simp] theorem treatRow_runState (r : RowId) (b : List Byte) : (s.treatRow r b).control.runState = s.control.runState :=
  runState_of_settings (by simp)

@[simp] theorem treatRow_lines (r : RowId) (b : List Byte) :
    (s.treatRow r b).monitor.lines = s.monitor.lines := by
  unfold treatRow
  dsimp only
  (repeat' split) <;> simp

@[simp] theorem treatRow_store_memory (r : RowId) (b : List Byte) :
    (s.treatRow r b).store.memory = s.store.memory := by
  unfold treatRow
  dsimp only
  (repeat' split) <;> simp

@[simp] theorem treatRow_store_fixQueue (r : RowId) (b : List Byte) :
    (s.treatRow r b).store.fixQueue = s.store.fixQueue := by
  unfold treatRow
  dsimp only
  (repeat' split) <;> simp

@[simp] theorem treatRow_store_burst (r : RowId) (b : List Byte) :
    (s.treatRow r b).store.burst = s.store.burst := by
  unfold treatRow
  dsimp only
  (repeat' split) <;> simp

@[simp] theorem treatRow_layout (r : RowId) (b : List Byte) :
    (s.treatRow r b).area.layout = s.area.layout := by
  unfold treatRow
  dsimp only
  (repeat' split) <;> simp

@[simp] theorem treatRow_openCount (r : RowId) (b : List Byte) :
    (s.treatRow r b).openCount = s.openCount := by
  unfold treatRow
  dsimp only
  (repeat' split) <;> simp

@[simp] theorem treatRow_pending (r : RowId) (b : List Byte) :
    (s.treatRow r b).pending = s.pending := by
  unfold treatRow
  dsimp only
  (repeat' split) <;> simp

@[simp] theorem takeOrder_control (o : OrderInHand) :
    (s.takeOrder o).control = s.control := by
  unfold takeOrder
  simp

@[simp] theorem takeOrder_monitor (o : OrderInHand) :
    (s.takeOrder o).monitor = s.monitor := by
  unfold takeOrder
  simp

@[simp] theorem takeOrder_uplink (o : OrderInHand) (v : Fin 32) : (s.takeOrder o).uplink v = s.uplink v := by simp [uplink]

@[simp] theorem takeOrder_conduits (o : OrderInHand) :
    (s.takeOrder o).conduits = s.conduits := by
  unfold takeOrder
  simp

@[simp] theorem takeOrder_alarm (o : OrderInHand) (cd : Fin 64) : (s.takeOrder o).alarm cd = s.alarm cd := by simp [alarm]

@[simp] theorem takeOrder_groups (o : OrderInHand) :
    (s.takeOrder o).groups = s.groups := by
  unfold takeOrder
  simp

@[simp] theorem takeOrder_group (o : OrderInHand) (gr : Nat) : (s.takeOrder o).group gr = s.group gr := by simp [group]

@[simp] theorem takeOrder_store (o : OrderInHand) :
    (s.takeOrder o).store = s.store := by
  unfold takeOrder
  simp

@[simp] theorem takeOrder_port (o : OrderInHand) :
    (s.takeOrder o).port = s.port := by
  unfold takeOrder
  simp

@[simp] theorem takeOrder_engine (o : OrderInHand) :
    (s.takeOrder o).engine = s.engine := by
  unfold takeOrder
  simp

@[simp] theorem takeOrder_layout (o : OrderInHand) :
    (s.takeOrder o).area.layout = s.area.layout := rfl

@[simp] theorem takeOrder_groupRows (o : OrderInHand) :
    (s.takeOrder o).area.groupRows = s.area.groupRows := by
  unfold takeOrder
  simp

@[simp] theorem takeOrder_openCount (o : OrderInHand) :
    (s.takeOrder o).openCount = s.openCount := by
  unfold takeOrder
  simp

@[simp] theorem takeOrder_pending (o : OrderInHand) :
    (s.takeOrder o).pending = s.pending := by
  unfold takeOrder
  simp

@[simp] theorem awaitSlot_control (k : Fin 16) :
    (s.awaitSlot k).control = s.control := by
  unfold awaitSlot
  split <;> simp

@[simp] theorem awaitSlot_monitor (k : Fin 16) :
    (s.awaitSlot k).monitor = s.monitor := by
  unfold awaitSlot
  split <;> simp

@[simp] theorem awaitSlot_uplink (k : Fin 16) (v : Fin 32) : (s.awaitSlot k).uplink v = s.uplink v := by simp [uplink]

@[simp] theorem awaitSlot_conduits (k : Fin 16) :
    (s.awaitSlot k).conduits = s.conduits := by
  unfold awaitSlot
  split <;> simp

@[simp] theorem awaitSlot_alarm (k : Fin 16) (cd : Fin 64) : (s.awaitSlot k).alarm cd = s.alarm cd := by simp [alarm]

@[simp] theorem awaitSlot_groups (k : Fin 16) :
    (s.awaitSlot k).groups = s.groups := by
  unfold awaitSlot
  split <;> simp

@[simp] theorem awaitSlot_group (k : Fin 16) (gr : Nat) : (s.awaitSlot k).group gr = s.group gr := by simp [group]

@[simp] theorem awaitSlot_store (k : Fin 16) :
    (s.awaitSlot k).store = s.store := by
  unfold awaitSlot
  split <;> simp

@[simp] theorem awaitSlot_port (k : Fin 16) :
    (s.awaitSlot k).port = s.port := by
  unfold awaitSlot
  split <;> simp

@[simp] theorem awaitSlot_engine (k : Fin 16) :
    (s.awaitSlot k).engine = s.engine := by
  unfold awaitSlot
  split <;> simp

@[simp] theorem awaitSlot_layout (k : Fin 16) :
    (s.awaitSlot k).area.layout = s.area.layout := by
  unfold awaitSlot
  split <;> simp

@[simp] theorem awaitSlot_groupRows (k : Fin 16) :
    (s.awaitSlot k).area.groupRows = s.area.groupRows := by
  unfold awaitSlot
  split <;> simp

@[simp] theorem awaitSlot_openCount (k : Fin 16) :
    (s.awaitSlot k).openCount = s.openCount := by
  unfold awaitSlot
  split <;> simp

@[simp] theorem awaitSlot_pending (k : Fin 16) :
    (s.awaitSlot k).pending = s.pending := by
  unfold awaitSlot
  split <;> simp

@[simp] theorem postedSlot_settings (k : Fin 16) (b : List Byte) :
    (s.postedSlot k b).control.settings = s.control.settings := by
  unfold postedSlot
  (repeat' split) <;> simp

@[simp] theorem postedSlot_now (k : Fin 16) (b : List Byte) : (s.postedSlot k b).control.now = s.control.now :=
  now_of_settings (by simp)

@[simp] theorem postedSlot_runState (k : Fin 16) (b : List Byte) : (s.postedSlot k b).control.runState = s.control.runState :=
  runState_of_settings (by simp)

@[simp] theorem postedSlot_monitor (k : Fin 16) (b : List Byte) :
    (s.postedSlot k b).monitor = s.monitor := by
  unfold postedSlot
  (repeat' split) <;> simp

@[simp] theorem postedSlot_uplink (k : Fin 16) (b : List Byte) (v : Fin 32) : (s.postedSlot k b).uplink v = s.uplink v := by simp [uplink]

@[simp] theorem postedSlot_conduits (k : Fin 16) (b : List Byte) :
    (s.postedSlot k b).conduits = s.conduits := by
  unfold postedSlot
  (repeat' split) <;> simp

@[simp] theorem postedSlot_alarm (k : Fin 16) (b : List Byte) (cd : Fin 64) : (s.postedSlot k b).alarm cd = s.alarm cd := by simp [alarm]

@[simp] theorem postedSlot_groups (k : Fin 16) (b : List Byte) :
    (s.postedSlot k b).groups = s.groups := by
  unfold postedSlot
  (repeat' split) <;> simp

@[simp] theorem postedSlot_group (k : Fin 16) (b : List Byte) (gr : Nat) : (s.postedSlot k b).group gr = s.group gr := by simp [group]

@[simp] theorem postedSlot_store (k : Fin 16) (b : List Byte) :
    (s.postedSlot k b).store = s.store := by
  unfold postedSlot
  (repeat' split) <;> simp

@[simp] theorem postedSlot_port (k : Fin 16) (b : List Byte) :
    (s.postedSlot k b).port = s.port := by
  unfold postedSlot
  (repeat' split) <;> simp

@[simp] theorem postedSlot_engine (k : Fin 16) (b : List Byte) :
    (s.postedSlot k b).engine = s.engine := by
  unfold postedSlot
  (repeat' split) <;> simp

@[simp] theorem postedSlot_layout (k : Fin 16) (b : List Byte) :
    (s.postedSlot k b).area.layout = s.area.layout := by
  unfold postedSlot
  (repeat' split) <;> simp

@[simp] theorem postedSlot_groupRows (k : Fin 16) (b : List Byte) :
    (s.postedSlot k b).area.groupRows = s.area.groupRows := by
  unfold postedSlot
  (repeat' split) <;> simp

@[simp] theorem postedSlot_openCount (k : Fin 16) (b : List Byte) :
    (s.postedSlot k b).openCount = s.openCount := by
  unfold postedSlot
  (repeat' split) <;> simp

@[simp] theorem postedSlot_pending (k : Fin 16) (b : List Byte) :
    (s.postedSlot k b).pending = s.pending := by
  unfold postedSlot
  (repeat' split) <;> simp

@[simp] theorem treatSlot_settings (k : Fin 16) (b : List Byte) :
    (s.treatSlot k b).control.settings = s.control.settings := by
  unfold treatSlot
  split <;> simp

@[simp] theorem treatSlot_now (k : Fin 16) (b : List Byte) : (s.treatSlot k b).control.now = s.control.now :=
  now_of_settings (by simp)

@[simp] theorem treatSlot_runState (k : Fin 16) (b : List Byte) : (s.treatSlot k b).control.runState = s.control.runState :=
  runState_of_settings (by simp)

@[simp] theorem treatSlot_monitor (k : Fin 16) (b : List Byte) :
    (s.treatSlot k b).monitor = s.monitor := by
  unfold treatSlot
  split <;> simp

@[simp] theorem treatSlot_uplink (k : Fin 16) (b : List Byte) (v : Fin 32) : (s.treatSlot k b).uplink v = s.uplink v := by simp [uplink]

@[simp] theorem treatSlot_conduits (k : Fin 16) (b : List Byte) :
    (s.treatSlot k b).conduits = s.conduits := by
  unfold treatSlot
  split <;> simp

@[simp] theorem treatSlot_alarm (k : Fin 16) (b : List Byte) (cd : Fin 64) : (s.treatSlot k b).alarm cd = s.alarm cd := by simp [alarm]

@[simp] theorem treatSlot_groups (k : Fin 16) (b : List Byte) :
    (s.treatSlot k b).groups = s.groups := by
  unfold treatSlot
  split <;> simp

@[simp] theorem treatSlot_group (k : Fin 16) (b : List Byte) (gr : Nat) : (s.treatSlot k b).group gr = s.group gr := by simp [group]

@[simp] theorem treatSlot_store (k : Fin 16) (b : List Byte) :
    (s.treatSlot k b).store = s.store := by
  unfold treatSlot
  split <;> simp

@[simp] theorem treatSlot_port (k : Fin 16) (b : List Byte) :
    (s.treatSlot k b).port = s.port := by
  unfold treatSlot
  split <;> simp

@[simp] theorem treatSlot_engine (k : Fin 16) (b : List Byte) :
    (s.treatSlot k b).engine = s.engine := by
  unfold treatSlot
  split <;> simp

@[simp] theorem treatSlot_layout (k : Fin 16) (b : List Byte) :
    (s.treatSlot k b).area.layout = s.area.layout := by
  unfold treatSlot
  split <;> simp

@[simp] theorem treatSlot_groupRows (k : Fin 16) (b : List Byte) :
    (s.treatSlot k b).area.groupRows = s.area.groupRows := by
  unfold treatSlot
  split <;> simp

@[simp] theorem treatSlot_openCount (k : Fin 16) (b : List Byte) :
    (s.treatSlot k b).openCount = s.openCount := by
  unfold treatSlot
  split <;> simp

@[simp] theorem treatSlot_pending (k : Fin 16) (b : List Byte) :
    (s.treatSlot k b).pending = s.pending := by
  unfold treatSlot
  split <;> simp

@[simp] theorem resumeSweep_control (k : Fin 16) :
    (s.resumeSweep k).control = s.control := by
  unfold resumeSweep
  (repeat' split) <;> simp

@[simp] theorem resumeSweep_monitor (k : Fin 16) :
    (s.resumeSweep k).monitor = s.monitor := by
  unfold resumeSweep
  (repeat' split) <;> simp

@[simp] theorem resumeSweep_uplink (k : Fin 16) (v : Fin 32) : (s.resumeSweep k).uplink v = s.uplink v := by simp [uplink]

@[simp] theorem resumeSweep_conduits (k : Fin 16) :
    (s.resumeSweep k).conduits = s.conduits := by
  unfold resumeSweep
  (repeat' split) <;> simp

@[simp] theorem resumeSweep_alarm (k : Fin 16) (cd : Fin 64) : (s.resumeSweep k).alarm cd = s.alarm cd := by simp [alarm]

@[simp] theorem resumeSweep_groups (k : Fin 16) :
    (s.resumeSweep k).groups = s.groups := by
  unfold resumeSweep
  (repeat' split) <;> simp

@[simp] theorem resumeSweep_group (k : Fin 16) (gr : Nat) : (s.resumeSweep k).group gr = s.group gr := by simp [group]

@[simp] theorem resumeSweep_store (k : Fin 16) :
    (s.resumeSweep k).store = s.store := by
  unfold resumeSweep
  (repeat' split) <;> simp

@[simp] theorem resumeSweep_port (k : Fin 16) :
    (s.resumeSweep k).port = s.port := by
  unfold resumeSweep
  (repeat' split) <;> simp

@[simp] theorem resumeSweep_engine (k : Fin 16) :
    (s.resumeSweep k).engine = s.engine := by
  unfold resumeSweep
  (repeat' split) <;> simp

@[simp] theorem resumeSweep_layout (k : Fin 16) :
    (s.resumeSweep k).area.layout = s.area.layout := by
  unfold resumeSweep
  (repeat' split) <;> simp

@[simp] theorem resumeSweep_groupRows (k : Fin 16) :
    (s.resumeSweep k).area.groupRows = s.area.groupRows := by
  unfold resumeSweep
  (repeat' split) <;> simp

@[simp] theorem resumeSweep_openCount (k : Fin 16) :
    (s.resumeSweep k).openCount = s.openCount := by
  unfold resumeSweep
  (repeat' split) <;> simp

@[simp] theorem resumeSweep_pending (k : Fin 16) :
    (s.resumeSweep k).pending = s.pending := by
  unfold resumeSweep
  (repeat' split) <;> simp

@[simp] theorem enterRunning_monitor :
    (s.enterRunning).monitor = s.monitor := by
  unfold enterRunning
  dsimp only
  (repeat' split) <;> simp

@[simp] theorem enterRunning_uplink (v : Fin 32) : (s.enterRunning).uplink v = s.uplink v := by simp [uplink]

@[simp] theorem enterRunning_conduits :
    (s.enterRunning).conduits = s.conduits := by
  unfold enterRunning
  dsimp only
  (repeat' split) <;> simp

@[simp] theorem enterRunning_alarm (cd : Fin 64) : (s.enterRunning).alarm cd = s.alarm cd := by simp [alarm]

@[simp] theorem enterRunning_groups :
    (s.enterRunning).groups = s.groups := by
  unfold enterRunning
  dsimp only
  (repeat' split) <;> simp

@[simp] theorem enterRunning_group (gr : Nat) : (s.enterRunning).group gr = s.group gr := by simp [group]

@[simp] theorem enterRunning_store :
    (s.enterRunning).store = s.store := by
  unfold enterRunning
  dsimp only
  (repeat' split) <;> simp

@[simp] theorem enterRunning_port :
    (s.enterRunning).port = s.port := by
  unfold enterRunning
  dsimp only
  (repeat' split) <;> simp

@[simp] theorem enterRunning_engine :
    (s.enterRunning).engine = s.engine := by
  unfold enterRunning
  dsimp only
  (repeat' split) <;> simp

@[simp] theorem enterRunning_layout :
    (s.enterRunning).area.layout = s.area.layout := by
  unfold enterRunning
  dsimp only
  (repeat' split) <;> simp

@[simp] theorem enterRunning_groupRows :
    (s.enterRunning).area.groupRows = s.area.groupRows := by
  unfold enterRunning
  dsimp only
  (repeat' split) <;> simp

@[simp] theorem enterRunning_openCount :
    (s.enterRunning).openCount = s.openCount := by
  unfold enterRunning
  dsimp only
  (repeat' split) <;> simp

@[simp] theorem enterRunning_pending :
    (s.enterRunning).pending = s.pending := by
  unfold enterRunning
  dsimp only
  (repeat' split) <;> simp

@[simp] theorem decideNews_settings :
    (s.decideNews).control.settings = s.control.settings := by
  unfold decideNews
  split <;> simp

@[simp] theorem decideNews_now : (s.decideNews).control.now = s.control.now :=
  now_of_settings (by simp)

@[simp] theorem decideNews_runState : (s.decideNews).control.runState = s.control.runState :=
  runState_of_settings (by simp)

@[simp] theorem decideNews_monitor :
    (s.decideNews).monitor = s.monitor := by
  unfold decideNews
  split <;> simp

@[simp] theorem decideNews_uplink (v : Fin 32) : (s.decideNews).uplink v = s.uplink v := by simp [uplink]

@[simp] theorem decideNews_conduits :
    (s.decideNews).conduits = s.conduits := by
  unfold decideNews
  split <;> simp

@[simp] theorem decideNews_alarm (cd : Fin 64) : (s.decideNews).alarm cd = s.alarm cd := by simp [alarm]

@[simp] theorem decideNews_groups :
    (s.decideNews).groups = s.groups := by
  unfold decideNews
  split <;> simp

@[simp] theorem decideNews_group (gr : Nat) : (s.decideNews).group gr = s.group gr := by simp [group]

@[simp] theorem decideNews_store :
    (s.decideNews).store = s.store := by
  unfold decideNews
  split <;> simp

@[simp] theorem decideNews_port :
    (s.decideNews).port = s.port := by
  unfold decideNews
  split <;> simp

@[simp] theorem decideNews_engine :
    (s.decideNews).engine = s.engine := by
  unfold decideNews
  split <;> simp

@[simp] theorem decideNews_layout :
    (s.decideNews).area.layout = s.area.layout := by
  unfold decideNews
  split <;> rfl

@[simp] theorem decideNews_groupRows :
    (s.decideNews).area.groupRows = s.area.groupRows := by
  unfold decideNews
  split <;> simp

@[simp] theorem decideNews_openCount :
    (s.decideNews).openCount = s.openCount := by
  unfold decideNews
  split <;> simp

@[simp] theorem decideNews_pending :
    (s.decideNews).pending = s.pending := by
  unfold decideNews
  split <;> simp

@[simp] theorem reportSweep_settings (r : SweepRecord) :
    (s.reportSweep r).control.settings = s.control.settings := by
  unfold reportSweep
  split <;> simp

@[simp] theorem reportSweep_now (r : SweepRecord) : (s.reportSweep r).control.now = s.control.now :=
  now_of_settings (by simp)

@[simp] theorem reportSweep_runState (r : SweepRecord) : (s.reportSweep r).control.runState = s.control.runState :=
  runState_of_settings (by simp)

@[simp] theorem reportSweep_monitor (r : SweepRecord) :
    (s.reportSweep r).monitor = s.monitor := by
  unfold reportSweep
  split <;> simp

@[simp] theorem reportSweep_uplink (r : SweepRecord) (v : Fin 32) : (s.reportSweep r).uplink v = s.uplink v := by simp [uplink]

@[simp] theorem reportSweep_conduits (r : SweepRecord) :
    (s.reportSweep r).conduits = s.conduits := by
  unfold reportSweep
  split <;> simp

@[simp] theorem reportSweep_alarm (r : SweepRecord) (cd : Fin 64) : (s.reportSweep r).alarm cd = s.alarm cd := by simp [alarm]

@[simp] theorem reportSweep_groups (r : SweepRecord) :
    (s.reportSweep r).groups = s.groups := by
  unfold reportSweep
  split <;> simp

@[simp] theorem reportSweep_group (r : SweepRecord) (gr : Nat) : (s.reportSweep r).group gr = s.group gr := by simp [group]

@[simp] theorem reportSweep_store (r : SweepRecord) :
    (s.reportSweep r).store = s.store := by
  unfold reportSweep
  split <;> simp

@[simp] theorem reportSweep_port (r : SweepRecord) :
    (s.reportSweep r).port = s.port := by
  unfold reportSweep
  split <;> simp

@[simp] theorem reportSweep_engine (r : SweepRecord) :
    (s.reportSweep r).engine = s.engine := by
  unfold reportSweep
  split <;> simp

@[simp] theorem reportSweep_plan (r : SweepRecord) :
    (s.reportSweep r).area.plan = s.area.plan := by
  unfold reportSweep
  split <;> simp

@[simp] theorem reportSweep_layout (r : SweepRecord) :
    (s.reportSweep r).area.layout = s.area.layout := by
  unfold reportSweep
  split <;> simp

@[simp] theorem reportSweep_groupRows (r : SweepRecord) :
    (s.reportSweep r).area.groupRows = s.area.groupRows := by
  unfold reportSweep
  split <;> simp

@[simp] theorem reportSweep_openCount (r : SweepRecord) :
    (s.reportSweep r).openCount = s.openCount := by
  unfold reportSweep
  split <;> simp

@[simp] theorem reportSweep_pending (r : SweepRecord) :
    (s.reportSweep r).pending = s.pending := by
  unfold reportSweep
  split <;> simp

@[simp] theorem startDueSweep_control :
    (s.startDueSweep).control = s.control := by
  unfold startDueSweep
  split <;> simp

@[simp] theorem startDueSweep_monitor :
    (s.startDueSweep).monitor = s.monitor := by
  unfold startDueSweep
  split <;> simp

@[simp] theorem startDueSweep_uplink (v : Fin 32) : (s.startDueSweep).uplink v = s.uplink v := by simp [uplink]

@[simp] theorem startDueSweep_conduits :
    (s.startDueSweep).conduits = s.conduits := by
  unfold startDueSweep
  split <;> simp

@[simp] theorem startDueSweep_alarm (cd : Fin 64) : (s.startDueSweep).alarm cd = s.alarm cd := by simp [alarm]

@[simp] theorem startDueSweep_groups :
    (s.startDueSweep).groups = s.groups := by
  unfold startDueSweep
  split <;> simp

@[simp] theorem startDueSweep_group (gr : Nat) : (s.startDueSweep).group gr = s.group gr := by simp [group]

@[simp] theorem startDueSweep_store :
    (s.startDueSweep).store = s.store := by
  unfold startDueSweep
  split <;> simp

@[simp] theorem startDueSweep_port :
    (s.startDueSweep).port = s.port := by
  unfold startDueSweep
  split <;> simp

@[simp] theorem startDueSweep_engine :
    (s.startDueSweep).engine = s.engine := by
  unfold startDueSweep
  split <;> simp

@[simp] theorem startDueSweep_layout :
    (s.startDueSweep).area.layout = s.area.layout := by
  unfold startDueSweep
  split <;> rfl

@[simp] theorem startDueSweep_groupRows :
    (s.startDueSweep).area.groupRows = s.area.groupRows := by
  unfold startDueSweep
  split <;> simp

@[simp] theorem startDueSweep_openCount :
    (s.startDueSweep).openCount = s.openCount := by
  unfold startDueSweep
  split <;> simp

@[simp] theorem startDueSweep_pending :
    (s.startDueSweep).pending = s.pending := by
  unfold startDueSweep
  split <;> simp

@[simp] theorem endSweep_monitor (r : SweepRecord) :
    (s.endSweep r).monitor = s.monitor := by
  unfold endSweep
  simp

@[simp] theorem endSweep_uplink (r : SweepRecord) (v : Fin 32) : (s.endSweep r).uplink v = s.uplink v := by simp [uplink]

@[simp] theorem endSweep_conduits (r : SweepRecord) :
    (s.endSweep r).conduits = s.conduits := by
  unfold endSweep
  simp

@[simp] theorem endSweep_alarm (r : SweepRecord) (cd : Fin 64) : (s.endSweep r).alarm cd = s.alarm cd := by simp [alarm]

@[simp] theorem endSweep_groups (r : SweepRecord) :
    (s.endSweep r).groups = s.groups := by
  unfold endSweep
  simp

@[simp] theorem endSweep_group (r : SweepRecord) (gr : Nat) : (s.endSweep r).group gr = s.group gr := by simp [group]

@[simp] theorem endSweep_store (r : SweepRecord) :
    (s.endSweep r).store = s.store := by
  unfold endSweep
  simp

@[simp] theorem endSweep_port (r : SweepRecord) :
    (s.endSweep r).port = s.port := by
  unfold endSweep
  simp

@[simp] theorem endSweep_engine (r : SweepRecord) :
    (s.endSweep r).engine = s.engine := by
  unfold endSweep
  simp

@[simp] theorem endSweep_layout (r : SweepRecord) :
    (s.endSweep r).area.layout = s.area.layout := by
  unfold endSweep
  (repeat' split) <;> first | (simp; done) | rfl | (simp <;> rfl)

@[simp] theorem endSweep_groupRows (r : SweepRecord) :
    (s.endSweep r).area.groupRows = s.area.groupRows := by
  unfold endSweep
  simp

@[simp] theorem endSweep_openCount (r : SweepRecord) :
    (s.endSweep r).openCount = s.openCount := by
  unfold endSweep
  simp

@[simp] theorem endSweep_pending (r : SweepRecord) :
    (s.endSweep r).pending = s.pending := by
  unfold endSweep
  simp

@[simp] theorem produceResumed_settings :
    (s.produceResumed).control.settings = s.control.settings := by
  unfold produceResumed
  (repeat' split) <;> simp

@[simp] theorem produceResumed_now : (s.produceResumed).control.now = s.control.now :=
  now_of_settings (by simp)

@[simp] theorem produceResumed_runState : (s.produceResumed).control.runState = s.control.runState :=
  runState_of_settings (by simp)

@[simp] theorem produceResumed_monitor :
    (s.produceResumed).monitor = s.monitor := by
  unfold produceResumed
  (repeat' split) <;> simp

@[simp] theorem produceResumed_uplink (v : Fin 32) : (s.produceResumed).uplink v = s.uplink v := by simp [uplink]

@[simp] theorem produceResumed_conduits :
    (s.produceResumed).conduits = s.conduits := by
  unfold produceResumed
  (repeat' split) <;> simp

@[simp] theorem produceResumed_alarm (cd : Fin 64) : (s.produceResumed).alarm cd = s.alarm cd := by simp [alarm]

@[simp] theorem produceResumed_groups :
    (s.produceResumed).groups = s.groups := by
  unfold produceResumed
  (repeat' split) <;> simp

@[simp] theorem produceResumed_group (gr : Nat) : (s.produceResumed).group gr = s.group gr := by simp [group]

@[simp] theorem produceResumed_store :
    (s.produceResumed).store = s.store := by
  unfold produceResumed
  (repeat' split) <;> simp

@[simp] theorem produceResumed_port :
    (s.produceResumed).port = s.port := by
  unfold produceResumed
  (repeat' split) <;> simp

@[simp] theorem produceResumed_engine :
    (s.produceResumed).engine = s.engine := by
  unfold produceResumed
  (repeat' split) <;> simp

@[simp] theorem produceResumed_plan :
    (s.produceResumed).area.plan = s.area.plan := by
  unfold produceResumed
  (repeat' split) <;> rfl

@[simp] theorem produceResumed_layout :
    (s.produceResumed).area.layout = s.area.layout := by
  unfold produceResumed
  (repeat' split) <;> rfl

@[simp] theorem produceResumed_groupRows :
    (s.produceResumed).area.groupRows = s.area.groupRows := by
  unfold produceResumed
  (repeat' split) <;> simp

@[simp] theorem produceResumed_openCount :
    (s.produceResumed).openCount = s.openCount := by
  unfold produceResumed
  (repeat' split) <;> simp

@[simp] theorem produceResumed_pending :
    (s.produceResumed).pending = s.pending := by
  unfold produceResumed
  (repeat' split) <;> simp

@[simp] theorem finishAdopt_monitor :
    (s.finishAdopt).monitor = s.monitor := by
  unfold finishAdopt
  simp

@[simp] theorem finishAdopt_uplink (v : Fin 32) : (s.finishAdopt).uplink v = s.uplink v := by simp [uplink]

@[simp] theorem finishAdopt_conduits :
    (s.finishAdopt).conduits = s.conduits := by
  unfold finishAdopt
  simp

@[simp] theorem finishAdopt_alarm (cd : Fin 64) : (s.finishAdopt).alarm cd = s.alarm cd := by simp [alarm]

@[simp] theorem finishAdopt_groups :
    (s.finishAdopt).groups = s.groups := by
  unfold finishAdopt
  simp

@[simp] theorem finishAdopt_group (gr : Nat) : (s.finishAdopt).group gr = s.group gr := by simp [group]

@[simp] theorem finishAdopt_store :
    (s.finishAdopt).store = s.store := by
  unfold finishAdopt
  simp

@[simp] theorem finishAdopt_port :
    (s.finishAdopt).port = s.port := by
  unfold finishAdopt
  simp

@[simp] theorem finishAdopt_engine :
    (s.finishAdopt).engine = s.engine := by
  unfold finishAdopt
  simp

@[simp] theorem finishAdopt_layout :
    (s.finishAdopt).area.layout = s.area.layout := by
  unfold finishAdopt
  (repeat' split) <;> first | (simp; done) | rfl | (simp <;> rfl)

@[simp] theorem finishAdopt_groupRows :
    (s.finishAdopt).area.groupRows = s.area.groupRows := by
  unfold finishAdopt
  simp

@[simp] theorem finishAdopt_openCount :
    (s.finishAdopt).openCount = s.openCount := by
  unfold finishAdopt
  simp

@[simp] theorem finishAdopt_pending :
    (s.finishAdopt).pending = s.pending := by
  unfold finishAdopt
  simp

@[simp] theorem endPage_monitor :
    (s.endPage).monitor = s.monitor := by
  unfold endPage
  (repeat' split) <;> simp

@[simp] theorem endPage_uplink (v : Fin 32) : (s.endPage).uplink v = s.uplink v := by simp [uplink]

@[simp] theorem endPage_conduits :
    (s.endPage).conduits = s.conduits := by
  unfold endPage
  (repeat' split) <;> simp

@[simp] theorem endPage_alarm (cd : Fin 64) : (s.endPage).alarm cd = s.alarm cd := by simp [alarm]

@[simp] theorem endPage_groups :
    (s.endPage).groups = s.groups := by
  unfold endPage
  (repeat' split) <;> simp

@[simp] theorem endPage_group (gr : Nat) : (s.endPage).group gr = s.group gr := by simp [group]

@[simp] theorem endPage_store :
    (s.endPage).store = s.store := by
  unfold endPage
  (repeat' split) <;> simp

@[simp] theorem endPage_port :
    (s.endPage).port = s.port := by
  unfold endPage
  (repeat' split) <;> simp

@[simp] theorem endPage_engine :
    (s.endPage).engine = s.engine := by
  unfold endPage
  (repeat' split) <;> simp

@[simp] theorem endPage_layout :
    (s.endPage).area.layout = s.area.layout := by
  unfold endPage
  (repeat' split) <;> simp

@[simp] theorem endPage_groupRows :
    (s.endPage).area.groupRows = s.area.groupRows := by
  unfold endPage
  (repeat' split) <;> simp

@[simp] theorem endPage_openCount :
    (s.endPage).openCount = s.openCount := by
  unfold endPage
  (repeat' split) <;> simp

@[simp] theorem endPage_pending :
    (s.endPage).pending = s.pending := by
  unfold endPage
  (repeat' split) <;> simp

@[simp] theorem nextPage_control (n : Nat) :
    (s.nextPage n).control = s.control := by
  unfold nextPage
  simp

@[simp] theorem nextPage_monitor (n : Nat) :
    (s.nextPage n).monitor = s.monitor := by
  unfold nextPage
  simp

@[simp] theorem nextPage_uplink (n : Nat) (v : Fin 32) : (s.nextPage n).uplink v = s.uplink v := by simp [uplink]

@[simp] theorem nextPage_conduits (n : Nat) :
    (s.nextPage n).conduits = s.conduits := by
  unfold nextPage
  simp

@[simp] theorem nextPage_alarm (n : Nat) (cd : Fin 64) : (s.nextPage n).alarm cd = s.alarm cd := by simp [alarm]

@[simp] theorem nextPage_groups (n : Nat) :
    (s.nextPage n).groups = s.groups := by
  unfold nextPage
  simp

@[simp] theorem nextPage_group (n : Nat) (gr : Nat) : (s.nextPage n).group gr = s.group gr := by simp [group]

@[simp] theorem nextPage_store (n : Nat) :
    (s.nextPage n).store = s.store := by
  unfold nextPage
  simp

@[simp] theorem nextPage_port (n : Nat) :
    (s.nextPage n).port = s.port := by
  unfold nextPage
  simp

@[simp] theorem nextPage_engine (n : Nat) :
    (s.nextPage n).engine = s.engine := by
  unfold nextPage
  simp

@[simp] theorem nextPage_layout (n : Nat) :
    (s.nextPage n).area.layout = s.area.layout := rfl

@[simp] theorem nextPage_groupRows (n : Nat) :
    (s.nextPage n).area.groupRows = s.area.groupRows := by
  unfold nextPage
  simp

@[simp] theorem nextPage_openCount (n : Nat) :
    (s.nextPage n).openCount = s.openCount := by
  unfold nextPage
  simp

@[simp] theorem nextPage_pending (n : Nat) :
    (s.nextPage n).pending = s.pending := by
  unfold nextPage
  simp

@[simp] theorem abandonTaking_settings :
    (s.abandonTaking).control.settings = s.control.settings := by
  unfold abandonTaking
  split <;> simp

@[simp] theorem abandonTaking_now : (s.abandonTaking).control.now = s.control.now :=
  now_of_settings (by simp)

@[simp] theorem abandonTaking_runState : (s.abandonTaking).control.runState = s.control.runState :=
  runState_of_settings (by simp)

@[simp] theorem abandonTaking_monitor :
    (s.abandonTaking).monitor = s.monitor := by
  unfold abandonTaking
  split <;> simp

@[simp] theorem abandonTaking_uplink (v : Fin 32) : (s.abandonTaking).uplink v = s.uplink v := by simp [uplink]

@[simp] theorem abandonTaking_conduits :
    (s.abandonTaking).conduits = s.conduits := by
  unfold abandonTaking
  split <;> simp

@[simp] theorem abandonTaking_alarm (cd : Fin 64) : (s.abandonTaking).alarm cd = s.alarm cd := by simp [alarm]

@[simp] theorem abandonTaking_groups :
    (s.abandonTaking).groups = s.groups := by
  unfold abandonTaking
  split <;> simp

@[simp] theorem abandonTaking_group (gr : Nat) : (s.abandonTaking).group gr = s.group gr := by simp [group]

@[simp] theorem abandonTaking_store :
    (s.abandonTaking).store = s.store := by
  unfold abandonTaking
  split <;> simp

@[simp] theorem abandonTaking_port :
    (s.abandonTaking).port = s.port := by
  unfold abandonTaking
  split <;> simp

@[simp] theorem abandonTaking_engine :
    (s.abandonTaking).engine = s.engine := by
  unfold abandonTaking
  split <;> simp

@[simp] theorem abandonTaking_layout :
    (s.abandonTaking).area.layout = s.area.layout := by
  unfold abandonTaking
  (repeat' split) <;> first | (simp; done) | rfl | (simp <;> rfl)

@[simp] theorem abandonTaking_groupRows :
    (s.abandonTaking).area.groupRows = s.area.groupRows := by
  unfold abandonTaking
  split <;> simp

@[simp] theorem abandonTaking_openCount :
    (s.abandonTaking).openCount = s.openCount := by
  unfold abandonTaking
  split <;> simp

@[simp] theorem abandonTaking_pending :
    (s.abandonTaking).pending = s.pending := by
  unfold abandonTaking
  split <;> simp

@[simp] theorem abandonCompletion_settings (c : Completion) :
    (s.abandonCompletion c).control.settings = s.control.settings := by
  unfold abandonCompletion
  simp

@[simp] theorem abandonCompletion_now (c : Completion) : (s.abandonCompletion c).control.now = s.control.now :=
  now_of_settings (by simp)

@[simp] theorem abandonCompletion_runState (c : Completion) : (s.abandonCompletion c).control.runState = s.control.runState :=
  runState_of_settings (by simp)

@[simp] theorem abandonCompletion_monitor (c : Completion) :
    (s.abandonCompletion c).monitor = s.monitor := by
  unfold abandonCompletion
  simp

@[simp] theorem abandonCompletion_uplink (c : Completion) (v : Fin 32) : (s.abandonCompletion c).uplink v = s.uplink v := by simp [uplink]

@[simp] theorem abandonCompletion_conduits (c : Completion) :
    (s.abandonCompletion c).conduits = s.conduits := by
  unfold abandonCompletion
  simp

@[simp] theorem abandonCompletion_alarm (c : Completion) (cd : Fin 64) : (s.abandonCompletion c).alarm cd = s.alarm cd := by simp [alarm]

@[simp] theorem abandonCompletion_groups (c : Completion) :
    (s.abandonCompletion c).groups = s.groups := by
  unfold abandonCompletion
  simp

@[simp] theorem abandonCompletion_group (c : Completion) (gr : Nat) : (s.abandonCompletion c).group gr = s.group gr := by simp [group]

@[simp] theorem abandonCompletion_store (c : Completion) :
    (s.abandonCompletion c).store = s.store := by
  unfold abandonCompletion
  simp

@[simp] theorem abandonCompletion_port (c : Completion) :
    (s.abandonCompletion c).port = s.port := by
  unfold abandonCompletion
  simp

@[simp] theorem abandonCompletion_engine (c : Completion) :
    (s.abandonCompletion c).engine = s.engine := by
  unfold abandonCompletion
  simp

@[simp] theorem abandonCompletion_plan (c : Completion) :
    (s.abandonCompletion c).area.plan = s.area.plan := by
  unfold abandonCompletion
  simp

@[simp] theorem abandonCompletion_layout (c : Completion) :
    (s.abandonCompletion c).area.layout = s.area.layout := by
  unfold abandonCompletion
  simp

@[simp] theorem abandonCompletion_groupRows (c : Completion) :
    (s.abandonCompletion c).area.groupRows = s.area.groupRows := by
  unfold abandonCompletion
  simp

@[simp] theorem abandonCompletion_openCount (c : Completion) :
    (s.abandonCompletion c).openCount = s.openCount := by
  unfold abandonCompletion
  simp

@[simp] theorem abandonCompletion_pending (c : Completion) :
    (s.abandonCompletion c).pending = s.pending := by
  unfold abandonCompletion
  simp

@[simp] theorem abandonSweep_settings :
    (s.abandonSweep).control.settings = s.control.settings := by
  unfold abandonSweep
  dsimp only
  (repeat' split) <;> simp

@[simp] theorem abandonSweep_now : (s.abandonSweep).control.now = s.control.now :=
  now_of_settings (by simp)

@[simp] theorem abandonSweep_runState : (s.abandonSweep).control.runState = s.control.runState :=
  runState_of_settings (by simp)

@[simp] theorem abandonSweep_monitor :
    (s.abandonSweep).monitor = s.monitor := by
  unfold abandonSweep
  dsimp only
  (repeat' split) <;> simp

@[simp] theorem abandonSweep_uplink (v : Fin 32) : (s.abandonSweep).uplink v = s.uplink v := by simp [uplink]

@[simp] theorem abandonSweep_conduits :
    (s.abandonSweep).conduits = s.conduits := by
  unfold abandonSweep
  dsimp only
  (repeat' split) <;> simp

@[simp] theorem abandonSweep_alarm (cd : Fin 64) : (s.abandonSweep).alarm cd = s.alarm cd := by simp [alarm]

@[simp] theorem abandonSweep_groups :
    (s.abandonSweep).groups = s.groups := by
  unfold abandonSweep
  dsimp only
  (repeat' split) <;> simp

@[simp] theorem abandonSweep_group (gr : Nat) : (s.abandonSweep).group gr = s.group gr := by simp [group]

@[simp] theorem abandonSweep_store :
    (s.abandonSweep).store = s.store := by
  unfold abandonSweep
  dsimp only
  (repeat' split) <;> simp

@[simp] theorem abandonSweep_port :
    (s.abandonSweep).port = s.port := by
  unfold abandonSweep
  dsimp only
  (repeat' split) <;> simp

@[simp] theorem abandonSweep_engine :
    (s.abandonSweep).engine = s.engine := by
  unfold abandonSweep
  dsimp only
  (repeat' split) <;> simp

@[simp] theorem abandonSweep_layout :
    (s.abandonSweep).area.layout = s.area.layout := by
  unfold abandonSweep
  dsimp only
  (repeat' split) <;> simp

@[simp] theorem abandonSweep_groupRows :
    (s.abandonSweep).area.groupRows = s.area.groupRows := by
  unfold abandonSweep
  dsimp only
  (repeat' split) <;> simp

@[simp] theorem abandonSweep_openCount :
    (s.abandonSweep).openCount = s.openCount := by
  unfold abandonSweep
  dsimp only
  (repeat' split) <;> simp

@[simp] theorem abandonSweep_pending :
    (s.abandonSweep).pending = s.pending := by
  unfold abandonSweep
  dsimp only
  (repeat' split) <;> simp

@[simp] theorem abandonArea_settings :
    (s.abandonArea).control.settings = s.control.settings := by
  unfold abandonArea
  generalize s.area.completions = l
  induction l generalizing s with
  | nil => rfl
  | cons c t ih => simpa [List.foldl_cons] using ih (s.abandonCompletion c)

@[simp] theorem abandonArea_now : (s.abandonArea).control.now = s.control.now :=
  now_of_settings (by simp)

@[simp] theorem abandonArea_runState : (s.abandonArea).control.runState = s.control.runState :=
  runState_of_settings (by simp)

@[simp] theorem abandonArea_monitor :
    (s.abandonArea).monitor = s.monitor := by
  unfold abandonArea
  generalize s.area.completions = l
  induction l generalizing s with
  | nil => rfl
  | cons c t ih => simpa [List.foldl_cons] using ih (s.abandonCompletion c)

@[simp] theorem abandonArea_uplink (v : Fin 32) : (s.abandonArea).uplink v = s.uplink v := by simp [uplink]

@[simp] theorem abandonArea_conduits :
    (s.abandonArea).conduits = s.conduits := by
  unfold abandonArea
  generalize s.area.completions = l
  induction l generalizing s with
  | nil => rfl
  | cons c t ih => simpa [List.foldl_cons] using ih (s.abandonCompletion c)

@[simp] theorem abandonArea_alarm (cd : Fin 64) : (s.abandonArea).alarm cd = s.alarm cd := by simp [alarm]

@[simp] theorem abandonArea_groups :
    (s.abandonArea).groups = s.groups := by
  unfold abandonArea
  generalize s.area.completions = l
  induction l generalizing s with
  | nil => rfl
  | cons c t ih => simpa [List.foldl_cons] using ih (s.abandonCompletion c)

@[simp] theorem abandonArea_group (gr : Nat) : (s.abandonArea).group gr = s.group gr := by simp [group]

@[simp] theorem abandonArea_store :
    (s.abandonArea).store = s.store := by
  unfold abandonArea
  generalize s.area.completions = l
  induction l generalizing s with
  | nil => rfl
  | cons c t ih => simpa [List.foldl_cons] using ih (s.abandonCompletion c)

@[simp] theorem abandonArea_port :
    (s.abandonArea).port = s.port := by
  unfold abandonArea
  generalize s.area.completions = l
  induction l generalizing s with
  | nil => rfl
  | cons c t ih => simpa [List.foldl_cons] using ih (s.abandonCompletion c)

@[simp] theorem abandonArea_engine :
    (s.abandonArea).engine = s.engine := by
  unfold abandonArea
  generalize s.area.completions = l
  induction l generalizing s with
  | nil => rfl
  | cons c t ih => simpa [List.foldl_cons] using ih (s.abandonCompletion c)

@[simp] theorem abandonArea_layout :
    (s.abandonArea).area.layout = s.area.layout := by
  unfold abandonArea
  generalize s.area.completions = l
  induction l generalizing s with
  | nil => rfl
  | cons c t ih => simpa [List.foldl_cons] using ih (s.abandonCompletion c)

@[simp] theorem abandonArea_groupRows :
    (s.abandonArea).area.groupRows = s.area.groupRows := by
  unfold abandonArea
  generalize s.area.completions = l
  induction l generalizing s with
  | nil => rfl
  | cons c t ih => simpa [List.foldl_cons] using ih (s.abandonCompletion c)

@[simp] theorem abandonArea_openCount :
    (s.abandonArea).openCount = s.openCount := by
  unfold abandonArea
  generalize s.area.completions = l
  induction l generalizing s with
  | nil => rfl
  | cons c t ih => simpa [List.foldl_cons] using ih (s.abandonCompletion c)

@[simp] theorem abandonArea_pending :
    (s.abandonArea).pending = s.pending := by
  unfold abandonArea
  generalize s.area.completions = l
  induction l generalizing s with
  | nil => rfl
  | cons c t ih => simpa [List.foldl_cons] using ih (s.abandonCompletion c)

@[simp] theorem enterHeadless_monitor (r : HeadlessReason) :
    (s.enterHeadless r).monitor = s.monitor := by
  unfold enterHeadless
  simp

@[simp] theorem enterHeadless_uplink (r : HeadlessReason) (v : Fin 32) : (s.enterHeadless r).uplink v = s.uplink v := by simp [uplink]

@[simp] theorem enterHeadless_conduits (r : HeadlessReason) :
    (s.enterHeadless r).conduits = s.conduits := by
  unfold enterHeadless
  simp

@[simp] theorem enterHeadless_alarm (r : HeadlessReason) (cd : Fin 64) : (s.enterHeadless r).alarm cd = s.alarm cd := by simp [alarm]

@[simp] theorem enterHeadless_groups (r : HeadlessReason) :
    (s.enterHeadless r).groups = s.groups := by
  unfold enterHeadless
  simp

@[simp] theorem enterHeadless_group (r : HeadlessReason) (gr : Nat) : (s.enterHeadless r).group gr = s.group gr := by simp [group]

@[simp] theorem enterHeadless_store_memory (r : HeadlessReason) :
    (s.enterHeadless r).store.memory = s.store.memory := by
  unfold enterHeadless
  simp

@[simp] theorem enterHeadless_store_owners (r : HeadlessReason) :
    (s.enterHeadless r).store.owners = s.store.owners := by
  unfold enterHeadless
  simp

@[simp] theorem enterHeadless_store_loads (r : HeadlessReason) :
    (s.enterHeadless r).store.loads = s.store.loads := by
  unfold enterHeadless
  simp

@[simp] theorem enterHeadless_store_fixQueue (r : HeadlessReason) :
    (s.enterHeadless r).store.fixQueue = s.store.fixQueue := by
  unfold enterHeadless
  simp

@[simp] theorem enterHeadless_store_burst (r : HeadlessReason) :
    (s.enterHeadless r).store.burst = s.store.burst := by
  unfold enterHeadless
  simp

@[simp] theorem enterHeadless_port (r : HeadlessReason) :
    (s.enterHeadless r).port = s.port := by
  unfold enterHeadless
  simp

@[simp] theorem enterHeadless_engine (r : HeadlessReason) :
    (s.enterHeadless r).engine = s.engine := by
  unfold enterHeadless
  simp

@[simp] theorem enterHeadless_layout (r : HeadlessReason) :
    (s.enterHeadless r).area.layout = s.area.layout := by
  unfold enterHeadless
  simp

@[simp] theorem enterHeadless_groupRows (r : HeadlessReason) :
    (s.enterHeadless r).area.groupRows = s.area.groupRows := by
  unfold enterHeadless
  simp

@[simp] theorem enterHeadless_openCount (r : HeadlessReason) :
    (s.enterHeadless r).openCount = s.openCount := by
  unfold enterHeadless
  simp

@[simp] theorem enterHeadless_pending (r : HeadlessReason) :
    (s.enterHeadless r).pending = s.pending := by
  unfold enterHeadless
  simp

@[simp] theorem tryStopped_monitor (t : StopTry) :
    (s.tryStopped t).monitor = s.monitor := by
  unfold tryStopped
  (repeat' split) <;> simp

@[simp] theorem tryStopped_uplink (t : StopTry) (v : Fin 32) : (s.tryStopped t).uplink v = s.uplink v := by simp [uplink]

@[simp] theorem tryStopped_conduits (t : StopTry) :
    (s.tryStopped t).conduits = s.conduits := by
  unfold tryStopped
  (repeat' split) <;> simp

@[simp] theorem tryStopped_alarm (t : StopTry) (cd : Fin 64) : (s.tryStopped t).alarm cd = s.alarm cd := by simp [alarm]

@[simp] theorem tryStopped_groups (t : StopTry) :
    (s.tryStopped t).groups = s.groups := by
  unfold tryStopped
  (repeat' split) <;> simp

@[simp] theorem tryStopped_group (t : StopTry) (gr : Nat) : (s.tryStopped t).group gr = s.group gr := by simp [group]

@[simp] theorem tryStopped_store_memory (t : StopTry) :
    (s.tryStopped t).store.memory = s.store.memory := by
  unfold tryStopped
  (repeat' split) <;> simp

@[simp] theorem tryStopped_store_owners (t : StopTry) :
    (s.tryStopped t).store.owners = s.store.owners := by
  unfold tryStopped
  (repeat' split) <;> simp

@[simp] theorem tryStopped_store_loads (t : StopTry) :
    (s.tryStopped t).store.loads = s.store.loads := by
  unfold tryStopped
  (repeat' split) <;> simp

@[simp] theorem tryStopped_store_fixQueue (t : StopTry) :
    (s.tryStopped t).store.fixQueue = s.store.fixQueue := by
  unfold tryStopped
  (repeat' split) <;> simp

@[simp] theorem tryStopped_store_burst (t : StopTry) :
    (s.tryStopped t).store.burst = s.store.burst := by
  unfold tryStopped
  (repeat' split) <;> simp

@[simp] theorem tryStopped_port (t : StopTry) :
    (s.tryStopped t).port = s.port := by
  unfold tryStopped
  (repeat' split) <;> simp

@[simp] theorem tryStopped_engine (t : StopTry) :
    (s.tryStopped t).engine = s.engine := by
  unfold tryStopped
  (repeat' split) <;> simp

@[simp] theorem tryStopped_layout (t : StopTry) :
    (s.tryStopped t).area.layout = s.area.layout := by
  unfold tryStopped
  (repeat' split) <;> first | rfl | simp

@[simp] theorem tryStopped_groupRows (t : StopTry) :
    (s.tryStopped t).area.groupRows = s.area.groupRows := by
  unfold tryStopped
  (repeat' split) <;> simp

@[simp] theorem tryStopped_openCount (t : StopTry) :
    (s.tryStopped t).openCount = s.openCount := by
  unfold tryStopped
  (repeat' split) <;> simp

@[simp] theorem tryStopped_pending (t : StopTry) :
    (s.tryStopped t).pending = s.pending := by
  unfold tryStopped
  (repeat' split) <;> simp

@[simp] theorem retryStopped_monitor :
    (s.retryStopped).monitor = s.monitor := by
  unfold retryStopped
  split <;> simp

@[simp] theorem retryStopped_uplink (v : Fin 32) : (s.retryStopped).uplink v = s.uplink v := by simp [uplink]

@[simp] theorem retryStopped_conduits :
    (s.retryStopped).conduits = s.conduits := by
  unfold retryStopped
  split <;> simp

@[simp] theorem retryStopped_alarm (cd : Fin 64) : (s.retryStopped).alarm cd = s.alarm cd := by simp [alarm]

@[simp] theorem retryStopped_groups :
    (s.retryStopped).groups = s.groups := by
  unfold retryStopped
  split <;> simp

@[simp] theorem retryStopped_group (gr : Nat) : (s.retryStopped).group gr = s.group gr := by simp [group]

@[simp] theorem retryStopped_store_memory :
    (s.retryStopped).store.memory = s.store.memory := by
  unfold retryStopped
  split <;> simp

@[simp] theorem retryStopped_store_owners :
    (s.retryStopped).store.owners = s.store.owners := by
  unfold retryStopped
  split <;> simp

@[simp] theorem retryStopped_store_loads :
    (s.retryStopped).store.loads = s.store.loads := by
  unfold retryStopped
  split <;> simp

@[simp] theorem retryStopped_store_fixQueue :
    (s.retryStopped).store.fixQueue = s.store.fixQueue := by
  unfold retryStopped
  split <;> simp

@[simp] theorem retryStopped_store_burst :
    (s.retryStopped).store.burst = s.store.burst := by
  unfold retryStopped
  split <;> simp

@[simp] theorem retryStopped_port :
    (s.retryStopped).port = s.port := by
  unfold retryStopped
  split <;> simp

@[simp] theorem retryStopped_engine :
    (s.retryStopped).engine = s.engine := by
  unfold retryStopped
  split <;> simp

@[simp] theorem retryStopped_layout :
    (s.retryStopped).area.layout = s.area.layout := by
  unfold retryStopped
  split <;> simp

@[simp] theorem retryStopped_groupRows :
    (s.retryStopped).area.groupRows = s.area.groupRows := by
  unfold retryStopped
  split <;> simp

@[simp] theorem retryStopped_openCount :
    (s.retryStopped).openCount = s.openCount := by
  unfold retryStopped
  split <;> simp

@[simp] theorem retryStopped_pending :
    (s.retryStopped).pending = s.pending := by
  unfold retryStopped
  split <;> simp

@[simp] theorem slotNotEmpty_monitor :
    (s.slotNotEmpty).monitor = s.monitor := by
  unfold slotNotEmpty
  split <;> simp

@[simp] theorem slotNotEmpty_uplink (v : Fin 32) : (s.slotNotEmpty).uplink v = s.uplink v := by simp [uplink]

@[simp] theorem slotNotEmpty_conduits :
    (s.slotNotEmpty).conduits = s.conduits := by
  unfold slotNotEmpty
  split <;> simp

@[simp] theorem slotNotEmpty_alarm (cd : Fin 64) : (s.slotNotEmpty).alarm cd = s.alarm cd := by simp [alarm]

@[simp] theorem slotNotEmpty_groups :
    (s.slotNotEmpty).groups = s.groups := by
  unfold slotNotEmpty
  split <;> simp

@[simp] theorem slotNotEmpty_group (gr : Nat) : (s.slotNotEmpty).group gr = s.group gr := by simp [group]

@[simp] theorem slotNotEmpty_store_memory :
    (s.slotNotEmpty).store.memory = s.store.memory := by
  unfold slotNotEmpty
  split <;> simp

@[simp] theorem slotNotEmpty_store_owners :
    (s.slotNotEmpty).store.owners = s.store.owners := by
  unfold slotNotEmpty
  split <;> simp

@[simp] theorem slotNotEmpty_store_loads :
    (s.slotNotEmpty).store.loads = s.store.loads := by
  unfold slotNotEmpty
  split <;> simp

@[simp] theorem slotNotEmpty_store_fixQueue :
    (s.slotNotEmpty).store.fixQueue = s.store.fixQueue := by
  unfold slotNotEmpty
  split <;> simp

@[simp] theorem slotNotEmpty_store_burst :
    (s.slotNotEmpty).store.burst = s.store.burst := by
  unfold slotNotEmpty
  split <;> simp

@[simp] theorem slotNotEmpty_port :
    (s.slotNotEmpty).port = s.port := by
  unfold slotNotEmpty
  split <;> simp

@[simp] theorem slotNotEmpty_engine :
    (s.slotNotEmpty).engine = s.engine := by
  unfold slotNotEmpty
  split <;> simp

@[simp] theorem slotNotEmpty_layout :
    (s.slotNotEmpty).area.layout = s.area.layout := by
  unfold slotNotEmpty
  (repeat' split) <;> first | (simp; done) | rfl | (simp <;> rfl)

@[simp] theorem slotNotEmpty_groupRows :
    (s.slotNotEmpty).area.groupRows = s.area.groupRows := by
  unfold slotNotEmpty
  split <;> simp

@[simp] theorem slotNotEmpty_openCount :
    (s.slotNotEmpty).openCount = s.openCount := by
  unfold slotNotEmpty
  split <;> simp

@[simp] theorem slotNotEmpty_pending :
    (s.slotNotEmpty).pending = s.pending := by
  unfold slotNotEmpty
  split <;> simp

@[simp] theorem closeGap_settings :
    (s.closeGap).control.settings = s.control.settings := by
  unfold closeGap
  split <;> simp

@[simp] theorem closeGap_now : (s.closeGap).control.now = s.control.now :=
  now_of_settings (by simp)

@[simp] theorem closeGap_runState : (s.closeGap).control.runState = s.control.runState :=
  runState_of_settings (by simp)

@[simp] theorem closeGap_monitor :
    (s.closeGap).monitor = s.monitor := by
  unfold closeGap
  split <;> simp

@[simp] theorem closeGap_uplink (v : Fin 32) : (s.closeGap).uplink v = s.uplink v := by simp [uplink]

@[simp] theorem closeGap_conduits :
    (s.closeGap).conduits = s.conduits := by
  unfold closeGap
  split <;> simp

@[simp] theorem closeGap_alarm (cd : Fin 64) : (s.closeGap).alarm cd = s.alarm cd := by simp [alarm]

@[simp] theorem closeGap_groups :
    (s.closeGap).groups = s.groups := by
  unfold closeGap
  split <;> simp

@[simp] theorem closeGap_group (gr : Nat) : (s.closeGap).group gr = s.group gr := by simp [group]

@[simp] theorem closeGap_store :
    (s.closeGap).store = s.store := by
  unfold closeGap
  split <;> simp

@[simp] theorem closeGap_port :
    (s.closeGap).port = s.port := by
  unfold closeGap
  split <;> simp

@[simp] theorem closeGap_engine :
    (s.closeGap).engine = s.engine := by
  unfold closeGap
  split <;> simp

@[simp] theorem closeGap_plan :
    (s.closeGap).area.plan = s.area.plan := by
  unfold closeGap
  (repeat' split) <;> first | (simp; done) | rfl | (simp <;> rfl)

@[simp] theorem closeGap_layout :
    (s.closeGap).area.layout = s.area.layout := by
  unfold closeGap
  (repeat' split) <;> first | (simp; done) | rfl | (simp <;> rfl)

@[simp] theorem closeGap_groupRows :
    (s.closeGap).area.groupRows = s.area.groupRows := by
  unfold closeGap
  split <;> simp

@[simp] theorem closeGap_openCount :
    (s.closeGap).openCount = s.openCount := by
  unfold closeGap
  split <;> simp

@[simp] theorem closeGap_pending :
    (s.closeGap).pending = s.pending := by
  unfold closeGap
  split <;> simp

@[simp] theorem recordWritten_settings :
    (s.recordWritten).control.settings = s.control.settings := by
  unfold recordWritten
  simp

@[simp] theorem recordWritten_now : (s.recordWritten).control.now = s.control.now :=
  now_of_settings (by simp)

@[simp] theorem recordWritten_runState : (s.recordWritten).control.runState = s.control.runState :=
  runState_of_settings (by simp)

@[simp] theorem recordWritten_monitor :
    (s.recordWritten).monitor = s.monitor := by
  unfold recordWritten
  simp

@[simp] theorem recordWritten_uplink (v : Fin 32) : (s.recordWritten).uplink v = s.uplink v := by simp [uplink]

@[simp] theorem recordWritten_conduits :
    (s.recordWritten).conduits = s.conduits := by
  unfold recordWritten
  simp

@[simp] theorem recordWritten_alarm (cd : Fin 64) : (s.recordWritten).alarm cd = s.alarm cd := by simp [alarm]

@[simp] theorem recordWritten_groups :
    (s.recordWritten).groups = s.groups := by
  unfold recordWritten
  simp

@[simp] theorem recordWritten_group (gr : Nat) : (s.recordWritten).group gr = s.group gr := by simp [group]

@[simp] theorem recordWritten_store :
    (s.recordWritten).store = s.store := by
  unfold recordWritten
  simp

@[simp] theorem recordWritten_port :
    (s.recordWritten).port = s.port := by
  unfold recordWritten
  simp

@[simp] theorem recordWritten_engine :
    (s.recordWritten).engine = s.engine := by
  unfold recordWritten
  simp

@[simp] theorem recordWritten_layout :
    (s.recordWritten).area.layout = s.area.layout := by
  unfold recordWritten
  (repeat' split) <;> first | (simp; done) | rfl | (simp <;> rfl)

@[simp] theorem recordWritten_groupRows :
    (s.recordWritten).area.groupRows = s.area.groupRows := by
  unfold recordWritten
  simp

@[simp] theorem recordWritten_openCount :
    (s.recordWritten).openCount = s.openCount := by
  unfold recordWritten
  simp

@[simp] theorem recordWritten_pending :
    (s.recordWritten).pending = s.pending := by
  unfold recordWritten
  simp

@[simp] theorem refuse_monitor (c : BitVec 4) :
    (s.refuse c).monitor = s.monitor := by
  unfold refuse
  simp

@[simp] theorem refuse_uplink (c : BitVec 4) (v : Fin 32) : (s.refuse c).uplink v = s.uplink v := by simp [uplink]

@[simp] theorem refuse_conduits (c : BitVec 4) :
    (s.refuse c).conduits = s.conduits := by
  unfold refuse
  simp

@[simp] theorem refuse_alarm (c : BitVec 4) (cd : Fin 64) : (s.refuse c).alarm cd = s.alarm cd := by simp [alarm]

@[simp] theorem refuse_groups (c : BitVec 4) :
    (s.refuse c).groups = s.groups := by
  unfold refuse
  simp

@[simp] theorem refuse_group (c : BitVec 4) (gr : Nat) : (s.refuse c).group gr = s.group gr := by simp [group]

@[simp] theorem refuse_store (c : BitVec 4) :
    (s.refuse c).store = s.store := by
  unfold refuse
  simp

@[simp] theorem refuse_port (c : BitVec 4) :
    (s.refuse c).port = s.port := by
  unfold refuse
  simp

@[simp] theorem refuse_engine (c : BitVec 4) :
    (s.refuse c).engine = s.engine := by
  unfold refuse
  simp

@[simp] theorem refuse_area (c : BitVec 4) :
    (s.refuse c).area = s.area := by
  unfold refuse
  simp

@[simp] theorem refuse_openCount (c : BitVec 4) :
    (s.refuse c).openCount = s.openCount := by
  unfold refuse
  simp

@[simp] theorem refuse_pending (c : BitVec 4) :
    (s.refuse c).pending = s.pending := by
  unfold refuse
  simp

@[simp] theorem restartScrubTimer_control :
    (s.restartScrubTimer).control = s.control := by
  unfold restartScrubTimer
  simp

@[simp] theorem restartScrubTimer_monitor :
    (s.restartScrubTimer).monitor = s.monitor := by
  unfold restartScrubTimer
  simp

@[simp] theorem restartScrubTimer_uplink (v : Fin 32) : (s.restartScrubTimer).uplink v = s.uplink v := by simp [uplink]

@[simp] theorem restartScrubTimer_conduits :
    (s.restartScrubTimer).conduits = s.conduits := by
  unfold restartScrubTimer
  simp

@[simp] theorem restartScrubTimer_alarm (cd : Fin 64) : (s.restartScrubTimer).alarm cd = s.alarm cd := by simp [alarm]

@[simp] theorem restartScrubTimer_groups :
    (s.restartScrubTimer).groups = s.groups := by
  unfold restartScrubTimer
  simp

@[simp] theorem restartScrubTimer_group (gr : Nat) : (s.restartScrubTimer).group gr = s.group gr := by simp [group]

@[simp] theorem restartScrubTimer_store_memory :
    (s.restartScrubTimer).store.memory = s.store.memory := by
  unfold restartScrubTimer
  simp

@[simp] theorem restartScrubTimer_store_owners :
    (s.restartScrubTimer).store.owners = s.store.owners := by
  unfold restartScrubTimer
  simp

@[simp] theorem restartScrubTimer_store_loads :
    (s.restartScrubTimer).store.loads = s.store.loads := by
  unfold restartScrubTimer
  simp

@[simp] theorem restartScrubTimer_store_fixQueue :
    (s.restartScrubTimer).store.fixQueue = s.store.fixQueue := by
  unfold restartScrubTimer
  simp

@[simp] theorem restartScrubTimer_store_access :
    (s.restartScrubTimer).store.access = s.store.access := by
  unfold restartScrubTimer
  simp

@[simp] theorem restartScrubTimer_store_burst :
    (s.restartScrubTimer).store.burst = s.store.burst := by
  unfold restartScrubTimer
  simp

@[simp] theorem restartScrubTimer_store_snapshot :
    (s.restartScrubTimer).store.snapshot = s.store.snapshot := by
  unfold restartScrubTimer
  simp

@[simp] theorem restartScrubTimer_port :
    (s.restartScrubTimer).port = s.port := by
  unfold restartScrubTimer
  simp

@[simp] theorem restartScrubTimer_engine :
    (s.restartScrubTimer).engine = s.engine := by
  unfold restartScrubTimer
  simp

@[simp] theorem restartScrubTimer_area :
    (s.restartScrubTimer).area = s.area := by
  unfold restartScrubTimer
  simp

@[simp] theorem restartScrubTimer_openCount :
    (s.restartScrubTimer).openCount = s.openCount := by
  unfold restartScrubTimer
  simp

@[simp] theorem restartScrubTimer_pending :
    (s.restartScrubTimer).pending = s.pending := by
  unfold restartScrubTimer
  simp

@[simp] theorem forgetHolds_control :
    (s.forgetHolds).control = s.control := by
  unfold forgetHolds
  simp

@[simp] theorem forgetHolds_lines :
    (s.forgetHolds).monitor.lines = s.monitor.lines := by
  unfold forgetHolds
  simp

@[simp] theorem forgetHolds_conduits :
    (s.forgetHolds).conduits = s.conduits := by
  unfold forgetHolds
  simp

@[simp] theorem forgetHolds_alarm (cd : Fin 64) : (s.forgetHolds).alarm cd = s.alarm cd := by simp [alarm]

@[simp] theorem forgetHolds_groups :
    (s.forgetHolds).groups = s.groups := by
  unfold forgetHolds
  simp

@[simp] theorem forgetHolds_group (gr : Nat) : (s.forgetHolds).group gr = s.group gr := by simp [group]

@[simp] theorem forgetHolds_store :
    (s.forgetHolds).store = s.store := by
  unfold forgetHolds
  simp

@[simp] theorem forgetHolds_port :
    (s.forgetHolds).port = s.port := by
  unfold forgetHolds
  simp

@[simp] theorem forgetHolds_engine :
    (s.forgetHolds).engine = s.engine := by
  unfold forgetHolds
  simp

@[simp] theorem forgetHolds_plan :
    (s.forgetHolds).area.plan = s.area.plan := rfl

@[simp] theorem forgetHolds_layout :
    (s.forgetHolds).area.layout = s.area.layout := rfl

@[simp] theorem forgetHolds_groupRows :
    (s.forgetHolds).area.groupRows = s.area.groupRows := by
  unfold forgetHolds
  simp

@[simp] theorem forgetHolds_openCount :
    (s.forgetHolds).openCount = s.openCount := by
  unfold forgetHolds
  simp

@[simp] theorem forgetHolds_pending :
    (s.forgetHolds).pending = s.pending := by
  unfold forgetHolds
  simp

end State

end Sys2Proof.Machine
end

