-- ==== Sys2Proof/Laws/Headless.lean ====
section
/-! SUPPORT. What producing records and entering HEADLESS do: the holding queue only grows by what is produced, the cause
AREA_FAULT is not touched, and the abandoned operations are gone. -/

namespace Sys2Proof.Machine.State

variable (s : State)

/-! ### Records and completions -/

/-- A record produced with room joins the tail (R159). -/
theorem produce_holding_of_lt (e : Entry) (h : s.area.holding.length < 16) :
    (s.produce e).area.holding = s.area.holding ++ [{ time := s.now, entry := e }] := by
  simp [produce, Config.holdingCapacity, h]

/-- A record produced without room leaves the queue as it was (R159). -/
theorem produce_holding_of_ge (e : Entry) (h : 16 ≤ s.area.holding.length) :
    (s.produce e).area.holding = s.area.holding := by
  unfold produce
  rw [if_neg (by simp [Config.holdingCapacity]; omega)]
  dsimp only
  split <;> rfl

/-- Records that wait go on waiting when one is produced (R159). -/
theorem produce_holding_prefix (e : Entry) : s.area.holding <+: (s.produce e).area.holding := by
  by_cases h : s.area.holding.length < 16
  · rw [produce_holding_of_lt s e h]
    exact List.prefix_append _ _
  · rw [produce_holding_of_ge s e (by omega)]

/-- Producing a record does not touch the cause AREA_FAULT. -/
@[simp] theorem produce_areaFault (e : Entry) :
    (s.produce e).control.cause &&& Cause.areaFault.bit = s.control.cause &&& Cause.areaFault.bit := by
  unfold produce
  split
  · rfl
  · dsimp only
    split
    · ext i hi
      simp only [setCause, RunControl.setCause, Cause.bit, BitVec.getElem_and, BitVec.getElem_or]
      interval_cases i <;> simp
    · rfl

@[simp] theorem reportEnded_areaFault (k : Option (Fin 16)) (b : Byte) (f : Bool) (r : OrderReason) (x : Results) :
    (s.reportEnded k b f r x).control.cause &&& Cause.areaFault.bit = s.control.cause &&& Cause.areaFault.bit :=
  produce_areaFault ..

theorem reportEnded_holding_prefix (k : Option (Fin 16)) (b : Byte) (f : Bool) (r : OrderReason) (x : Results) :
    s.area.holding <+: (s.reportEnded k b f r x).area.holding := produce_holding_prefix ..

/-! ### Abandonment -/

/-- What abandoning an operation keeps: waiting records, the cause AREA_FAULT, and the plan side of the Area
Interface. -/
structure Keeps (t : State) : Prop where
  holding : s.area.holding <+: t.area.holding
  areaFault : t.control.cause &&& Cause.areaFault.bit = s.control.cause &&& Cause.areaFault.bit
  sweepNumber : t.area.sweepNumber = s.area.sweepNumber
  uplinkRows : t.area.uplinkRows = s.area.uplinkRows
  planMark : t.area.planMark = s.area.planMark
  position : t.area.position = s.area.position
  newsMark : t.area.newsMark = s.area.newsMark
  blocked : t.area.blocked = s.area.blocked
  writer : t.area.writer = s.area.writer
  stopTry : t.area.stopTry = s.area.stopTry
  startCommand : t.area.startCommand = s.area.startCommand
  adoptPage : t.area.adoptPage = s.area.adoptPage

theorem Keeps.refl : Keeps s s := ⟨List.prefix_refl _, rfl, rfl, rfl, rfl, rfl, rfl, rfl, rfl, rfl, rfl, rfl⟩

variable {s}

theorem Keeps.trans {t u : State} (a : Keeps s t) (b : Keeps t u) : Keeps s u :=
  ⟨a.holding.trans b.holding, b.areaFault.trans a.areaFault, b.sweepNumber.trans a.sweepNumber,
    b.uplinkRows.trans a.uplinkRows, b.planMark.trans a.planMark, b.position.trans a.position,
    b.newsMark.trans a.newsMark, b.blocked.trans a.blocked, b.writer.trans a.writer, b.stopTry.trans a.stopTry,
    b.startCommand.trans a.startCommand, b.adoptPage.trans a.adoptPage⟩

variable (s)

theorem Keeps.reportEnded (k : Option (Fin 16)) (b : Byte) (f : Bool) (r : OrderReason) (x : Results) :
    Keeps s (s.reportEnded k b f r x) := by
  refine ⟨reportEnded_holding_prefix .., reportEnded_areaFault .., ?_, ?_, ?_, ?_, ?_, ?_, ?_, ?_, ?_, ?_⟩ <;>
    simp [State.reportEnded]

theorem Keeps.abandonTaking : Keeps s s.abandonTaking := by
  unfold State.abandonTaking
  split
  · exact .refl s
  · next o _ =>
    exact Keeps.trans (t := State.dropHold { s with area := { s.area with taking := none } } o.slot)
      ⟨List.prefix_refl _, rfl, rfl, rfl, rfl, rfl, rfl, rfl, rfl, rfl, rfl, rfl⟩ (Keeps.reportEnded _ _ _ _ _ _)

theorem Keeps.abandonCompletion (c : Completion) : Keeps s (s.abandonCompletion c) :=
  Keeps.trans (t := s.closeCompletion c.slot)
    ⟨List.prefix_refl _, rfl, rfl, rfl, rfl, rfl, rfl, rfl, rfl, rfl, rfl, rfl⟩ (Keeps.reportEnded _ _ _ _ _ _)

theorem Keeps.dropSweep (p : AreaAccess → Bool) : Keeps s ((s.dropAccesses p).setSweep none) :=
  ⟨List.prefix_refl _, rfl, rfl, rfl, rfl, rfl, rfl, rfl, rfl, rfl, rfl, rfl⟩

theorem Keeps.abandonSweep : Keeps s s.abandonSweep := by
  unfold State.abandonSweep
  split
  · exact .refl s
  · have h := fun p => Keeps.trans (Keeps.dropSweep s p) (Keeps.abandonTaking _)
    dsimp only
    split
    · exact Keeps.trans (h _) (Keeps.abandonCompletion _ _)
    · exact h _

theorem Keeps.dropSnapshot (k : Fin 16) :
    Keeps s ((((s.setSnapshot none).discardAccess (· == .snapshot)).dropAccesses AreaAccess.isSnapshot).dropHold k) :=
  ⟨List.prefix_refl _, rfl, rfl, rfl, rfl, rfl, rfl, rfl, rfl, rfl, rfl, rfl⟩

theorem Keeps.abandonSnapshot : Keeps s s.abandonSnapshot := by
  unfold State.abandonSnapshot
  split
  · exact .refl s
  · exact Keeps.trans (Keeps.dropSnapshot s _) (Keeps.reportEnded _ _ _ _ _ _)

theorem Keeps.abandonCompletions (l : List Completion) : Keeps s (l.foldl State.abandonCompletion s) := by
  induction l generalizing s with
  | nil => exact .refl s
  | cons c t ih => exact Keeps.trans (Keeps.abandonCompletion s c) (ih _)

@[simp] theorem abandonTaking_area_sweep : s.abandonTaking.area.sweep = s.area.sweep := by
  unfold State.abandonTaking
  split
  · rfl
  · simp only [State.reportEnded, produce_area_sweep]
    rfl

@[simp] theorem abandonCompletion_area_sweep (c : Completion) :
    (s.abandonCompletion c).area.sweep = s.area.sweep := by
  simp only [State.abandonCompletion, State.reportEnded, produce_area_sweep]
  rfl

/-- An abandoned sweep has no record (R150). -/
@[simp] theorem abandonSweep_area_sweep : s.abandonSweep.area.sweep = none := by
  unfold State.abandonSweep
  split
  · assumption
  · dsimp only
    split
    · simp only [abandonCompletion_area_sweep, abandonTaking_area_sweep]
      rfl
    · simp only [abandonTaking_area_sweep]
      rfl

@[simp] theorem abandonSnapshot_area_sweep : s.abandonSnapshot.area.sweep = s.area.sweep := by
  unfold State.abandonSnapshot
  split <;> simp [State.reportEnded]

/-- An abandoned snapshot has no record (R92). -/
@[simp] theorem abandonSnapshot_store_snapshot : s.abandonSnapshot.store.snapshot = none := by
  unfold State.abandonSnapshot
  split
  · assumption
  · simp

/-- Entry into HEADLESS: the run state, its reason and its time; the sweep, the snapshot, every area access and the
sweep timer are gone; waiting records stay (R92, R150, R157, R158, R166, R167). -/
structure EntersHeadless (r : HeadlessReason) (t : State) : Prop where
  settings : t.control.settings = { s.control.settings with
    runState := .headless, headlessReason := some r, headlessSince := some s.now }
  holding : s.area.holding <+: t.area.holding
  areaFault : t.control.cause &&& Cause.areaFault.bit = s.control.cause &&& Cause.areaFault.bit
  sweep : t.area.sweep = none
  snapshot : t.store.snapshot = none
  flight : t.area.flight = none
  waiting : t.area.waiting = []
  requested : t.area.requested = []
  sweepTimer : t.area.sweepTimer = none
  dueMark : t.area.dueMark = false
  sweepNumber : t.area.sweepNumber = s.area.sweepNumber
  uplinkRows : t.area.uplinkRows = s.area.uplinkRows
  planMark : t.area.planMark = s.area.planMark
  position : t.area.position = s.area.position
  newsMark : t.area.newsMark = s.area.newsMark

theorem enterHeadless_spec (r : HeadlessReason) : EntersHeadless s r (s.enterHeadless r) := by
  have k : Keeps s (s.abandonSweep.abandonSnapshot.area.completions.foldl State.abandonCompletion
      s.abandonSweep.abandonSnapshot) :=
    .trans (.trans (.abandonSweep s) (.abandonSnapshot _)) (.abandonCompletions _ _)
  have w : ∀ (l : List Completion) (t : State), (l.foldl State.abandonCompletion t).area.sweep = t.area.sweep := by
    intro l
    induction l with
    | nil => intro t; rfl
    | cons c l ih =>
      intro t
      rw [List.foldl_cons, ih, abandonCompletion_area_sweep]
  have e : ∀ t : State, t.abandonArea.control.settings = t.control.settings := fun t => by simp
  refine ⟨?_, k.holding, k.areaFault, ?_, ?_, rfl, rfl, rfl, rfl, rfl, k.sweepNumber, k.uplinkRows, k.planMark,
    k.position, k.newsMark⟩
  · have h : s.abandonSweep.abandonSnapshot.abandonArea.control.settings = s.control.settings := by simp
    have n : s.abandonSweep.abandonSnapshot.abandonArea.control.now = s.control.now := now_of_settings h
    simp only [RunControl.settings, RunControl.mk.injEq] at h
    simp only [enterHeadless, stopSweeps, RunControl.settings, RunControl.mk.injEq, now]
    simp_all
  · show (_ : State).area.sweep = none
    simp only [enterHeadless, stopSweeps, abandonArea]
    rw [w]
    simp
  · simp [enterHeadless]

end Sys2Proof.Machine.State
end

