-- ==== Sys2Proof/Laws/Reports.lean ====
section
/-! SUPPORT. A record that was produced stays reported: in the holding queue, or dropped from a full one. -/

namespace Sys2Proof.Machine.State

variable (s : State)

/-- A record produced is reported (R159). -/
theorem produce_reports (e : Entry) : (s.produce e).Reports s.now e := by
  by_cases h : s.area.holding.length < 16
  · left
    simp [produce_holding_of_lt s e h]
  · right
    rw [produce_holding_of_ge s e (by omega)]
    refine ⟨by omega, ?_⟩
    unfold produce
    rw [if_neg (by simpa [Config.holdingCapacity] using h)]
    dsimp only
    split <;> rfl

/-- What is reported stays reported where neither the holding queue nor the last drop changes. -/
theorem Reports.of_eq {s t : State} {now : PartTime} {e : Entry} (h : s.Reports now e)
    (holding : t.area.holding = s.area.holding) (last : t.area.lastDrop = s.area.lastDrop) : t.Reports now e := by
  unfold Reports
  rw [holding, last]
  exact h

/-- What is reported stays reported when another record is produced in the same event. -/
theorem Reports.produce {s : State} {e : Entry} (h : s.Reports s.now e) (f : Entry) : (s.produce f).Reports s.now e := by
  rcases h with h | ⟨h, l⟩
  · exact Or.inl ((produce_holding_prefix s f).subset h)
  · right
    rw [produce_holding_of_ge s f h]
    refine ⟨h, ?_⟩
    unfold State.produce
    rw [if_neg (by simp [Config.holdingCapacity]; omega)]
    dsimp only
    split <;> rfl

/-- What is reported stays reported at the end of the event. -/
theorem Reports.settleArea {s : State} {now : PartTime} {e : Entry} (h : s.Reports now e) :
    s.settleArea.Reports now e := h.of_eq (by simp) (by simp)

/-! ### Completions -/

/-- The flush step and the page after it keep completions, records and slot holds (R146). -/
theorem resumeFlush_completions : s.resumeFlush.area.completions = s.area.completions := by
  unfold resumeFlush beginPage sweepTo
  split <;> (try split) <;> rfl

theorem resumeFlush_holding : s.resumeFlush.area.holding = s.area.holding := by
  unfold resumeFlush beginPage sweepTo
  split <;> (try split) <;> rfl

theorem resumeFlush_lastDrop : s.resumeFlush.area.lastDrop = s.area.lastDrop := by
  unfold resumeFlush beginPage sweepTo
  split <;> (try split) <;> rfl

theorem resumeFlush_slotHolds : s.resumeFlush.area.slotHolds = s.area.slotHolds := by
  unfold resumeFlush beginPage sweepTo
  split <;> (try split) <;> rfl

/-- The sweep's going on after an order slot keeps completions, records and slot holds (R155). -/
theorem awaitSlot_completions (k : Fin 16) : (s.awaitSlot k).area.completions = s.area.completions := by
  unfold awaitSlot afterSlot sweepTo beginFlush
  split <;> (try split) <;> (try rw [resumeFlush_completions]) <;> rfl

theorem awaitSlot_holding (k : Fin 16) : (s.awaitSlot k).area.holding = s.area.holding := by
  unfold awaitSlot afterSlot sweepTo beginFlush
  split <;> (try split) <;> (try rw [resumeFlush_holding]) <;> rfl

theorem awaitSlot_lastDrop (k : Fin 16) : (s.awaitSlot k).area.lastDrop = s.area.lastDrop := by
  unfold awaitSlot afterSlot sweepTo beginFlush
  split <;> (try split) <;> (try rw [resumeFlush_lastDrop]) <;> rfl

theorem awaitSlot_slotHolds (k : Fin 16) : (s.awaitSlot k).area.slotHolds = s.area.slotHolds := by
  unfold awaitSlot afterSlot sweepTo beginFlush
  split <;> (try split) <;> (try rw [resumeFlush_slotHolds]) <;> rfl

/-- Completing an order completes it (R156). -/
theorem completeOrder_completes (slot : Option (Fin 16)) (kind : OrderKind) (failed : Bool) (reason : OrderReason)
    (results : Results) :
    s.Completes (s.completeOrder slot kind failed reason results) slot kind failed reason results := by
  unfold Completes completeOrder
  cases h : s.held slot with
  | none => exact produce_reports s _
  | some k =>
    by_cases r : s.control.runState = .running
    · simp [r, beginCompletion, request]
    · simp only [r, if_false]
      refine ⟨produce_reports (s.dropHold k) _, ?_⟩
      simp [reportEnded, dropHold, Vector.get_eq_getElem]

/-- A completion stays where completions, records and slot holds stay. -/
theorem Completes.of_eq {s t v : State} {slot : Option (Fin 16)} {kind : OrderKind} {failed : Bool}
    {reason : OrderReason} {results : Results} (h : s.Completes t slot kind failed reason results)
    (completions : v.area.completions = t.area.completions) (holding : v.area.holding = t.area.holding)
    (last : v.area.lastDrop = t.area.lastDrop) (holds : v.area.slotHolds = t.area.slotHolds) :
    s.Completes v slot kind failed reason results := by
  unfold Completes Reports at *
  rw [completions, holding, last]
  cases k : s.held slot with
  | none => rw [k] at h; exact h
  | some k' => rw [k] at h; simp only [holds]; exact h

/-- An order's completion stands after the hand-over has ended (R155). -/
theorem Completes.handedOver {s t : State} {slot : Option (Fin 16)} {kind : OrderKind} {failed : Bool}
    {reason : OrderReason} {results : Results} (h : s.Completes t slot kind failed reason results) (k : Fin 16) :
    s.Completes (t.awaitSlot k).settleArea slot kind failed reason results :=
  h.of_eq (by simp [awaitSlot_completions]) (by simp [awaitSlot_holding]) (by simp [awaitSlot_lastDrop])
    (by simp [awaitSlot_slotHolds])

end Sys2Proof.Machine.State
end

