-- ==== Sys2Proof/Laws/Produced.lean ====
section
/-! SUPPORT. Which records an event produces: `Produced` is closed under what follows in the event, and what entry into
HEADLESS and STOP end is reported by ORDER_ENDED records and no others. -/

namespace Sys2Proof.Machine.State

/-! ### Records produced one after the other (R159) -/

theorem Produced.refl (s : State) : s.Produced s [] :=
  ⟨by simp, fun _ => ⟨rfl, rfl, rfl⟩, fun h => absurd h (by simp)⟩

/-- Producing one record produces it. -/
theorem Produced.produce (s : State) (e : Entry) : s.Produced (s.produce e) [e] := by
  by_cases h : s.area.holding.length < 16
  · have room : 1 ≤ 16 - s.area.holding.length := by omega
    refine ⟨?_, fun _ => ?_, fun k => ?_⟩
    · rw [produce_holding_of_lt s e h, List.take_of_length_le (by simpa using room)]
      rfl
    · simp [State.produce, Config.holdingCapacity, h]
    · simp at k
      omega
  · have room : 16 - s.area.holding.length = 0 := by omega
    refine ⟨?_, fun k => ?_, fun _ => ?_⟩
    · rw [produce_holding_of_ge s e (by omega), room]
      simp
    · rw [room] at k
      simp at k
    · unfold State.produce
      rw [if_neg (by simpa [Config.holdingCapacity] using h)]
      dsimp only
      split <;> simp [State.setCause, saturate, *]

variable {s t v : State}

/-- What two parts of an event produce, the event produces in that order. -/
theorem Produced.trans {l m : List Entry} (a : s.Produced t l) (b : t.Produced v m) (now : t.now = s.now) :
    s.Produced v (l ++ m) := by
  obtain ⟨a1, a2, a3⟩ := a
  obtain ⟨b1, b2, b3⟩ := b
  have size : t.area.holding.length = s.area.holding.length + min (16 - s.area.holding.length) l.length := by
    rw [a1]
    simp
  have stamp : (fun e => ({ time := t.now, entry := e } : Record)) = fun e => { time := s.now, entry := e } := by rw [now]
  refine ⟨?_, fun h => ?_, fun h => ?_⟩
  · rw [size] at b1
    rw [b1, a1, stamp, List.take_append, List.map_append, List.append_assoc]
    congr 4
    omega
  · rw [List.length_append] at h
    obtain ⟨x, y, z⟩ := a2 (by omega)
    obtain ⟨x', y', z'⟩ := b2 (by omega)
    exact ⟨x'.trans x, y'.trans y, z'.trans z⟩
  · rw [List.length_append] at h ⊢
    by_cases k : l.length ≤ 16 - s.area.holding.length
    · obtain ⟨x, y, z⟩ := a2 k
      obtain ⟨x', y', z'⟩ := b3 (by omega)
      rw [x', y', z', x, y, now]
      exact ⟨by congr 2; omega, rfl, rfl⟩
    · obtain ⟨x, y, z⟩ := a3 (by omega)
      by_cases e : m.length = 0
      · obtain ⟨x', y', z'⟩ := b2 (by omega)
        rw [x', y', z', x, y, z, e]
        exact ⟨by congr 2, rfl, rfl⟩
      · obtain ⟨x', y', z'⟩ := b3 (by omega)
        rw [x', y', z', x, now, z, if_neg (by omega)]
        exact ⟨by omega, rfl, rfl⟩

/-- What was produced stays so where neither the holding queue nor the gap changes. -/
theorem Produced.of_eq {l : List Entry} (h : s.Produced t l) (holding : v.area.holding = t.area.holding)
    (gap : v.area.gapCount = t.area.gapCount) (first : v.area.firstDrop = t.area.firstDrop)
    (last : v.area.lastDrop = t.area.lastDrop) : s.Produced v l := by
  unfold Produced at *
  rw [holding, gap, first, last]
  exact h

/-- A record produced is reported (R159). -/
theorem Produced.reports {l : List Entry} (h : s.Produced t l) {e : Entry} (m : e ∈ l) (full : 16 ≤ t.area.holding.length ∨
    l.length ≤ 16 - s.area.holding.length) : t.Reports s.now e := by
  by_cases k : l.length ≤ 16 - s.area.holding.length
  · left
    rw [h.1, List.take_of_length_le k]
    exact List.mem_append_right _ (List.mem_map_of_mem m)
  · exact Or.inr ⟨full.resolve_right k, (h.2.2 (by omega)).2.1⟩

/-! ### Orders ended (R92, R150, R156) -/

/-- Between `s` and `t` exactly the records of `l` were produced, at one part time. -/
def Ends (s t : State) (l : List Entry) : Prop := t.now = s.now ∧ s.Produced t l

theorem Ends.quiet (now : t.now = s.now) (holding : t.area.holding = s.area.holding)
    (gap : t.area.gapCount = s.area.gapCount) (first : t.area.firstDrop = s.area.firstDrop)
    (last : t.area.lastDrop = s.area.lastDrop) : Ends s t [] :=
  ⟨now, (Produced.refl s).of_eq holding gap first last⟩

theorem Ends.trans {l m : List Entry} (a : Ends s t l) (b : Ends t v m) : Ends s v (l ++ m) :=
  ⟨b.1.trans a.1, a.2.trans b.2 a.1⟩

variable (s)

theorem Ends.reportEnded (slot : Option (Fin 16)) (kind : Byte) (failed : Bool) (reason : OrderReason)
    (results : Results) :
    Ends s (s.reportEnded slot kind failed reason results) [.orderEnded slot kind failed reason results] :=
  ⟨by simp [State.reportEnded], .produce s _⟩

/-- The order whose TAKEN write is abandoned is reported. -/
theorem Ends.abandonTaking : Ends s s.abandonTaking (s.area.taking.toList.map fun o =>
    .orderEnded (some o.slot) o.kind.byte true .abandoned Results.zero) := by
  unfold State.abandonTaking
  split
  · next h =>
    rw [h]
    exact Ends.quiet rfl rfl rfl rfl rfl
  · next o h =>
    rw [h]
    exact (Ends.quiet (t := State.dropHold { s with area := { s.area with taking := none } } o.slot) rfl rfl rfl rfl
      rfl).trans (Ends.reportEnded _ _ _ _ _ _)

theorem Ends.abandonCompletion (c : Completion) : Ends s (s.abandonCompletion c) [c.ended] :=
  (Ends.quiet (s := s) (t := s.closeCompletion c.slot) rfl rfl rfl rfl rfl).trans (Ends.reportEnded _ _ _ _ _ _)

theorem Ends.abandonCompletions (l : List Completion) :
    Ends s (l.foldl State.abandonCompletion s) (l.map Completion.ended) := by
  induction l generalizing s with
  | nil => exact Ends.quiet rfl rfl rfl rfl rfl
  | cons c t ih => exact (Ends.abandonCompletion s c).trans (ih _)

/-- The completion that a sweep waits for is the one in progress at the slot it waits for. -/
theorem sweepCompletion_eq_bind : s.sweepCompletion = s.waitedSlot.bind s.completion := by
  unfold State.sweepCompletion State.waitedSlot
  cases s.area.sweep with
  | none => rfl
  | some r =>
    dsimp only
    split <;> simp_all

/-- An abandoned sweep reports the order it has not handed over and the completion it waits for (R150). -/
theorem Ends.abandonSweep : Ends s s.abandonSweep s.sweepEnds := by
  unfold State.abandonSweep State.sweepEnds
  rw [← sweepCompletion_eq_bind]
  split
  · next h =>
    rw [if_pos h]
    exact Ends.quiet rfl rfl rfl rfl rfl
  · next h =>
    rw [if_neg (by simp [h])]
    have taking := fun p => Ends.trans (Ends.quiet (s := s) (t := (s.dropAccesses p).setSweep none) rfl rfl rfl rfl rfl)
      (Ends.abandonTaking _)
    dsimp only
    split
    · next c e =>
      rw [e]
      exact (taking _).trans (Ends.abandonCompletion _ _)
    · next e =>
      rw [e, Option.toList_none, List.map_nil, List.append_nil]
      exact taking _

/-- An abandoned snapshot is reported with the buckets it has read (R92). -/
theorem Ends.abandonSnapshot : Ends s s.abandonSnapshot s.snapshotEnds := by
  unfold State.abandonSnapshot State.snapshotEnds
  split
  · next h =>
    rw [h]
    exact Ends.quiet rfl rfl rfl rfl rfl
  · next r h =>
    rw [h]
    exact (Ends.quiet (s := s) (t := (((s.setSnapshot none).discardAccess (· == .snapshot)).dropAccesses
      AreaAccess.isSnapshot).dropHold r.slot) rfl rfl rfl rfl rfl).trans (Ends.reportEnded _ _ _ _ _ _)

end Sys2Proof.Machine.State
end

