-- ==== Sys2Proof/Laws/Abandon.lean ====
section
/-! SUPPORT. What the abandonment of a sweep, a snapshot and the area accesses leaves: the completions in progress, the slot
holds, and the rest of the Area Interface; and entry into HEADLESS as a whole. -/

namespace Sys2Proof.Machine.State

variable (s : State)

/-! ### The parts of the Area Interface that abandonment may change -/

/-- `b` is `a` but for what the abandonment of operations and the records of their orders may change. -/
def SameLedger (a b : AreaInterface) : Prop := b = { a with
  sweep := b.sweep, completions := b.completions, flight := b.flight, waiting := b.waiting, requested := b.requested
  taking := b.taking, slotHolds := b.slotHolds, holding := b.holding, gapCount := b.gapCount
  firstDrop := b.firstDrop, lastDrop := b.lastDrop }

theorem SameLedger.trans {a b c : AreaInterface} (h : SameLedger a b) (k : SameLedger b c) : SameLedger a c := by
  unfold SameLedger at *
  rw [k, h]

theorem SameLedger.produce (e : Entry) : SameLedger s.area (s.produce e).area := by
  unfold State.produce SameLedger
  split
  · rfl
  · dsimp only
    split <;> rfl

theorem SameLedger.reportEnded (slot : Option (Fin 16)) (kind : Byte) (failed : Bool) (reason : OrderReason)
    (results : Results) : SameLedger s.area (s.reportEnded slot kind failed reason results).area := .produce _ _

theorem SameLedger.abandonTaking : SameLedger s.area s.abandonTaking.area := by
  unfold State.abandonTaking
  split
  · rfl
  · exact SameLedger.trans (b := (State.dropHold { s with area := { s.area with taking := none } } _).area) rfl
      (.reportEnded _ _ _ _ _ _)

theorem SameLedger.abandonCompletion (c : Completion) : SameLedger s.area (s.abandonCompletion c).area :=
  SameLedger.trans (b := (s.closeCompletion c.slot).area) rfl (.reportEnded _ _ _ _ _ _)

theorem SameLedger.abandonCompletions (l : List Completion) :
    SameLedger s.area (l.foldl State.abandonCompletion s).area := by
  induction l generalizing s with
  | nil => rfl
  | cons c l ih => exact (SameLedger.abandonCompletion s c).trans (ih _)

theorem SameLedger.abandonSweep : SameLedger s.area s.abandonSweep.area := by
  have taking := fun p => SameLedger.trans (b := State.area ((s.dropAccesses p).setSweep none)) (c := State.area _) rfl
    (.abandonTaking _)
  unfold State.abandonSweep
  split
  · rfl
  · dsimp only
    split
    · exact (taking _).trans (.abandonCompletion _ _)
    · exact taking _

theorem SameLedger.abandonSnapshot : SameLedger s.area s.abandonSnapshot.area := by
  unfold State.abandonSnapshot
  split
  · rfl
  · exact SameLedger.trans (b := ((((s.setSnapshot none).discardAccess (· == .snapshot)).dropAccesses
      AreaAccess.isSnapshot).dropHold _).area) rfl (.reportEnded _ _ _ _ _ _)

/-! ### The order in hand -/

theorem taking_abandonCompletion (c : Completion) : (s.abandonCompletion c).area.taking = s.area.taking := by
  simp only [State.abandonCompletion, State.reportEnded, produce_area_taking]
  rfl

theorem taking_abandonCompletions (l : List Completion) :
    (l.foldl State.abandonCompletion s).area.taking = s.area.taking := by
  induction l generalizing s with
  | nil => rfl
  | cons c l ih => rw [List.foldl_cons, ih, taking_abandonCompletion]

theorem taking_abandonTaking : s.abandonTaking.area.taking = none := by
  unfold State.abandonTaking
  split
  · assumption
  · simp only [State.reportEnded, produce_area_taking]
    rfl

/-- An abandoned sweep leaves no order in hand (R150). -/
theorem taking_abandonSweep :
    s.abandonSweep.area.taking = if s.area.sweep = none then s.area.taking else none := by
  unfold State.abandonSweep
  split
  · next h => simp [h]
  · next h =>
    rw [if_neg (by simp [h])]
    dsimp only
    split
    · rw [taking_abandonCompletion, taking_abandonTaking]
    · rw [taking_abandonTaking]

theorem taking_abandonSnapshot : s.abandonSnapshot.area.taking = s.area.taking := by
  unfold State.abandonSnapshot
  split
  · rfl
  · simp only [State.reportEnded, produce_area_taking]
    rfl

/-! ### The completions in progress (R150, R156) -/

/-- A completion found in progress at a slot is that slot's. -/
theorem completion_mem {k : Fin 16} {c : Completion} (h : s.completion k = some c) :
    c ∈ s.area.completions ∧ c.slot = k := by
  unfold State.completion at h
  exact ⟨List.mem_of_find?_eq_some h, by simpa using List.find?_some h⟩

theorem completion_ne_none (k : Fin 16) : s.completion k ≠ none ↔ ∃ c ∈ s.area.completions, c.slot = k := by
  unfold State.completion
  rw [ne_eq, List.find?_eq_none]
  simp

/-- The completion that a sweep waits for is the one in progress at the slot its phase names. -/
theorem sweepCompletion_eq_some {c : Completion} : s.sweepCompletion = some c ↔
    ∃ r, s.area.sweep = some r ∧ r.phase = .slotWrite c.slot ∧ s.completion c.slot = some c := by
  unfold State.sweepCompletion
  constructor
  · intro h
    split at h
    · next r hr =>
      split at h
      · next k hk =>
        have e := (completion_mem s h).2
        exact ⟨r, hr, by rw [hk, e], by rw [e]; exact h⟩
      · cases h
    · cases h
  · rintro ⟨r, hr, hp, hc⟩
    rw [hr]
    simp only [hp]
    exact hc

theorem completions_abandonTaking : s.abandonTaking.area.completions = s.area.completions := by
  unfold State.abandonTaking
  split
  · rfl
  · simp only [State.reportEnded, produce_area_completions]
    rfl

theorem completions_abandonCompletion (c : Completion) : (s.abandonCompletion c).area.completions
    = s.area.completions.filter fun d => !(d.slot == c.slot) := by
  simp only [State.abandonCompletion, State.reportEnded, produce_area_completions]
  rfl

/-- An abandoned sweep ends the completion it waits for, and no other. -/
theorem completions_abandonSweep : s.abandonSweep.area.completions = match s.sweepCompletion with
    | some c => s.area.completions.filter fun d => !(d.slot == c.slot)
    | none => s.area.completions := by
  unfold State.abandonSweep
  split
  · next h => simp [State.sweepCompletion, h]
  · dsimp only
    split
    · next c hc =>
      rw [completions_abandonCompletion, completions_abandonTaking, hc]
      rfl
    · next hc =>
      rw [completions_abandonTaking, hc]
      rfl

theorem mem_completions_abandonSweep {c : Completion} : c ∈ s.abandonSweep.area.completions
    ↔ c ∈ s.area.completions ∧ ∀ d, s.sweepCompletion = some d → c.slot ≠ d.slot := by
  rw [completions_abandonSweep]
  cases s.sweepCompletion <;> simp

theorem completions_abandonSnapshot : s.abandonSnapshot.area.completions = s.area.completions := by
  unfold State.abandonSnapshot
  split
  · rfl
  · simp only [State.reportEnded, produce_area_completions]
    rfl

/-- Completions whose slots a list names end with that list. -/
theorem completions_abandonCompletions (l : List Completion) (h : ∀ c ∈ s.area.completions, ∃ d ∈ l, d.slot = c.slot) :
    (l.foldl State.abandonCompletion s).area.completions = [] := by
  induction l generalizing s with
  | nil => exact List.eq_nil_iff_forall_not_mem.2 fun c hc => by simpa using h c hc
  | cons c l ih =>
    rw [List.foldl_cons]
    refine ih _ fun d hd => ?_
    rw [completions_abandonCompletion] at hd
    simp only [List.mem_filter, Bool.not_eq_true', beq_eq_false_iff_ne, ne_eq] at hd
    obtain ⟨e, he, hs⟩ := h d hd.1
    rcases List.mem_cons.1 he with he | he
    · subst he
      exact absurd hs.symm hd.2
    · exact ⟨e, he, hs⟩

/-! ### The slot holds (R156, R157) -/

theorem slotHolds_dropHold (k j : Fin 16) :
    (s.dropHold k).area.slotHolds.get j = if j = k then none else s.area.slotHolds.get j := by
  simp only [State.dropHold, Vector.get_eq_getElem, Vector.getElem_set]
  by_cases h : j = k
  · subst h
    simp
  · rw [if_neg h, if_neg]
    exact fun hh => h (Fin.ext hh.symm)

theorem slotHolds_abandonCompletion (c : Completion) (j : Fin 16) :
    (s.abandonCompletion c).area.slotHolds.get j = if j = c.slot then none else s.area.slotHolds.get j := by
  simp only [State.abandonCompletion, State.reportEnded, produce_area_slotHolds]
  exact slotHolds_dropHold s c.slot j

theorem slotHolds_abandonCompletions (l : List Completion) (j : Fin 16) :
    (l.foldl State.abandonCompletion s).area.slotHolds.get j
      = if ∃ c ∈ l, c.slot = j then none else s.area.slotHolds.get j := by
  induction l generalizing s with
  | nil => simp
  | cons c l ih =>
    rw [List.foldl_cons, ih, slotHolds_abandonCompletion]
    by_cases h : ∃ d ∈ l, d.slot = j
    · obtain ⟨d, a, b⟩ := h
      rw [if_pos ⟨d, a, b⟩, if_pos ⟨d, List.mem_cons_of_mem _ a, b⟩]
    · rw [if_neg h]
      by_cases k : j = c.slot
      · rw [if_pos k, if_pos ⟨c, List.mem_cons_self, k.symm⟩]
      · rw [if_neg k, if_neg]
        rintro ⟨d, a, b⟩
        rcases List.mem_cons.1 a with a | a
        · subst a
          exact k b.symm
        · exact h ⟨d, a, b⟩

theorem slotHolds_abandonTaking (j : Fin 16) : s.abandonTaking.area.slotHolds.get j
    = if ∃ o, s.area.taking = some o ∧ o.slot = j then none else s.area.slotHolds.get j := by
  unfold State.abandonTaking
  split
  · next h => simp [h]
  · next o h =>
    simp only [State.reportEnded, produce_area_slotHolds, slotHolds_dropHold, h]
    by_cases k : j = o.slot
    · rw [if_pos k, if_pos ⟨o, rfl, k.symm⟩]
    · rw [if_neg k, if_neg]
      rintro ⟨o', a, b⟩
      cases a
      exact k b.symm

theorem slotHolds_abandonSnapshot (j : Fin 16) : s.abandonSnapshot.area.slotHolds.get j
    = if ∃ r, s.store.snapshot = some r ∧ r.slot = j then none else s.area.slotHolds.get j := by
  unfold State.abandonSnapshot
  split
  · next h => simp [h]
  · next o h =>
    simp only [State.reportEnded, produce_area_slotHolds, slotHolds_dropHold]
    by_cases k : j = o.slot
    · rw [if_pos k, if_pos ⟨o, h, k.symm⟩]
    · rw [if_neg k, if_neg]
      · rfl
      · rintro ⟨o', a, b⟩
        rw [h] at a
        cases a
        exact k b.symm

/-- An abandoned sweep drops the holds of the order in hand and of the completion it waits for, and no other. -/
theorem slotHolds_abandonSweep (j : Fin 16) : s.abandonSweep.area.slotHolds.get j
    = if (s.area.sweep ≠ none ∧ ∃ o, s.area.taking = some o ∧ o.slot = j)
        ∨ (∃ c, s.sweepCompletion = some c ∧ c.slot = j) then none
      else s.area.slotHolds.get j := by
  unfold State.abandonSweep
  split
  · next h => simp [h, State.sweepCompletion]
  · next h =>
    have taken : ∀ p, (State.setSweep (s.dropAccesses p) none).area.taking = s.area.taking := fun _ => rfl
    have holds : ∀ p, (State.setSweep (s.dropAccesses p) none).area.slotHolds = s.area.slotHolds := fun _ => rfl
    dsimp only
    split
    · next c hc =>
      rw [slotHolds_abandonCompletion, slotHolds_abandonTaking, taken, holds]
      simp only [hc, h]
      by_cases a : j = c.slot
      · simp [a]
      · by_cases b : ∃ o, s.area.taking = some o ∧ o.slot = j
        · rw [if_neg a, if_pos b, if_pos (.inl ⟨by simp, b⟩)]
        · rw [if_neg a, if_neg b, if_neg]
          rintro (⟨_, x⟩ | ⟨c', x, y⟩)
          · exact b x
          · cases x
            exact a y.symm
    · next hc =>
      rw [slotHolds_abandonTaking, taken, holds]
      simp [hc, h]

/-! ### Entry into HEADLESS as a whole (R92, R150, R157, R160, R167) -/

theorem enterHeadless_area (r : HeadlessReason) : (s.enterHeadless r).area = { s.area with
    sweep := none, sweepTimer := none, dueMark := false, completions := [], writer := .idle, stopTry := none
    startCommand := none, adoptPage := false, flight := none, waiting := [], requested := []
    taking := if s.area.sweep = none then s.area.taking else none
    slotHolds := (s.enterHeadless r).area.slotHolds, holding := (s.enterHeadless r).area.holding
    gapCount := (s.enterHeadless r).area.gapCount
    firstDrop := (s.enterHeadless r).area.firstDrop, lastDrop := (s.enterHeadless r).area.lastDrop } := by
  let v := s.abandonSweep.abandonSnapshot
  let w := v.area.completions.foldl State.abandonCompletion v
  have ledger : SameLedger s.area w.area :=
    ((SameLedger.abandonSweep s).trans (.abandonSnapshot _)).trans (.abandonCompletions _ _)
  have taken : w.area.taking = if s.area.sweep = none then s.area.taking else none := by
    rw [taking_abandonCompletions, taking_abandonSnapshot, taking_abandonSweep]
  have done : w.area.completions = [] := completions_abandonCompletions _ _ fun c hc => ⟨c, hc, rfl⟩
  have sweep := (enterHeadless_spec s r).sweep
  have e : (s.enterHeadless r).area = { w.area with
      writer := .idle, stopTry := none, startCommand := none, adoptPage := false
      flight := none, waiting := [], requested := [], sweepTimer := none, dueMark := false } := rfl
  rw [e] at sweep ⊢
  generalize w.area = a at *
  simp only at sweep
  unfold SameLedger at ledger
  rw [← taken, ← done, ← sweep]
  conv => lhs; rw [ledger]

theorem enterHeadless_store (r : HeadlessReason) : (s.enterHeadless r).store = { s.store with
    snapshot := none
    access := if s.store.snapshot = none then s.store.access
      else s.store.access.map (fun a => if a.requester = .snapshot then { a with wanted := false } else a) } := by
  have kept : s.abandonSweep.store = s.store := by simp
  have e : (s.enterHeadless r).store = s.abandonSweep.abandonSnapshot.store := by simp [enterHeadless]
  rw [e]
  unfold State.abandonSnapshot
  split
  · next k =>
    rw [kept] at k ⊢
    rw [k, if_pos rfl, ← k]
  · next k =>
    rw [kept] at k
    simp [k, State.setSnapshot, State.discardAccess, State.reportEnded]

theorem enterHeadless_slotHolds (r : HeadlessReason) (k : Fin 16) : (s.enterHeadless r).area.slotHolds.get k =
    if s.completion k ≠ none ∨ (s.area.sweep ≠ none ∧ ∃ o, s.area.taking = some o ∧ o.slot = k)
        ∨ ∃ r, s.store.snapshot = some r ∧ r.slot = k then none
    else s.area.slotHolds.get k := by
  have e : (s.enterHeadless r).area.slotHolds = (s.abandonSweep.abandonSnapshot.area.completions.foldl
      State.abandonCompletion s.abandonSweep.abandonSnapshot).area.slotHolds := rfl
  have found := completion_ne_none s k
  rw [e, slotHolds_abandonCompletions, slotHolds_abandonSnapshot, slotHolds_abandonSweep, completions_abandonSnapshot,
    show s.abandonSweep.store = s.store by simp]
  by_cases other : ∃ c ∈ s.abandonSweep.area.completions, c.slot = k
  · obtain ⟨c, m, n⟩ := other
    rw [if_pos ⟨c, m, n⟩, if_pos (.inl (found.2 ⟨c, ((mem_completions_abandonSweep s).1 m).1, n⟩))]
  rw [if_neg other]
  by_cases copied : ∃ r, s.store.snapshot = some r ∧ r.slot = k
  · rw [if_pos copied, if_pos (.inr (.inr copied))]
  rw [if_neg copied]
  by_cases swept : (s.area.sweep ≠ none ∧ ∃ o, s.area.taking = some o ∧ o.slot = k)
      ∨ ∃ c, s.sweepCompletion = some c ∧ c.slot = k
  · rw [if_pos swept, if_pos]
    rcases swept with y | ⟨c, y, n⟩
    · exact .inr (.inl y)
    · obtain ⟨_, _, _, z⟩ := (sweepCompletion_eq_some s).1 y
      exact .inl (found.2 ⟨c, (completion_mem s z).1, n⟩)
  rw [if_neg swept, if_neg]
  rintro (m | z | z)
  · obtain ⟨c, m, n⟩ := found.1 m
    refine other ⟨c, (mem_completions_abandonSweep s).2 ⟨m, fun d w same => swept (.inr ⟨d, w, ?_⟩)⟩, n⟩
    rw [← same, n]
  · exact swept (.inl z)
  · exact copied z

/-- The completions in progress that an abandoned sweep leaves are those it does not wait for. -/
theorem completions_abandonSweep_ended :
    s.abandonSweep.area.completions.map Completion.ended = s.completionEnds := by
  rw [completions_abandonSweep]
  unfold completionEnds
  congr 1
  split
  · next c h =>
    obtain ⟨r, hr, hp, hc⟩ := (sweepCompletion_eq_some s).1 h
    have w : s.waitedSlot = some c.slot := by simp [waitedSlot, hr, hp]
    rw [w]
    apply List.filter_congr
    intro d _
    by_cases e : d.slot = c.slot <;> simp [e]
  · next h =>
    rw [sweepCompletion_eq_bind] at h
    refine (List.filter_eq_self.2 fun d hd => ?_).symm
    rw [decide_eq_true_eq]
    intro w
    rw [← w] at h
    exact (completion_ne_none s d.slot).2 ⟨d, hd, rfl⟩ h

/-- Entry into HEADLESS reports every order it ends, once each, and nothing else (R92, R150, R167). -/
theorem Ends.enterHeadless (r : HeadlessReason) :
    Ends s (s.enterHeadless r) (s.sweepEnds ++ s.snapshotEnds ++ s.completionEnds) := by
  have snapshot : s.abandonSweep.snapshotEnds = s.snapshotEnds := by simp [snapshotEnds]
  have all := ((Ends.abandonSweep s).trans (Ends.abandonSnapshot _)).trans
    (Ends.abandonCompletions _ s.abandonSweep.abandonSnapshot.area.completions)
  have last := all.trans (Ends.quiet (t := s.enterHeadless r) rfl rfl rfl rfl rfl)
  rwa [snapshot, completions_abandonSnapshot, completions_abandonSweep_ended, List.append_nil] at last

/-- Entry into HEADLESS abandons every operation in progress and reports the orders it ends. -/
theorem enterHeadless_abandons (reason : HeadlessReason) : ∃ ended, s.Abandons (s.enterHeadless reason) ended :=
  ⟨_, enterHeadless_store s reason, enterHeadless_area s reason, enterHeadless_slotHolds s reason,
    (Ends.enterHeadless s reason).2, .refl _⟩

/-- What holds of the abandonment from a state holds of it from one with the same part time, store and area. -/
theorem Abandons.of_eq {s s' t : State} {ended : List Entry} (h : s'.Abandons t ended) (now : s'.now = s.now)
    (store : s'.store = s.store) (area : s'.area = s.area) : s.Abandons t ended := by
  unfold State.Abandons State.Produced State.completion State.sweepEnds State.snapshotEnds State.completionEnds
    State.waitedSlot State.completion at *
  rw [now, store, area] at h
  exact h

end Sys2Proof.Machine.State
end

