-- ==== Sys2Proof/Laws/Tables.lean ====
section
/-! SUPPORT. What the operations on the tables do, entry by entry: load counts, the free pool, member-index lists, recheck
flags and conduit alarms. -/

namespace Sys2Proof.Machine

/-! ### Load counts (R80, R81) -/

/-- Adding uplinks raises each load count by the number of times its uplink is listed. -/
theorem addLoads_get (us : List (Fin 32)) (loads : Vector Nat 32) (v : Fin 32) :
    (addLoads loads us).get v = loads.get v + us.count v := by
  induction us generalizing loads with
  | nil => simp [addLoads]
  | cons a t ih =>
    have step : addLoads loads (a :: t) = addLoads (loads.set a (loads.get a + 1)) t := rfl
    rw [step, ih]
    by_cases h : a = v
    · subst h
      simp [Vector.get_eq_getElem]
      omega
    · have : ¬ (a.val = v.val) := fun e => h (Fin.ext e)
      simp [Vector.get_eq_getElem, this, h]

/-- Subtracting uplinks lowers each load count by the number of times its uplink is listed. -/
theorem subLoads_get (us : List (Fin 32)) (loads : Vector Nat 32) (v : Fin 32) :
    (subLoads loads us).get v = loads.get v - us.count v := by
  induction us generalizing loads with
  | nil => simp [subLoads]
  | cons a t ih =>
    have step : subLoads loads (a :: t) = subLoads (loads.set a (loads.get a - 1)) t := rfl
    rw [step, ih]
    by_cases h : a = v
    · subst h
      simp [Vector.get_eq_getElem]
      omega
    · have : ¬ (a.val = v.val) := fun e => h (Fin.ext e)
      simp [Vector.get_eq_getElem, this, h]

/-- A run's contribution to a load count is the number of its buckets that name the uplink. -/
theorem runUplinks_count (memory : List (Nat × Bucket)) (run : LiveRun) (v : Fin 32) :
    (runUplinks memory run.fields run.blocks).count v = run.load memory v := by
  unfold runUplinks LiveRun.load
  rw [List.count_flatMap]
  congr 1
  apply List.map_congr_left
  intro k _
  simp only [Function.comp_apply, List.count_filterMap]
  rfl

/-! ### The free pool (R78) -/

/-- The lowest free blocks: as many as asked for or as are free, ascending, each free, none of a lower number left out
(R78). -/
theorem lowestFree_spec (owners : List (Nat × Owner)) : ∀ fuel k n,
    let blocks := lowestFree owners fuel k n
    let free (i : Nat) : Bool := decide (Sparse.get Owner.free owners i = .free)
    blocks.length = min n ((List.range' k fuel).countP free) ∧ blocks.Pairwise (· < ·)
      ∧ (∀ j ∈ blocks, k ≤ j ∧ j < k + fuel ∧ free j = true)
      ∧ ∀ j ∈ blocks, ∀ i, k ≤ i → i < j → free i = true → i ∈ blocks
  | 0, k, n => by simp [lowestFree]
  | fuel + 1, k, 0 => by simp [lowestFree]
  | fuel + 1, k, n + 1 => by
    intro blocks free
    by_cases h : Sparse.get Owner.free owners k = .free
    · obtain ⟨hl, hp, hm, hc⟩ := lowestFree_spec owners fuel (k + 1) n
      have e : blocks = k :: lowestFree owners fuel (k + 1) n := by simp [blocks, lowestFree, h]
      have hk : free k = true := by simp [free, h]
      refine ⟨?_, ?_, ?_, ?_⟩
      · rw [e, List.length_cons, hl, List.range'_succ, List.countP_cons_of_pos hk]
        simp only [free]; omega
      · rw [e, List.pairwise_cons]
        exact ⟨fun j hj => by have := (hm j hj).1; omega, hp⟩
      · intro j hj
        rw [e, List.mem_cons] at hj
        rcases hj with rfl | hj
        · exact ⟨by omega, by omega, hk⟩
        · have := hm j hj; exact ⟨by omega, by omega, this.2.2⟩
      · intro j hj i hi hij hf
        rw [e, List.mem_cons] at hj ⊢
        rcases hj with rfl | hj
        · omega
        · by_cases hik : i = k
          · exact Or.inl hik
          · exact Or.inr (hc j hj i (by omega) hij hf)
    · obtain ⟨hl, hp, hm, hc⟩ := lowestFree_spec owners fuel (k + 1) (n + 1)
      have e : blocks = lowestFree owners fuel (k + 1) (n + 1) := by simp [blocks, lowestFree, h]
      have hk : ¬free k = true := by simp [free, h]
      rw [e]
      refine ⟨?_, hp, fun j hj => ?_, fun j hj i hi hij hf => ?_⟩
      · rw [hl, List.range'_succ, List.countP_cons_of_neg hk]
      · have := hm j hj; exact ⟨by omega, by omega, this.2.2⟩
      · have : i ≠ k := by rintro rfl; exact hk hf
        exact hc j hj i (by omega) hij hf
/-! ### The member index (R109, R110) -/

/-- Changing the lists of some uplinks by an operation that is stable under repetition changes each of them once. -/
theorem changeLists_get (f : List Nat → List Nat) (stable : ∀ l, f (f l) = f l) (us : List (Fin 32))
    (index : Vector (List Nat) 32) (v : Fin 32) :
    (changeLists f us index).get v = if v ∈ us then f (index.get v) else index.get v := by
  induction us generalizing index with
  | nil => simp [changeLists]
  | cons a t ih =>
    have step : changeLists f (a :: t) index = changeLists f t (index.set a (f (index.get a))) := rfl
    rw [step, ih]
    by_cases h : a = v
    · subst h
      simp [Vector.get_eq_getElem, stable]
    · have n : ¬ (a.val = v.val) := fun e => h (Fin.ext e)
      have m : ¬ (v = a) := fun e => h e.symm
      simp [Vector.get_eq_getElem, n, m]

/-- Inserting a group twice is inserting it once. -/
theorem insertGroup_stable (g : Nat) (l : List Nat) : insertGroup g (insertGroup g l) = insertGroup g l := by
  have low : l.filter (fun a => decide (a < g) && decide (g < a)) = [] := by
    simp only [List.filter_eq_nil_iff, Bool.and_eq_true, decide_eq_true_eq]
    omega
  have high : l.filter (fun a => decide (g < a) && decide (a < g)) = [] := by
    simp only [List.filter_eq_nil_iff, Bool.and_eq_true, decide_eq_true_eq]
    omega
  simp [insertGroup, List.filter_append, List.filter_filter, low, high]

/-- Removing a group twice is removing it once. -/
theorem removeGroup_stable (g : Nat) (l : List Nat) : removeGroup g (removeGroup g l) = removeGroup g l := by
  simp [removeGroup, List.filter_filter]

/-! ### Recheck flags (R113) -/

namespace State

variable (s : State)

/-- Handing uplinks over sets the recheck flags of the groups they concern, and changes nothing else of a group. -/
theorem recheckUplinks_group (p : Fin 32 → Bool) (g : Nat) :
    (s.recheckUplinks p).group g = (s.group g).rechecked p := by
  have same : ∀ r : GroupRecord, r.recheck p = r.rechecked p := by
    intro r
    unfold GroupRecord.recheck GroupRecord.rechecked
    obtain ⟨a, l, run, pin, reported, since, rebuild⟩ := r
    cases rebuild with
    | none => rfl
    | some b =>
      dsimp only [Option.map_some]
      split <;> rfl
  unfold group recheckUplinks
  dsimp only
  induction s.groups with
  | nil => rfl
  | cons e t ih =>
    simp only [List.map_cons, Sparse.get]
    split
    · exact same _
    · exact ih

/-! ### Conduit alarms (R44) -/

/-- A raise of one conduit changes its alarm, and no other. -/
theorem raiseConduit_alarm (u : Fin 32) (cause : DarkCause) (c k : Fin 64) :
    (s.raiseConduit u cause c).alarm k =
      if k = c then some (raisedAlarm u cause (s.now + BitVec.ofNat 32 (1000 * s.conduits.hold)) s.now (s.alarm c))
      else s.alarm k := by
  unfold raiseConduit
  cases h : s.alarm c with
  | none =>
    by_cases e : k = c
    · subst e
      simp [alarm, setAlarm, raisedAlarm, after, Vector.get_eq_getElem]
    · have : ¬ c.val = k.val := fun n => e (Fin.ext n.symm)
      simp [alarm, setAlarm, e, this, Vector.get_eq_getElem]
  | some a =>
    by_cases e : k = c
    · subst e
      simp [alarm, setAlarm, raisedAlarm, after, laterOf, saturate, Vector.get_eq_getElem]
      rfl
    · have : ¬ c.val = k.val := fun n => e (Fin.ext n.symm)
      simp [alarm, setAlarm, e, this, Vector.get_eq_getElem]

theorem raiseConduit_hold (u : Fin 32) (cause : DarkCause) (c : Fin 64) :
    (s.raiseConduit u cause c).conduits.hold = s.conduits.hold := by
  unfold raiseConduit
  split <;> simp [setAlarm]

/-- Raises of distinct conduits, one after the other, change each alarm once. -/
theorem raiseAll_alarm (u : Fin 32) (cause : DarkCause) (cs : List (Fin 64)) (h : cs.Nodup) (k : Fin 64) :
    ((cs.foldl (fun s c => s.raiseConduit u cause c) s).alarm k =
      if k ∈ cs then
        some (raisedAlarm u cause (s.now + BitVec.ofNat 32 (1000 * s.conduits.hold)) s.now (s.alarm k))
      else s.alarm k)
    ∧ (cs.foldl (fun s c => s.raiseConduit u cause c) s).conduits.hold = s.conduits.hold := by
  induction cs generalizing s with
  | nil => simp
  | cons c t ih =>
    obtain ⟨notin, rest⟩ := List.nodup_cons.1 h
    obtain ⟨a, b⟩ := ih (s.raiseConduit u cause c) rest
    refine ⟨?_, b.trans (raiseConduit_hold s u cause c)⟩
    simp only [List.foldl_cons]
    have now : (s.raiseConduit u cause c).now = s.now := raiseConduit_now s u cause c
    rw [a, raiseConduit_hold, raiseConduit_alarm, now]
    by_cases e : k = c
    · subst e
      simp [notin]
    · simp [e]

theorem raised_get (c : ConduitTable) (u : Fin 32) (cause : DarkCause) (mask : BitVec 64) (now : PartTime) (k : Fin 64) :
    (c.raised u cause mask now).alarms.get k = if mask.getLsbD k.val then
      some (raisedAlarm u cause (now + BitVec.ofNat 32 (1000 * c.hold)) now (c.alarms.get k)) else c.alarms.get k := by
  simp [ConduitTable.raised, Vector.get_eq_getElem]

theorem raised_hold (c : ConduitTable) (u : Fin 32) (cause : DarkCause) (mask : BitVec 64) (now : PartTime) :
    (c.raised u cause mask now).hold = c.hold := by
  unfold ConduitTable.raised
  rfl

/-- Two Conduit Tables are equal when their holds and their alarms are. -/
theorem conduits_ext (a b : ConduitTable) (h : a.hold = b.hold) (e : ∀ k, a.alarms.get k = b.alarms.get k) : a = b := by
  obtain ⟨x, m⟩ := a
  obtain ⟨y, n⟩ := b
  have : x = y := Vector.ext fun i hi => e ⟨i, hi⟩
  exact ConduitTable.mk.injEq x m y n ▸ ⟨this, h⟩

/-- What the raise of a mask makes of the Conduit Table (R44). -/
theorem raiseMask_conduits (u : Fin 32) (cause : DarkCause) (mask : BitVec 64) :
    (s.raiseMask u cause mask).conduits = s.conduits.raised u cause mask s.now := by
  have all : ∀ cs : List (Fin 64), cs.Nodup → (∀ k, k ∈ cs ↔ mask.getLsbD k.val = true) →
      (cs.foldl (fun s c => s.raiseConduit u cause c) s).conduits = s.conduits.raised u cause mask s.now := by
    intro cs nodup member
    apply conduits_ext
    · rw [raised_hold]
      exact (raiseAll_alarm s u cause cs nodup ⟨0, by decide⟩).2
    · intro k
      have := (raiseAll_alarm s u cause cs nodup k).1
      simp only [member] at this
      rw [raised_get]
      exact this
  exact all _ ((List.nodup_finRange 64).filter _) (by simp)

end State

end Sys2Proof.Machine
end

