-- ==== Sys2Proof/Laws/Uplink.lean ====
section
/-! SUPPORT. What the operations of the Uplink Monitor make of its records: the record of the uplink named, and that every
other record stays. -/

namespace Sys2Proof.Machine

/-- Pruning the flap history drops its outlived head (R17). -/
theorem pruneFlaps_eq (now : PartTime) (w : Nat) (l : List PartTime) :
    pruneFlaps now w l = l.dropWhile fun t => decide (w < span t now) := by
  induction l with
  | nil => rfl
  | cons a t ih =>
    simp only [pruneFlaps, List.dropWhile_cons, ih]
    split <;> simp_all

namespace State

variable (s : State) (u v : Fin 32)

@[simp] theorem modifyUplink_now (f : UplinkRecord → UplinkRecord) : (s.modifyUplink u f).now = s.now := rfl

theorem modifyUplink_uplink_self (f : UplinkRecord → UplinkRecord) :
    (s.modifyUplink u f).uplink u = f (s.uplink u) := by simp

theorem modifyUplink_uplink_other (f : UplinkRecord → UplinkRecord) (h : v ≠ u) :
    (s.modifyUplink u f).uplink v = s.uplink v := by simp [Ne.symm h]

@[simp] theorem changeState_uplink_self (n : UplinkState) (c : Option DarkCause) :
    (s.changeState u n c).uplink u = { s.uplink u with state := n, darkCause := causeAfter n c } := by
  simp [changeState, handChange]
  split <;> (try split) <;> simp

theorem changeState_uplink_other (n : UplinkState) (c : Option DarkCause) (h : v ≠ u) :
    (s.changeState u n c).uplink v = s.uplink v := by
  simp only [changeState, handChange]
  split <;> (try split) <;> simp [Ne.symm h]

@[simp] theorem declareDark_uplink_self (c : DarkCause) :
    (s.declareDark u c).uplink u = (s.uplink u).declared c s.now := by
  simp [declareDark, recordFlap, handMask, UplinkRecord.declared, pruneFlaps_eq, flapSpan]
  split <;> split <;> simp_all [causeAfter]

theorem declareDark_uplink_other (c : DarkCause) (h : v ≠ u) : (s.declareDark u c).uplink v = s.uplink v := by
  simp only [declareDark, recordFlap, handMask]
  split <;> split <;> simp [Ne.symm h, changeState_uplink_other _ _ _ _ _ h]

@[simp] theorem fail_uplink_self (c : DarkCause) : (s.fail u c).uplink u = (s.uplink u).failed c s.now := by
  unfold fail UplinkRecord.failed
  split <;> simp_all [restartProof, recordFinding, DrillRecord.find]
  congr 1
  funext d
  cases h : d.finding
  · rfl
  · cases d
    simp_all

theorem fail_uplink_other (c : DarkCause) (h : v ≠ u) : (s.fail u c).uplink v = s.uplink v := by
  unfold fail
  split <;> simp [restartProof, recordFinding, Ne.symm h, declareDark_uplink_other _ _ _ _ h]

@[simp] theorem checkSettle_uplink_self : (s.checkSettle u).uplink u = (s.uplink u).settledAt s.now := by
  unfold checkSettle UplinkRecord.settledAt
  dsimp only
  split <;> simp [causeAfter]

theorem checkSettle_uplink_other (h : v ≠ u) : (s.checkSettle u).uplink v = s.uplink v := by
  unfold checkSettle
  dsimp only
  split <;> simp [Ne.symm h, changeState_uplink_other _ _ _ _ _ h]

@[simp] theorem checkProof_uplink_self : (s.checkProof u).uplink u = (s.uplink u).proven := by
  unfold checkProof UplinkRecord.proven
  dsimp only
  split <;> simp [causeAfter]

theorem checkProof_uplink_other (h : v ≠ u) : (s.checkProof u).uplink v = s.uplink v := by
  unfold checkProof
  dsimp only
  split <;> simp [changeState_uplink_other _ _ _ _ _ h]

@[simp] theorem changeLight_uplink_self (l : Light) :
    (s.changeLight u l).uplink u = (s.uplink u).lightChanged l s.now := by
  unfold changeLight UplinkRecord.lightChanged
  cases l <;> simp
  split <;> simp_all

theorem changeLight_uplink_other (l : Light) (h : v ≠ u) : (s.changeLight u l).uplink v = s.uplink v := by
  unfold changeLight
  cases l
  · simp only []
    split <;> simp [Ne.symm h, checkProof_uplink_other _ _ _ h]
  · simp [Ne.symm h, fail_uplink_other _ _ _ _ h]

@[simp] theorem enterSettling_uplink_self :
    (s.enterSettling u).uplink u =
      { s.uplink u with
        state := .settling, settleStart := some s.now
        settleExpiry := some (after s.now (1000 * (s.uplink u).params.settleTime))
        runCount := 1, missCount := 0, blindCount := 0, mismatchMark := false }.settledAt s.now := by
  simp [enterSettling, causeAfter]

theorem enterSettling_uplink_other (h : v ≠ u) : (s.enterSettling u).uplink v = s.uplink v := by
  simp [enterSettling, checkSettle_uplink_other _ _ _ h, changeState_uplink_other _ _ _ _ _ h, Ne.symm h]

theorem deliverAffirming_uplink_other (h : v ≠ u) : (s.deliverAffirming u).uplink v = s.uplink v := by
  unfold deliverAffirming
  split <;> try rfl
  · split
    · exact enterSettling_uplink_other _ _ _ h
    · rfl
  · exact checkSettle_uplink_other _ _ _ h
  · exact checkProof_uplink_other _ _ _ h

@[simp] theorem judgeWindow_uplink_self :
    (s.judgeWindow u).uplink u = (match (s.uplink u).judge.failure with
      | some cause => (s.uplink u).judge.failed cause s.now
      | none => (s.uplink u).judge) := by
  unfold judgeWindow
  simp only [modifyUplink_uplink_self]
  split <;> simp_all

theorem judgeWindow_uplink_other (h : v ≠ u) : (s.judgeWindow u).uplink v = s.uplink v := by
  unfold judgeWindow
  simp only [modifyUplink_uplink_self]
  split <;> simp [fail_uplink_other _ _ _ _ h, Ne.symm h]

theorem transmit_uplink_same : s.transmit.uplink v = s.uplink v := rfl

@[simp] theorem emitProbe_uplink_self :
    (s.emitProbe u).uplink u = { s.uplink u with
      txSequence := (s.uplink u).txSequence + (if s.control.runState = .off then 0 else 1) } := by
  unfold emitProbe
  split
  · simp_all
  · rw [transmit_uplink_same, modifyUplink_uplink_self]
    simp_all [State.uplink]

theorem emitProbe_uplink_other (h : v ≠ u) : (s.emitProbe u).uplink v = s.uplink v := by
  unfold emitProbe
  split
  · rfl
  · rw [transmit_uplink_same, modifyUplink_uplink_other _ _ _ _ h]
    rfl

@[simp] theorem judgeDrill_uplink_self (d : DrillRecord) :
    (s.judgeDrill u d).uplink u =
      (if (s.uplink u).drillSound d then { s.uplink u with state := .up, darkCause := none }
       else { s.uplink u with state := .dark, darkCause := d.finding }) := by
  unfold judgeDrill
  split <;> simp [causeAfter]
  split <;> simp [handMask, causeAfter]
  split <;> simp [causeAfter]

theorem judgeDrill_uplink_other (d : DrillRecord) (h : v ≠ u) : (s.judgeDrill u d).uplink v = s.uplink v := by
  unfold judgeDrill
  split
  · exact changeState_uplink_other _ _ _ _ _ h
  · dsimp only
    split
    · unfold handMask
      split <;> simp [changeState_uplink_other _ _ _ _ _ h]
    · exact changeState_uplink_other _ _ _ _ _ h

end State

end Sys2Proof.Machine
end

