-- ==== Sys2Proof/Laws/Effects.lean ====
section
/-! SUPPORT. What the parts of an event on an uplink bring besides its record, and that they add up: walks, recheck flags,
records, causes and the attention interrupt. -/

namespace Sys2Proof.Machine

/-- Two hand-overs for recheck flags are one for the uplinks of both. -/
theorem GroupRecord.rechecked_rechecked (r : GroupRecord) (p q : Fin 32 → Bool) :
    (r.rechecked p).rechecked q = r.rechecked fun v => p v || q v := by
  obtain ⟨a, l, run, pin, reported, since, rebuild⟩ := r
  cases rebuild with
  | none => rfl
  | some b =>
    simp only [rechecked, Option.map_some]
    by_cases h : b.staged.members.any fun m => p m.uplink
    · rw [if_pos h, if_pos (c := (b.staged.members.any fun m => p m.uplink || q m.uplink) = true)]
      · split <;> rfl
      · simp only [List.any_eq_true, Bool.or_eq_true] at h ⊢
        obtain ⟨m, x, y⟩ := h
        exact ⟨m, x, .inl y⟩
    · by_cases k : b.staged.members.any fun m => q m.uplink
      · rw [if_neg h, if_pos k, if_pos]
        simp only [List.any_eq_true, Bool.or_eq_true] at k ⊢
        obtain ⟨m, x, y⟩ := k
        exact ⟨m, x, .inr y⟩
      · rw [if_neg h, if_neg k, if_neg]
        simp only [List.any_eq_true, Bool.or_eq_true, not_exists, not_and] at h k ⊢
        rintro m x (y | y)
        exacts [h m x y, k m x y]

theorem GroupRecord.rechecked_none (r : GroupRecord) : r.rechecked (fun _ => false) = r := by
  obtain ⟨a, l, run, pin, reported, since, rebuild⟩ := r
  cases rebuild <;> simp [rechecked]

/-- A cause joined to others is seen through an enable when one of them is. -/
theorem or_and_eq_zero (a b e : BitVec 32) : (a ||| b) &&& e = 0 ↔ a &&& e = 0 ∧ b &&& e = 0 := by
  constructor
  · intro h
    have bit : ∀ i, (h' : i < 32) → ((a ||| b) &&& e)[i] = false := fun i h' => by rw [h]; simp
    refine ⟨?_, ?_⟩ <;> ext i hi <;> have := bit i hi <;>
      simp only [BitVec.getElem_and, BitVec.getElem_or, BitVec.ofNat_eq_ofNat, BitVec.getElem_zero] at this ⊢ <;>
      revert this <;> cases a[i] <;> cases b[i] <;> cases e[i] <;> simp
  · rintro ⟨x, y⟩
    ext i hi
    have x' : (a &&& e)[i] = false := by rw [x]; simp
    have y' : (b &&& e)[i] = false := by rw [y]; simp
    simp only [BitVec.getElem_and, BitVec.getElem_or, BitVec.ofNat_eq_ofNat, BitVec.getElem_zero] at x' y' ⊢
    revert x' y'
    cases a[i] <;> cases b[i] <;> cases e[i] <;> simp

namespace State

/-- What a part of an event brings: the engine that `f` makes, the recheck flags of the uplinks that `p` names, the
records of `l`, URGENT where `urgent` says so, GAP and the attention interrupt as their rules give. -/
structure Brings (s t : State) (f : WalkEngine → WalkEngine) (p : Fin 32 → Bool) (l : List Entry) (urgent : Bool) :
    Prop where
  now : t.now = s.now
  causeEn : t.control.causeEn = s.control.causeEn
  engine : t.engine = f s.engine
  groups : ∀ g, t.group g = (s.group g).rechecked p
  produced : s.Produced t l
  cause : t.control.cause = s.control.cause ||| (if urgent then 2 else 0)
    ||| (if s.area.gapCount = 0 ∧ t.area.gapCount ≠ 0 then 8 else 0)
  interrupts : t.control.interruptsSent = s.control.interruptsSent
    + if s.control.cause &&& s.control.causeEn = 0 ∧ t.control.cause &&& s.control.causeEn ≠ 0 then 1 else 0

variable {s t v : State} {f g : WalkEngine → WalkEngine} {p q : Fin 32 → Bool} {l m : List Entry} {a b : Bool}

/-- Producing records never lowers the gap count. -/
theorem Produced.gap_le (h : s.Produced t l) : s.area.gapCount ≠ 0 → t.area.gapCount ≠ 0 := by
  intro n
  by_cases k : l.length ≤ 16 - s.area.holding.length
  · rw [(h.2.1 k).1]
    exact n
  · rw [(h.2.2 (by omega)).1]
    omega

theorem Brings.trans (x : s.Brings t f p l a) (y : t.Brings v g q m b) :
    s.Brings v (g ∘ f) (fun w => p w || q w) (l ++ m) (a || b) := by
  have or4 : ∀ c d e w z : BitVec 32, c ||| d ||| e ||| w ||| z = c ||| (d ||| w) ||| (e ||| z) := by
    intros
    ac_rfl
  have cause : v.control.cause = s.control.cause ||| (if (a || b) = true then 2 else 0)
      ||| (if s.area.gapCount = 0 ∧ v.area.gapCount ≠ 0 then 8 else 0) := by
    rw [y.cause, x.cause, or4]
    have k := x.produced.gap_le
    have k' := y.produced.gap_le
    congr 1
    · congr 1
      cases a <;> cases b <;> rfl
    · by_cases h : s.area.gapCount = 0 <;> by_cases h' : t.area.gapCount = 0 <;>
        by_cases h'' : v.area.gapCount = 0 <;> simp_all
  refine ⟨y.now.trans x.now, y.causeEn.trans x.causeEn, by rw [y.engine, x.engine]; rfl, fun h => ?_,
    x.produced.trans y.produced x.now, cause, ?_⟩
  · rw [y.groups, x.groups, GroupRecord.rechecked_rechecked]
  · rw [y.interrupts, x.interrupts, x.causeEn, y.cause, x.cause]
    simp only [or_and_eq_zero, ne_eq]
    by_cases h : s.control.cause &&& s.control.causeEn = 0 <;> simp only [h, true_and, false_and, not_false_eq_true,
      if_false]
    split <;> split <;> split <;> simp_all

theorem Brings.quiet (control : t.control = s.control) (engine : t.engine = f s.engine)
    (groups : t.groups = s.groups) (holding : t.area.holding = s.area.holding)
    (gap : t.area.gapCount = s.area.gapCount) (first : t.area.firstDrop = s.area.firstDrop)
    (last : t.area.lastDrop = s.area.lastDrop) : s.Brings t f (fun _ => false) [] false where
  now := by simp [State.now, control]
  causeEn := by rw [control]
  engine := engine
  groups g := by rw [GroupRecord.rechecked_none, State.group, groups]; rfl
  produced := (Produced.refl s).of_eq holding gap first last
  cause := by
    rw [control, gap]
    simp
  interrupts := by
    rw [control, if_neg (fun h => h.2 h.1)]
    rfl

/-- Setting a cause that was not set sends the interrupt by R162. -/
theorem setCause_interrupts (c : Cause) : (s.setCause c).control.interruptsSent = s.control.interruptsSent
    + if s.control.cause &&& s.control.causeEn = 0 ∧ (s.setCause c).control.cause &&& s.control.causeEn ≠ 0 then 1
      else 0 := by
  simp only [setCause, RunControl.setCause, interruptRises, Bool.and_eq_true, beq_iff_eq, bne_iff_ne]
  split <;> rfl

theorem Brings.produce (e : Entry) : s.Brings (s.produce e) id (fun _ => false) [e] false := by
  have cause : ∀ t : State, t.control = s.control → t.control.interruptsSent = s.control.interruptsSent
      + if s.control.cause &&& s.control.causeEn = 0 ∧ t.control.cause &&& s.control.causeEn ≠ 0 then 1 else 0 := by
    intro t h
    rw [h, if_neg (fun h => h.2 h.1)]
    rfl
  refine ⟨by simp [State.now], ?_, by simp, fun g => ?_, Produced.produce s e, ?_, ?_⟩
  · unfold State.produce
    split
    · rfl
    · dsimp only
      split <;> rfl
  · rw [GroupRecord.rechecked_none, State.group, produce_groups]
    rfl
  · unfold State.produce
    split
    · simp
    · dsimp only
      split
      · next k => simp [State.setCause, RunControl.setCause, Cause.bit, saturate, k]
      · next k => simp [k]
  · unfold State.produce
    split
    · exact cause _ rfl
    · dsimp only
      split
      · exact setCause_interrupts (s := { s with area := _ }) _
      · exact cause _ rfl

theorem Brings.urgent : s.Brings (s.setCause .urgent) id (fun _ => false) [] true :=
  ⟨rfl, rfl, rfl, fun g => (GroupRecord.rechecked_none _).symm, (Produced.refl s).of_eq rfl rfl rfl rfl,
    by simp [State.setCause, RunControl.setCause, Cause.bit], setCause_interrupts _⟩

theorem Brings.recheck (p : Fin 32 → Bool) : s.Brings (s.recheckUplinks p) id p [] false where
  now := rfl
  causeEn := rfl
  engine := rfl
  groups := recheckUplinks_group s p
  produced := (Produced.refl s).of_eq rfl rfl rfl rfl
  cause := by simp
  interrupts := by
    rw [recheckUplinks_control, if_neg (fun h => h.2 h.1)]
    rfl

/-- Parts that say the same are the same part. -/
theorem Brings.congr (x : s.Brings t f p l a) (engine : g s.engine = f s.engine) (uplinks : ∀ w, q w = p w)
    (records : m = l) (urgent : b = a) : s.Brings t g q m b := by
  obtain rfl : q = p := funext uplinks
  subst records urgent
  exact { x with engine := x.engine.trans engine.symm }

/-- What a part brings stays so where nothing that it is about changes. -/
theorem Brings.settle (x : s.Brings t f p l a) (control : v.control = t.control) (engine : v.engine = t.engine)
    (groups : v.groups = t.groups) (holding : v.area.holding = t.area.holding)
    (gap : v.area.gapCount = t.area.gapCount) (first : v.area.firstDrop = t.area.firstDrop)
    (last : v.area.lastDrop = t.area.lastDrop) : s.Brings v f p l a :=
  (x.trans (.quiet (f := id) control engine groups holding gap first last)).congr rfl (fun w => by simp)
    (by simp) (by simp)

/-! ### Walks handed over (R112, R117) -/

/-- The engine without an uplink that has no walk is the engine. -/
theorem withoutWalk_of_none {u : Fin 32} {w : List Walk} (h : w.find? (fun w => w.uplink == u) = none) :
    (w.filter fun w => !decide (w.uplink = u)) = w := by
  rw [List.find?_eq_none] at h
  exact List.filter_eq_self.2 fun x hx => by simpa using h x hx

variable (s)

theorem handWalk_engine (u : Fin 32) (cls : WalkClass) :
    (s.handWalk u cls).engine = s.engine.handed u cls s.now := by
  unfold handWalk walkOf WalkEngine.handed
  cases h : (s.engine.urgent ++ s.engine.restore).find? fun w => w.uplink == u with
  | none =>
    rw [List.find?_append, Option.or_eq_none_iff] at h
    cases cls <;>
      simp [WalkEngine.append, Walk.create, withoutWalk_of_none h.1, withoutWalk_of_none h.2]
  | some w =>
    have work : Work.convert u = Work.converted u := by
      funext x
      cases x <;> rfl
    have others : ∀ q : List Walk, withoutWalk u q = q.filter fun w => !decide (w.uplink = u) := by
      intro q
      unfold withoutWalk
      congr 1
    cases cls <;> simp [WalkEngine.append, WalkEngine.withdraw, Walk.restart, saturate, work, others]

/-- A change of an uplink's state hands its walk over (R10). -/
theorem handChange_engine (u : Fin 32) (previous new : UplinkState) (cause : Option DarkCause) :
    (s.handChange u previous new).engine
      = s.engine.moved u s.now [{ left := previous, entered := new, cause }] := by
  unfold handChange WalkEngine.moved
  simp only [List.foldl_cons, List.foldl_nil]
  split
  · exact handWalk_engine s u .urgent
  · split
    · exact handWalk_engine s u .restore
    · rfl

theorem Brings.handWalk (u : Fin 32) (cls : WalkClass) :
    s.Brings (s.handWalk u cls) (fun e => e.handed u cls s.now) (fun _ => false) [] false := by
  refine .quiet ?_ (handWalk_engine s u cls) ?_ ?_ ?_ ?_ ?_ <;> unfold State.handWalk <;> split <;> rfl

/-- A change of an uplink's state brings its record, its recheck flags, its walk and URGENT (R10, R113). -/
theorem Brings.changeState (u : Fin 32) (new : UplinkState) (cause : Option DarkCause) :
    s.Brings (s.changeState u new cause)
      (fun e => e.moved u s.now [{ left := (s.uplink u).state, entered := new, cause := causeAfter new cause }])
      (fun v => decide (v = u)) [.uplinkChange u (s.uplink u).state new (causeAfter new cause)]
      (decide ((s.uplink u).state = .up ∧ new ≠ .up)) := by
  let r := s.modifyUplink u fun r => { r with state := new, darkCause := causeAfter new cause }
  have first : s.Brings r id (fun _ => false) [] false := .quiet rfl rfl rfl rfl rfl rfl rfl
  have recorded := (first.trans (.produce (.uplinkChange u (s.uplink u).state new (causeAfter new cause)))).trans
    (.recheck (· == u))
  have now := recorded.now
  unfold State.changeState State.handChange WalkEngine.moved
  simp only [List.foldl_cons, List.foldl_nil]
  split
  · next h =>
    refine ((recorded.trans (.handWalk _ u .urgent)).trans .urgent).congr ?_ ?_ rfl ?_
    · rw [now]
      rfl
    · intro w
      by_cases e : w = u <;> simp [e]
    · simp [h]
  · next h =>
    split
    · refine (recorded.trans (.handWalk _ u .restore)).congr ?_ ?_ rfl ?_
      · rw [now]
        rfl
      · intro w
        by_cases e : w = u <;> simp [e]
      · simp_all
    · refine recorded.congr rfl ?_ rfl ?_
      · intro w
        by_cases e : w = u <;> simp [e]
      · simp_all

/-! ### Conduits raised (R44, R48) -/

theorem Brings.handConduit (c : Fin 64) : s.Brings (s.handConduit c) id
    (fun v => (s.uplink v).params.conduitMask.getLsbD c.val) [] false := .recheck _

/-- The conduits of a list that are CLEAR. -/
def clearOf (cs : List (Fin 64)) : List (Fin 64) := cs.filter fun c => (s.alarm c).isNone

/-- Raising the conduits of a list brings a record and the recheck flags for each that is CLEAR, and URGENT if there is
one. -/
theorem Brings.raiseAll (u : Fin 32) (cause : DarkCause) (cs : List (Fin 64)) (h : cs.Nodup) :
    s.Brings (cs.foldl (fun s c => s.raiseConduit u cause c) s) id
      (fun v => (s.clearOf cs).any fun c => (s.uplink v).params.conduitMask.getLsbD c.val)
      ((s.clearOf cs).map fun c =>
        .conduitAlarm c u cause (s.now + BitVec.ofNat 32 (1000 * s.conduits.hold)))
      (decide (s.clearOf cs ≠ [])) := by
  induction cs generalizing s with
  | nil => exact .quiet rfl rfl rfl rfl rfl rfl rfl
  | cons c t ih =>
    obtain ⟨notin, rest⟩ := List.nodup_cons.1 h
    have later := ih (s.raiseConduit u cause c) rest
    have uplink : ∀ v, (s.raiseConduit u cause c).uplink v = s.uplink v := by
      intro v
      unfold State.raiseConduit
      split <;> simp
    have same : (s.raiseConduit u cause c).clearOf t = s.clearOf t := by
      unfold clearOf
      apply List.filter_congr
      intro d hd
      rw [raiseConduit_alarm, if_neg]
      exact fun e => notin (e ▸ hd)
    have now : (s.raiseConduit u cause c).now = s.now := raiseConduit_now s u cause c
    rw [now, raiseConduit_hold, same] at later
    simp only [uplink] at later
    rw [List.foldl_cons]
    cases k : s.alarm c with
    | none =>
      have clear : s.clearOf (c :: t) = c :: s.clearOf t := by simp [clearOf, k]
      let alarm : Alarm :=
        { expiry := after s.now (1000 * s.conduits.hold), firstRaiser := u, cause, raisedAt := s.now, raiseCount := 1 }
      have first : s.Brings (s.setAlarm c (some alarm)) id (fun _ => false) [] false := .quiet rfl rfl rfl rfl rfl rfl rfl
      have e : s.raiseConduit u cause c = ((((s.setAlarm c (some alarm)).produce
          (.conduitAlarm c u cause (after s.now (1000 * s.conduits.hold)))).handConduit c).setCause .urgent) := by
        unfold State.raiseConduit
        rw [k]
      have now := (((first.trans (.produce (.conduitAlarm c u cause (after s.now (1000 * s.conduits.hold))))).trans
        (.handConduit _ c)).trans .urgent)
      have whole := now.trans (e ▸ later)
      rw [clear]
      refine (e ▸ whole).congr rfl (fun w => ?_) rfl (by simp)
      simp [State.uplink]
    | some a =>
      have clear : s.clearOf (c :: t) = s.clearOf t := by simp [clearOf, k]
      have e : s.Brings (s.raiseConduit u cause c) id (fun _ => false) [] false := by
        unfold State.raiseConduit
        rw [k]
        exact .quiet rfl rfl rfl rfl rfl rfl rfl
      rw [clear]
      exact (e.trans later).congr rfl (fun w => by simp) (by simp) (by simp)

/-! ### The effects of an event on an uplink -/

/-- The alarm record of a conduit that uplink `u` raises (R44). -/
def alarmRecord (u : Fin 32) (a : Fin 64 × DarkCause) : Entry :=
  .conduitAlarm a.1 u a.2 (s.now + BitVec.ofNat 32 (1000 * s.conduits.hold))

/-- A part of an event that brings the changes of state `moves`, a raise, and the records `others`. -/
def Brought (s t : State) (u : Fin 32) (moves : List Move) (raised : Option DarkCause) (others : List Entry) : Prop :=
  ∃ l, l.Perm (moves.map (Move.record u) ++ (s.alarmed u raised).map (s.alarmRecord u) ++ others)
    ∧ s.Brings t (fun e => e.moved u s.now moves)
      (fun v => (decide (v = u) && decide (moves ≠ []))
        || (s.alarmed u raised).any fun a => (s.uplink v).params.conduitMask.getLsbD a.1.val)
      l (decide ((∃ m ∈ moves, m.left = .up ∧ m.entered ≠ .up) ∨ s.alarmed u raised ≠ []))

variable {s} {u : Fin 32} {moves more : List Move} {raised raised' both : Option DarkCause} {others others' : List Entry}

theorem Brought.effects (h : s.Brought t u moves raised others) : s.Effects t u moves raised others := by
  obtain ⟨l, perm, b⟩ := h
  refine ⟨b.engine, ⟨l, b.produced, perm⟩, ?_, b.interrupts⟩
  rw [b.cause]
  simp only [decide_eq_true_eq]

theorem Brought.rechecks (h : s.Brought t u moves raised others) : s.Rechecks t u (moves ≠ []) raised := by
  obtain ⟨l, _, b⟩ := h
  exact b.groups

/-- Parts of an event add up; the conduits that become RAISED are those of the two parts. -/
theorem Brought.trans (x : s.Brought t u moves raised others) (y : t.Brought v u more raised' others')
    (masks : ∀ w, (t.uplink w).params.conduitMask = (s.uplink w).params.conduitMask)
    (hold : t.conduits.hold = s.conduits.hold)
    (alarms : s.alarmed u both = s.alarmed u raised ++ t.alarmed u raised') :
    s.Brought v u (moves ++ more) both (others ++ others') := by
  obtain ⟨l, p, b⟩ := x
  obtain ⟨m, q, c⟩ := y
  have record : t.alarmRecord u = s.alarmRecord u := by
    funext a
    simp only [alarmRecord, b.now, hold]
  refine ⟨l ++ m, ?_, (b.trans c).congr ?_ (fun w => ?_) rfl ?_⟩
  · rw [record] at q
    refine (p.append q).trans ?_
    rw [alarms, List.map_append, List.map_append]
    simp only [← Multiset.coe_eq_coe, ← Multiset.coe_add]
    abel
  · simp only [Function.comp_apply, WalkEngine.moved, List.foldl_append, b.now]
  · rw [alarms, List.any_append]
    simp only [masks]
    by_cases e : w = u <;> by_cases f : moves = [] <;> by_cases f' : more = [] <;> simp [e, f, f']
  · rw [alarms, ← Bool.decide_or]
    apply decide_eq_decide.2
    simp only [List.mem_append, List.append_eq_nil_iff, ne_eq, not_and_or]
    constructor
    · rintro (⟨m, h | h, k⟩ | h | h)
      exacts [.inl (.inl ⟨m, h, k⟩), .inr (.inl ⟨m, h, k⟩), .inl (.inr h), .inr (.inr h)]
    · rintro ((⟨m, h, k⟩ | h) | ⟨m, h, k⟩ | h)
      exacts [.inl ⟨m, .inl h, k⟩, .inr (.inl h), .inl ⟨m, .inr h, k⟩, .inr (.inr h)]

/-- A part that changes neither alarms nor masks, followed by another. -/
theorem Brought.then (x : s.Brought t u moves none others) (y : t.Brought v u more raised others')
    (masks : ∀ w, (t.uplink w).params.conduitMask = (s.uplink w).params.conduitMask)
    (conduits : t.conduits = s.conduits) : s.Brought v u (moves ++ more) raised (others ++ others') := by
  refine x.trans y masks (by rw [conduits]) ?_
  have same : t.alarmed u raised = s.alarmed u raised := by
    unfold alarmed State.alarm
    rw [conduits, masks]
  rw [same]
  rfl

/-- A part followed by one that raises nothing. -/
theorem Brought.last (x : s.Brought t u moves raised others) (y : t.Brought v u more none others')
    (masks : ∀ w, (t.uplink w).params.conduitMask = (s.uplink w).params.conduitMask)
    (hold : t.conduits.hold = s.conduits.hold) : s.Brought v u (moves ++ more) raised (others ++ others') :=
  x.trans y masks hold (by simp [alarmed])

/-- A part that changes only records of uplinks, accesses, orders or the port. -/
theorem Brought.quiet (control : t.control = s.control) (engine : t.engine = s.engine)
    (groups : t.groups = s.groups) (holding : t.area.holding = s.area.holding)
    (gap : t.area.gapCount = s.area.gapCount) (first : t.area.firstDrop = s.area.firstDrop)
    (last : t.area.lastDrop = s.area.lastDrop) : s.Brought t u [] none [] :=
  ⟨[], .refl _, (Brings.quiet (f := id) control engine groups holding gap first last).congr rfl
    (fun w => by simp [alarmed]) rfl (by simp [alarmed])⟩

/-- What is brought stays so where nothing that it is about changes. -/
theorem Brought.settle (x : s.Brought t u moves raised others) (control : v.control = t.control)
    (engine : v.engine = t.engine) (groups : v.groups = t.groups) (holding : v.area.holding = t.area.holding)
    (gap : v.area.gapCount = t.area.gapCount) (first : v.area.firstDrop = t.area.firstDrop)
    (last : v.area.lastDrop = t.area.lastDrop) : s.Brought v u moves raised others := by
  obtain ⟨l, p, b⟩ := x
  exact ⟨l, p, b.settle control engine groups holding gap first last⟩

/-- What is brought from a state is brought from one that differs only in what it is not about. -/
theorem Brought.from {s' : State} (x : s'.Brought t u moves raised others) (control : s'.control = s.control)
    (engine : s'.engine = s.engine) (groups : s'.groups = s.groups) (holding : s'.area.holding = s.area.holding)
    (gap : s'.area.gapCount = s.area.gapCount) (first : s'.area.firstDrop = s.area.firstDrop)
    (last : s'.area.lastDrop = s.area.lastDrop)
    (masks : ∀ w, (s'.uplink w).params.conduitMask = (s.uplink w).params.conduitMask)
    (conduits : s'.conduits = s.conduits) : s.Brought t u moves raised others :=
  (Brought.quiet control engine groups holding gap first last).then x masks conduits

theorem Brought.produce (e : Entry) : s.Brought (s.produce e) u [] none [e] :=
  ⟨[e], .refl _, (Brings.produce e).congr rfl (fun w => by simp [alarmed]) rfl (by simp [alarmed])⟩

theorem Brought.changeState (new : UplinkState) (cause : Option DarkCause) : s.Brought (s.changeState u new cause) u
    [{ left := (s.uplink u).state, entered := new, cause := causeAfter new cause }] none [] :=
  ⟨_, .refl _, (Brings.changeState s u new cause).congr rfl (fun w => by simp [alarmed]) rfl (by simp [alarmed])⟩

theorem Brought.raiseMask (cause : DarkCause) :
    s.Brought (s.raiseMask u cause (s.uplink u).params.conduitMask) u [] (some cause) [] := by
  have nodup : ((List.finRange 64).filter fun c => (s.uplink u).params.conduitMask.getLsbD c.val).Nodup :=
    (List.nodup_finRange 64).filter _
  have clear : s.alarmed u (some cause)
      = (s.clearOf ((List.finRange 64).filter fun c => (s.uplink u).params.conduitMask.getLsbD c.val)).map
        fun c => (c, cause) := by
    unfold alarmed clearOf
    rw [List.filter_filter, Option.toList_some, List.flatMap_singleton]
    congr 2
    funext c
    exact Bool.and_comm _ _
  refine ⟨_, ?_, (Brings.raiseAll s u cause _ nodup).congr rfl (fun w => ?_) rfl ?_⟩
  · rw [clear, List.map_map, List.map_nil, List.nil_append, List.append_nil]
    exact .refl _
  · rw [clear, List.any_map]
    simp [Function.comp_def]
  · rw [clear]
    simp

/-! ### Orders and the plan side of the Area Interface -/

theorem KeepsOrders.refl (s : State) : s.KeepsOrders s := ⟨rfl, rfl, rfl⟩

theorem KeepsOrders.trans {s t v : State} (x : s.KeepsOrders t) (y : t.KeepsOrders v) : s.KeepsOrders v :=
  ⟨y.1.trans x.1, y.2.1.trans x.2.1, y.2.2.trans x.2.2⟩

theorem KeepsOrders.of_area {s t : State} (h : t.area = s.area) : s.KeepsOrders t := by
  rw [KeepsOrders, h]
  exact ⟨rfl, rfl, rfl⟩

theorem KeepsOrders.modifyUplink (s : State) (u : Fin 32) (f : UplinkRecord → UplinkRecord) :
    s.KeepsOrders (s.modifyUplink u f) := .of_area rfl

theorem KeepsOrders.produce (s : State) (e : Entry) : s.KeepsOrders (s.produce e) :=
  ⟨produce_plan s e, produce_area_completions s e, produce_area_slotHolds s e⟩

theorem KeepsOrders.settleArea (s : State) : s.KeepsOrders s.settleArea :=
  ⟨settleArea_plan s, settleArea_area_completions s, settleArea_area_slotHolds s⟩

theorem KeepsOrders.changeState (s : State) (u : Fin 32) (new : UplinkState) (cause : Option DarkCause) :
    s.KeepsOrders (s.changeState u new cause) := by
  have recorded := (KeepsOrders.of_area (s := s) (t := s.modifyUplink u fun r =>
    { r with state := new, darkCause := causeAfter new cause }) rfl).trans
      (.produce _ (.uplinkChange u (s.uplink u).state new (causeAfter new cause)))
  refine recorded.trans (.of_area ?_)
  unfold State.changeState State.handChange State.handWalk
  dsimp only
  split
  · split <;> rfl
  · split
    · split <;> rfl
    · rfl

theorem KeepsOrders.raiseMask (s : State) (u : Fin 32) (cause : DarkCause) (mask : BitVec 64) :
    s.KeepsOrders (s.raiseMask u cause mask) := by
  unfold State.raiseMask
  generalize (List.finRange 64).filter (fun c => mask.getLsbD c.val) = cs
  induction cs generalizing s with
  | nil => exact .refl s
  | cons c t ih =>
    refine KeepsOrders.trans ?_ (ih _)
    unfold State.raiseConduit
    dsimp only
    split
    · exact (KeepsOrders.of_area (s := s) (t := s.setAlarm c _) rfl).trans
        ((KeepsOrders.produce _ _).trans (.of_area rfl))
    · exact .of_area rfl

theorem KeepsOrders.handMask (s : State) (u : Fin 32) (cause : DarkCause) : s.KeepsOrders (s.handMask u cause) := by
  unfold State.handMask
  split
  exacts [.raiseMask _ _ _ _, .refl s]

theorem KeepsOrders.recordFlap (s : State) (u : Fin 32) : s.KeepsOrders (s.recordFlap u) := by
  unfold State.recordFlap
  dsimp only
  split
  · exact KeepsOrders.trans (.of_area rfl) (.changeState _ _ _ _)
  · exact .of_area rfl

theorem KeepsOrders.declareDark (s : State) (u : Fin 32) (cause : DarkCause) : s.KeepsOrders (s.declareDark u cause) := by
  unfold State.declareDark
  exact (((KeepsOrders.modifyUplink s u _).trans (.changeState _ _ _ _)).trans (.handMask _ _ _)).trans
    (.recordFlap _ _)

theorem KeepsOrders.fail (s : State) (u : Fin 32) (cause : DarkCause) : s.KeepsOrders (s.fail u cause) := by
  unfold State.fail
  split
  exacts [.declareDark _ _ _, .declareDark _ _ _, .of_area rfl, .of_area rfl, .refl s, .refl s, .refl s, .refl s]

theorem KeepsOrders.checkSettle (s : State) (u : Fin 32) : s.KeepsOrders (s.checkSettle u) := by
  unfold State.checkSettle
  dsimp only
  split
  exacts [KeepsOrders.trans (.of_area rfl) (.changeState _ _ _ _), .refl s]

theorem KeepsOrders.checkProof (s : State) (u : Fin 32) : s.KeepsOrders (s.checkProof u) := by
  unfold State.checkProof
  dsimp only
  split
  exacts [.changeState _ _ _ _, .refl s]

theorem KeepsOrders.changeLight (s : State) (u : Fin 32) (light : Light) : s.KeepsOrders (s.changeLight u light) := by
  unfold State.changeLight
  dsimp only
  split
  · exact KeepsOrders.trans (.of_area rfl) (.fail _ _ _)
  · split
    exacts [KeepsOrders.trans (.of_area rfl) (.checkProof _ _), .of_area rfl]

theorem KeepsOrders.deliverAffirming (s : State) (u : Fin 32) : s.KeepsOrders (s.deliverAffirming u) := by
  unfold State.deliverAffirming
  split
  · split
    · unfold State.enterSettling
      exact ((KeepsOrders.modifyUplink s u _).trans (.changeState _ _ _ _)).trans (.checkSettle _ _)
    · exact .refl s
  exacts [.checkSettle _ _, .checkProof _ _, .refl s, .refl s, .refl s, .refl s, .refl s]

theorem KeepsOrders.judgeWindow (s : State) (u : Fin 32) : s.KeepsOrders (s.judgeWindow u) := by
  unfold State.judgeWindow
  dsimp only
  split
  exacts [KeepsOrders.trans (.of_area rfl) (.fail _ _ _), .of_area rfl]

theorem KeepsOrders.judgeDrill (s : State) (u : Fin 32) (d : DrillRecord) : s.KeepsOrders (s.judgeDrill u d) := by
  unfold State.judgeDrill
  split
  · exact .changeState _ _ _ _
  · dsimp only
    split
    exacts [(KeepsOrders.changeState _ _ _ _).trans (.handMask _ _ _), .changeState _ _ _ _]

/-- What a completion produces depends on the slot holds and the run state only. -/
theorem ending_eq {s t : State} (h : s.KeepsOrders t) (run : t.control.runState = s.control.runState)
    (slot : Option (Fin 16)) (kind : OrderKind) (failed : Bool) (reason : OrderReason) (results : Results) :
    t.ending slot kind failed reason results = s.ending slot kind failed reason results := by
  unfold State.ending State.held
  rw [h.2.2, run]

/-! ### The operations of the Uplink Monitor -/

variable (s u)

theorem modifyUplink_masks {f : UplinkRecord → UplinkRecord} (h : (f (s.uplink u)).params = (s.uplink u).params)
    (w : Fin 32) : ((s.modifyUplink u f).uplink w).params.conduitMask = (s.uplink w).params.conduitMask := by
  by_cases e : w = u
  · subst e
    rw [modifyUplink_uplink_self, h]
  · rw [modifyUplink_uplink_other _ _ _ _ e]

theorem changeState_masks (new : UplinkState) (cause : Option DarkCause) (w : Fin 32) :
    ((s.changeState u new cause).uplink w).params.conduitMask = (s.uplink w).params.conduitMask := by
  by_cases e : w = u
  · subst e
    rw [changeState_uplink_self]
  · rw [changeState_uplink_other _ _ _ _ _ e]

/-- A change of the record before a part of an event. -/
theorem Brought.after {f : UplinkRecord → UplinkRecord} {s t : State} {u : Fin 32} {moves : List Move}
    {raised : Option DarkCause} {others : List Entry} (x : (s.modifyUplink u f).Brought t u moves raised others)
    (h : (f (s.uplink u)).params = (s.uplink u).params) : s.Brought t u moves raised others :=
  x.from rfl rfl rfl rfl rfl rfl rfl (modifyUplink_masks s u h) rfl

theorem Brought.modifyUplink (f : UplinkRecord → UplinkRecord) : s.Brought (s.modifyUplink u f) u [] none [] :=
  .quiet rfl rfl rfl rfl rfl rfl rfl

/-- A change of state after a change of the record. -/
theorem Brought.changeAfter {f : UplinkRecord → UplinkRecord} (new : UplinkState) (cause : Option DarkCause)
    (h : (f (s.uplink u)).params = (s.uplink u).params) :
    s.Brought ((s.modifyUplink u f).changeState u new cause) u
      [{ left := (f (s.uplink u)).state, entered := new, cause := causeAfter new cause }] none [] := by
  have x := Brought.after (s := s) (u := u) (f := f) (Brought.changeState (s := s.modifyUplink u f) (u := u) new cause) h
  rwa [modifyUplink_uplink_self] at x

theorem Brought.recordFlap (h : (s.uplink u).state ≠ .quarantined) : s.Brought (s.recordFlap u) u
    (if ((s.recordFlap u).uplink u).state = .quarantined then
      [{ left := (s.uplink u).state, entered := .quarantined, cause := (s.uplink u).darkCause }] else []) none [] := by
  let f : UplinkRecord → UplinkRecord := fun r =>
    { r with flaps := pruneFlaps s.now (flapSpan r.params) r.flaps ++ [s.now] }
  have quarantined := Brought.after (s := s) (u := u) (f := f) (Brought.changeAfter (s.modifyUplink u f) u
    (f := fun r => { r with flaps := [] }) .quarantined (s.uplink u).darkCause rfl) rfl
  simp only [modifyUplink_uplink_self] at quarantined
  unfold State.recordFlap
  dsimp only
  split
  · rw [changeState_uplink_self, if_pos rfl, modifyUplink_uplink_self]
    exact quarantined
  · rw [modifyUplink_uplink_self, if_neg h]
    exact .modifyUplink _ _ _

/-- A raise for a cause that raises. -/
theorem Brought.handMask (cause : DarkCause) :
    s.Brought (s.handMask u cause) u [] (if cause.raises then some cause else none) [] := by
  unfold State.handMask
  split
  · exact .raiseMask _
  · exact .quiet rfl rfl rfl rfl rfl rfl rfl

theorem handMask_masks (cause : DarkCause) (w : Fin 32) :
    ((s.handMask u cause).uplink w).params.conduitMask = (s.uplink w).params.conduitMask := by
  unfold State.handMask
  split <;> simp

theorem handMask_hold (cause : DarkCause) : (s.handMask u cause).conduits.hold = s.conduits.hold := by
  unfold State.handMask
  split
  · rw [raiseMask_conduits, raised_hold]
  · rfl

/-- A declaration of DARK with its raise and its flap (R12, R17). -/
theorem Brought.declareDark (cause : DarkCause) : s.Brought (s.declareDark u cause) u
    ({ left := (s.uplink u).state, entered := .dark, cause := some cause }
      :: if ((s.declareDark u cause).uplink u).state = .quarantined then
          [{ left := .dark, entered := .quarantined, cause := some cause }] else [])
    (if cause.raises then some cause else none) [] := by
  unfold State.declareDark
  have dark := Brought.changeAfter s u (f := fun r => { r with settleStart := none, settleExpiry := none }) .dark
    (some cause) rfl
  generalize e : (s.modifyUplink u fun r => { r with settleStart := none, settleExpiry := none }).changeState u .dark
    (some cause) = d at dark ⊢
  have record : (d.uplink u).state = .dark ∧ (d.uplink u).darkCause = some cause := by
    subst e
    simp [causeAfter]
  have masks : ∀ w, (d.uplink w).params.conduitMask = (s.uplink w).params.conduitMask := by
    subst e
    intro w
    rw [changeState_masks]
    exact modifyUplink_masks s u (by rfl) w
  have conduits : d.conduits = s.conduits := by
    subst e
    simp
  have raised := dark.then (.handMask d u cause) masks conduits
  have same : (d.handMask u cause).uplink u = d.uplink u := by
    unfold State.handMask
    split <;> simp
  have flap := Brought.recordFlap (d.handMask u cause) u (by rw [same, record.1]; simp)
  rw [same, record.1, record.2] at flap
  exact raised.last flap (fun w => (handMask_masks d u cause w).trans (masks w))
    ((handMask_hold d u cause).trans (by rw [conduits]))

theorem raisedBy_eq (r : UplinkRecord) (cause : DarkCause) (h : r.state = .up ∨ r.state = .settling) :
    (if cause.raises then some cause else none) = r.raisedBy cause := by
  unfold UplinkRecord.raisedBy
  cases cause <;> simp [DarkCause.raises, h]

/-- A failure that the state machine is told of (R11, R15, R16, R21). -/
theorem Brought.fail (cause : DarkCause) : s.Brought (s.fail u cause) u
    ((s.uplink u).movesTo ((s.uplink u).failed cause s.now)) ((s.uplink u).raisedBy cause) [] := by
  have declared : ((s.uplink u).state = .up ∨ (s.uplink u).state = .settling) → s.Brought (s.declareDark u cause) u
      ((s.uplink u).movesTo ((s.uplink u).failed cause s.now)) ((s.uplink u).raisedBy cause) [] := by
    intro h
    have x := Brought.declareDark s u cause
    rw [raisedBy_eq _ _ h, declareDark_uplink_self] at x
    have m : (s.uplink u).movesTo ((s.uplink u).failed cause s.now)
        = { left := (s.uplink u).state, entered := .dark, cause := some cause }
          :: if ((s.uplink u).declared cause s.now).state = .quarantined then
              [{ left := .dark, entered := .quarantined, cause := some cause }] else [] := by
      unfold UplinkRecord.movesTo UplinkRecord.failed
      rw [if_pos h]
      unfold UplinkRecord.declared
      dsimp only
      split <;> rcases h with h | h <;> simp [h]
    rw [m]
    exact x
  have kept : ∀ t, s.Brought t u [] none [] → ((s.uplink u).failed cause s.now).state = (s.uplink u).state →
      ¬((s.uplink u).state = .up ∨ (s.uplink u).state = .settling) →
      s.Brought t u ((s.uplink u).movesTo ((s.uplink u).failed cause s.now)) ((s.uplink u).raisedBy cause) [] := by
    intro t x same h
    rw [show (s.uplink u).raisedBy cause = none by unfold UplinkRecord.raisedBy; rw [if_neg (fun k => h k.1)],
      show (s.uplink u).movesTo ((s.uplink u).failed cause s.now) = [] by unfold UplinkRecord.movesTo; rw [if_pos same]]
    exact x
  unfold State.fail
  split
  case h_1 h => exact declared (.inl h)
  case h_2 h => exact declared (.inr h)
  case h_3 h => exact kept _ (.modifyUplink _ _ _) (by simp [UplinkRecord.failed, h]) (by simp [h])
  case h_4 h => exact kept _ (.modifyUplink _ _ _) (by simp [UplinkRecord.failed, h]) (by simp [h])
  all_goals next h =>
    exact kept _ (.quiet rfl rfl rfl rfl rfl rfl rfl) (by simp [UplinkRecord.failed, h]) (by simp [h])

/-- The check of a SETTLING uplink's conditions (R14). -/
theorem Brought.checkSettle (h : (s.uplink u).state ≠ .up) : s.Brought (s.checkSettle u) u
    (if ((s.uplink u).settledAt s.now).state = .up then
      [{ left := (s.uplink u).state, entered := .up, cause := none }] else []) none [] := by
  unfold State.checkSettle UplinkRecord.settledAt
  dsimp only
  split
  · rw [if_pos rfl]
    exact Brought.changeAfter s u (f := fun r => { r with settleStart := none, settleExpiry := none }) .up none rfl
  · exact .quiet rfl rfl rfl rfl rfl rfl rfl

/-- The check of a PROVING uplink's conditions (R16). -/
theorem Brought.checkProof (h : (s.uplink u).state = .proving) : s.Brought (s.checkProof u) u
    ((s.uplink u).movesTo (s.uplink u).proven) none [] := by
  unfold State.checkProof UplinkRecord.proven UplinkRecord.movesTo
  dsimp only
  split
  · simp only [h]
    have x := Brought.changeState (s := s) (u := u) .up none
    rw [h] at x
    exact x
  · rw [if_pos rfl]
    exact .quiet rfl rfl rfl rfl rfl rfl rfl

/-- A change of light, delivered to the state machine (R3). -/
theorem Brought.changeLight (light : Light) : s.Brought (s.changeLight u light) u
    ((s.uplink u).movesTo ((s.uplink u).lightChanged light s.now))
    (if light = .lost then (s.uplink u).raisedBy .lightLost else none) [] := by
  unfold State.changeLight UplinkRecord.lightChanged
  cases light with
  | lost =>
    have x := Brought.after (s := s) (u := u) (f := fun r => { r with light := .lost, lightTimer := none })
      (Brought.fail _ u .lightLost) rfl
    rw [modifyUplink_uplink_self] at x
    exact x
  | present =>
    dsimp only
    simp only [modifyUplink_uplink_self]
    split
    · next h =>
      have x := Brought.after (s := s) (u := u) (f := fun r => { r with light := .present, lightTimer := none })
        (Brought.checkProof _ u (by rw [modifyUplink_uplink_self]; exact h)) rfl
      rw [modifyUplink_uplink_self] at x
      convert x using 1
      all_goals simp [UplinkRecord.movesTo, h]
    · next h =>
      simp only [if_false, UplinkRecord.movesTo, if_true, reduceCtorEq]
      exact .modifyUplink _ _ _

/-- A SETTLING record that is checked stays, or is UP. -/
theorem settledAt_cases (r : UplinkRecord) (now : PartTime) :
    r.settledAt now = r ∨ (r.settledAt now).state = .up ∧ (r.settledAt now).darkCause = none := by
  unfold UplinkRecord.settledAt
  split
  exacts [.inr ⟨rfl, rfl⟩, .inl rfl]

/-- From DARK with light an uplink enters SETTLING, and UP at once where the conditions hold (R13, R14). -/
theorem Brought.enterSettling (h : (s.uplink u).state = .dark) : s.Brought (s.enterSettling u) u
    ((s.uplink u).movesTo ((s.enterSettling u).uplink u)) none [] := by
  have record := enterSettling_uplink_self s u
  unfold State.enterSettling at record ⊢
  let f : UplinkRecord → UplinkRecord := fun r =>
    { r with settleStart := some s.now, settleExpiry := some (Machine.after s.now (1000 * r.params.settleTime))
             runCount := 1, missCount := 0, blindCount := 0, mismatchMark := false }
  have settling := Brought.changeAfter s u (f := f) .settling (s.uplink u).darkCause rfl
  have masks : ∀ w, (((s.modifyUplink u f).changeState u .settling (s.uplink u).darkCause).uplink w).params.conduitMask
      = (s.uplink w).params.conduitMask := fun w => by
    rw [changeState_masks]
    exact modifyUplink_masks s u (by rfl) w
  have conduits : ((s.modifyUplink u f).changeState u .settling (s.uplink u).darkCause).conduits = s.conduits := by simp
  have now : ((s.modifyUplink u f).changeState u .settling (s.uplink u).darkCause).now = s.now := settling.choose_spec.2.now
  have settled := Brought.checkSettle ((s.modifyUplink u f).changeState u .settling (s.uplink u).darkCause) u (by simp)
  have x := settling.then settled masks conduits
  rw [record]
  rw [changeState_uplink_self, modifyUplink_uplink_self, now] at x
  convert x using 1
  · simp only [UplinkRecord.movesTo, h, causeAfter, f]
    rcases settledAt_cases { s.uplink u with
        state := .settling, darkCause := (s.uplink u).darkCause, settleStart := some s.now
        settleExpiry := some (Machine.after s.now (1000 * (s.uplink u).params.settleTime))
        runCount := 1, missCount := 0, blindCount := 0, mismatchMark := false } s.now with c | c
    · simp [c]
    · simp [c.1]
  · rfl

/-- An affirming probe, delivered to the state machine (R8, R13, R14, R16). -/
theorem Brought.affirm (p : ProbeContent) :
    s.Brought ((s.modifyUplink u fun r => r.affirm p).deliverAffirming u) u
      ((s.uplink u).movesTo ((s.uplink u).affirmed p s.now)) none [] := by
  refine Brought.after (s := s) (u := u) (f := fun r => r.affirm p) ?_ rfl
  have record := modifyUplink_uplink_self s u (fun r => r.affirm p)
  have now : (s.modifyUplink u fun r => r.affirm p).now = s.now := rfl
  generalize (s.modifyUplink u fun r => r.affirm p) = a at record now ⊢
  have same : (a.uplink u).state = (s.uplink u).state := by rw [record]; rfl
  have light : (a.uplink u).light = (s.uplink u).light := by rw [record]; rfl
  have kept : ((s.uplink u).affirmed p s.now).state = (s.uplink u).state →
      a.Brought a u ((s.uplink u).movesTo ((s.uplink u).affirmed p s.now)) none [] := by
    intro h
    rw [UplinkRecord.movesTo, if_pos h]
    exact .quiet rfl rfl rfl rfl rfl rfl rfl
  have idle : (s.uplink u).state ≠ .dark ∨ (s.uplink u).light ≠ .present → (s.uplink u).state ≠ .settling →
      (s.uplink u).state ≠ .proving → ((s.uplink u).affirmed p s.now).state = (s.uplink u).state := by
    intro h1 h2 h3
    unfold UplinkRecord.affirmed
    dsimp only
    rw [if_neg (by tauto), if_neg h2, if_neg h3]
  unfold State.deliverAffirming
  rw [same, light]
  split
  case h_1 h =>
    split
    · next l =>
      convert Brought.enterSettling a u (same.trans h) using 1
      rw [enterSettling_uplink_self, record, now]
      simp only [UplinkRecord.movesTo, UplinkRecord.affirmed, UplinkRecord.affirm, UplinkRecord.accept, h, l, and_self,
        if_true, saturate, Machine.after]
    · next l => exact kept (idle (.inr l) (by simp [h]) (by simp [h]))
  case h_2 h =>
    convert Brought.checkSettle a u (by simp [same, h]) using 1
    have e : (s.uplink u).affirmed p s.now = (a.uplink u).settledAt a.now := by
      rw [record, now]
      simp only [UplinkRecord.affirmed, UplinkRecord.affirm, UplinkRecord.accept, h, saturate, reduceCtorEq, false_and,
        if_false, if_true]
    rw [e]
    unfold UplinkRecord.movesTo
    rcases settledAt_cases (a.uplink u) a.now with c | c
    · simp [c, same, h]
    · simp [c, same, h]
  case h_3 h =>
    convert Brought.checkProof a u (same.trans h) using 1
    rw [record]
    simp only [UplinkRecord.movesTo, UplinkRecord.affirmed, UplinkRecord.affirm, UplinkRecord.accept, h, saturate,
      reduceCtorEq, false_and, if_false, if_true]
  all_goals next h => exact kept (idle (.inl (by simp [h])) (by simp [h]) (by simp [h]))

/-- The judgment of a window, with the failure it amounts to (R9, R11). -/
theorem Brought.judgeWindow : s.Brought (s.judgeWindow u) u
    ((s.uplink u).movesTo ((s.judgeWindow u).uplink u))
    ((s.uplink u).judge.failure.bind (s.uplink u).raisedBy) [] := by
  have same : (s.uplink u).judge.state = (s.uplink u).state ∧ (s.uplink u).judge.darkCause = (s.uplink u).darkCause
      ∧ (s.uplink u).judge.params = (s.uplink u).params := by
    unfold UplinkRecord.judge
    split <;> (try split) <;> (try split) <;> exact ⟨rfl, rfl, rfl⟩
  rw [judgeWindow_uplink_self]
  unfold State.judgeWindow
  dsimp only
  rw [modifyUplink_uplink_self]
  cases h : (s.uplink u).judge.failure with
  | none =>
    simp only [UplinkRecord.movesTo, same.1, if_true, Option.bind_none]
    exact .modifyUplink _ _ _
  | some cause =>
    have x := Brought.after (s := s) (u := u) (f := UplinkRecord.judge) (Brought.fail _ u cause) same.2.2
    rw [modifyUplink_uplink_self] at x
    convert x using 1
    · simp only [UplinkRecord.movesTo, same.1, same.2.1]
      rfl
    · simp only [UplinkRecord.raisedBy, same.1, Option.bind_some]

/-! ### Drills and orders (R22, R23, R156) -/

/-- The completion of an order (R156). -/
theorem Brought.completeOrder (slot : Option (Fin 16)) (kind : OrderKind) (failed : Bool) (reason : OrderReason)
    (results : Results) : s.Brought (s.completeOrder slot kind failed reason results) u [] none
      (s.ending slot kind failed reason results) := by
  unfold State.completeOrder State.ending
  cases s.held slot with
  | none => exact .produce _
  | some k =>
    dsimp only
    split
    · exact .quiet rfl rfl rfl rfl rfl rfl rfl
    · exact (Brought.produce (s := s.dropHold k) _).from rfl rfl rfl rfl rfl rfl rfl (fun _ => rfl) rfl

theorem judgeDrill_masks (d : DrillRecord) (w : Fin 32) :
    ((s.judgeDrill u d).uplink w).params.conduitMask = (s.uplink w).params.conduitMask := by
  unfold State.judgeDrill
  split
  · exact changeState_masks s u _ _ w
  · dsimp only
    split
    · rw [handMask_masks, changeState_masks]
    · exact changeState_masks s u _ _ w

/-- The judgment at the end of a drill (R22). -/
theorem Brought.judgeDrill (d : DrillRecord) (h : (s.uplink u).drill = some d) :
    s.Brought (s.judgeDrill u d) u [(s.uplink u).drillMove] d.raises [] := by
  have sound : (s.uplink u).drillSound d = true ↔ (s.uplink u).light = .present
      ∧ (s.uplink u).missCount < (s.uplink u).params.missLimit
      ∧ (s.uplink u).blindCount < (s.uplink u).params.missLimit ∧ d.finding = none := by
    simp [UplinkRecord.drillSound, and_assoc]
  unfold State.judgeDrill UplinkRecord.drillMove UplinkRecord.drillJudged DrillRecord.raises
  rw [h]
  dsimp only
  split
  · next k =>
    rw [if_pos (sound.1 k), (sound.1 k).2.2.2]
    exact Brought.changeState .up none
  · next k =>
    rw [if_neg (fun n => k (sound.2 n))]
    have x := Brought.changeState (s := s) (u := u) .dark d.finding
    split
    · next cause e =>
      have y := Brought.handMask (s.changeState u .dark d.finding) u cause
      have z := x.then y (changeState_masks s u _ _) (by simp)
      convert z using 1
      · rfl
      · rw [e]
        cases cause <;> rfl
      · rfl
    · next e =>
      rw [e]
      rw [e] at x
      exact x

/-- A drill that ends (R22, R23, R28). -/
theorem Brought.endDrill (d : DrillRecord) (failed : Bool) (reason : OrderReason) (h : (s.uplink u).drill = some d) :
    s.Brought (s.endDrill u d failed reason) u [(s.uplink u).drillMove] d.raises
      (s.ending d.slot .drillStart failed reason (drillResults d (s.walkOf u) ((s.uplink u).drillSound d))) := by
  have x := Brought.judgeDrill s u d h
  have completed := Brought.completeOrder (s.judgeDrill u d) u d.slot .drillStart failed reason
    (drillResults d (s.walkOf u) ((s.uplink u).drillSound d))
  have hold : (s.judgeDrill u d).conduits.hold = s.conduits.hold := by
    unfold State.judgeDrill
    split
    · simp
    · dsimp only
      split
      · rw [handMask_hold]
        simp
      · simp
  rw [ending_eq (KeepsOrders.judgeDrill s u d) (by simp)] at completed
  have whole := x.last completed (judgeDrill_masks s u d) hold
  rw [List.append_nil, List.nil_append] at whole
  exact whole.settle rfl rfl rfl rfl rfl rfl rfl

/-! ### What stands after the event has ended -/

variable {s u} {t : State} {moves : List Move} {raised : Option DarkCause} {others : List Entry}

theorem Brought.settleArea (x : s.Brought t u moves raised others) : s.Brought t.settleArea u moves raised others :=
  x.settle (settleArea_control t) (settleArea_engine t) (settleArea_groups t) (settleArea_area_holding t)
    (settleArea_area_gapCount t) (settleArea_area_firstDrop t) (settleArea_area_lastDrop t)

/-- The emission of a PROBE_OUT is about the port and the transmit sequence only (R5, R6). -/
theorem Brought.emitProbe (x : s.Brought t u moves raised others) (v : Fin 32) :
    s.Brought (t.emitProbe v) u moves raised others := by
  unfold State.emitProbe
  split
  · exact x
  · exact x.settle rfl rfl rfl rfl rfl rfl rfl

/-- The sweep's going on after an order slot is about the sweep only (R155). -/
theorem Brought.awaitSlot (x : s.Brought t u moves raised others) (k : Fin 16) :
    s.Brought (t.awaitSlot k) u moves raised others := by
  refine x.settle ?_ ?_ ?_ ?_ ?_ ?_ ?_ <;>
    (unfold State.awaitSlot State.afterSlot State.beginFlush State.resumeFlush State.beginPage State.sweepTo
     split <;> (try split) <;> (try split) <;> (try split) <;> rfl)

end State

end Sys2Proof.Machine
end

