-- ==== Sys2Proof/Laws/InOrder.lean ====
section
/-! SUPPORT. The records of an event on an uplink, in their order: the first change of state, the conduits raised, the change
of state that follows (`State.inOrder`; R10, R13, R17, R44). -/

namespace Sys2Proof.Machine.State

variable (s : State) (u : Fin 32)

/-- A record changed before a part of an event leaves the order of its records. -/
theorem inOrder_modifyUplink {f : UplinkRecord → UplinkRecord} (h : (f (s.uplink u)).params = (s.uplink u).params)
    (moves : List Move) (raised : Option DarkCause) :
    (s.modifyUplink u f).inOrder u moves raised = s.inOrder u moves raised := by
  unfold inOrder alarmed
  rw [modifyUplink_uplink_self, h]
  rfl

/-- Without a raise the records are those of the changes of state, in their order. -/
theorem inOrder_none (moves : List Move) : s.inOrder u moves none = moves.map (Move.record u) := by
  simp only [inOrder, alarmed, Option.toList_none, List.flatMap_nil, List.map_nil, List.append_nil, ← List.map_append,
    List.take_append_drop]

/-- One change of state at most, and nothing raised: there is one order. -/
theorem Brought.inOrder {s t : State} {u : Fin 32} {moves : List Move} (x : s.Brought t u moves none [])
    (h : moves.length ≤ 1) : s.Produced t (s.inOrder u moves none) := by
  obtain ⟨l, perm, b⟩ := x
  rw [inOrder_none]
  simp only [alarmed, Option.toList_none, List.flatMap_nil, List.map_nil, List.append_nil] at perm
  match moves with
  | [] =>
    rw [List.map_nil] at perm ⊢
    exact List.perm_nil.1 perm ▸ b.produced
  | [m] =>
    rw [List.map_cons, List.map_nil] at perm ⊢
    exact List.perm_singleton.1 perm ▸ b.produced
  | _ :: _ :: _ => simp at h

theorem produced_changeState (new : UplinkState) (cause : Option DarkCause) :
    s.Produced (s.changeState u new cause)
      [Move.record u { left := (s.uplink u).state, entered := new, cause := causeAfter new cause }] :=
  (Brings.changeState s u new cause).produced

/-- The conduits that a cause raises make their records, by ascending number (R44). -/
theorem produced_handMask (cause : DarkCause) :
    s.Produced (s.handMask u cause)
      ((s.alarmed u (if cause.raises then some cause else none)).map (s.alarmRecord u)) := by
  unfold State.handMask
  split
  · have clear : s.alarmed u (some cause)
        = (s.clearOf ((List.finRange 64).filter fun c => (s.uplink u).params.conduitMask.getLsbD c.val)).map
          fun c => (c, cause) := by
      unfold alarmed clearOf
      rw [List.filter_filter, Option.toList_some, List.flatMap_singleton]
      congr 2
      funext c
      exact Bool.and_comm _ _
    rw [clear, List.map_map]
    exact (Brings.raiseAll s u cause _ ((List.nodup_finRange 64).filter _)).produced
  · exact .refl _

/-- A declaration of DARK: its change of state, its raises, and the move to QUARANTINED of a flap (R12, R17, R44). -/
theorem inOrder_declareDark (cause : DarkCause) : s.Produced (s.declareDark u cause) (s.inOrder u
    ({ left := (s.uplink u).state, entered := .dark, cause := some cause }
      :: if ((s.declareDark u cause).uplink u).state = .quarantined then
          [{ left := .dark, entered := .quarantined, cause := some cause }] else [])
    (if cause.raises then some cause else none)) := by
  unfold State.declareDark
  let f : UplinkRecord → UplinkRecord := fun r => { r with settleStart := none, settleExpiry := none }
  have dark : s.Produced ((s.modifyUplink u f).changeState u .dark (some cause)) _ :=
    produced_changeState (s.modifyUplink u f) u .dark (some cause)
  have now : ((s.modifyUplink u f).changeState u .dark (some cause)).now = s.now := by simp
  have masks := fun w => (changeState_masks (s.modifyUplink u f) u .dark (some cause) w).trans
    (modifyUplink_masks s u (f := f) (by rfl) w)
  have record : (((s.modifyUplink u f).changeState u .dark (some cause)).uplink u).state = .dark
      ∧ (((s.modifyUplink u f).changeState u .dark (some cause)).uplink u).darkCause = some cause := by
    simp [causeAfter]
  have conduits : ((s.modifyUplink u f).changeState u .dark (some cause)).conduits = s.conduits := by simp
  rw [modifyUplink_uplink_self] at dark
  generalize (s.modifyUplink u f).changeState u .dark (some cause) = d at dark now masks record conduits ⊢
  have alarms : d.alarmed u (if cause.raises then some cause else none)
      = s.alarmed u (if cause.raises then some cause else none) := by
    unfold alarmed State.alarm
    rw [conduits, masks]
  have stamp : d.alarmRecord u = s.alarmRecord u := by
    funext a
    simp only [alarmRecord, now, conduits]
  have raised := dark.trans (produced_handMask d u cause) now
  rw [alarms, stamp] at raised
  have same : (d.handMask u cause).uplink u = d.uplink u := by
    unfold State.handMask
    split <;> simp
  have later : (d.handMask u cause).now = s.now := by
    refine Eq.trans ?_ now
    unfold State.handMask
    split <;> simp
  have flap := (Brought.recordFlap (d.handMask u cause) u (by rw [same, record.1]; simp)).inOrder (by split <;> simp)
  rw [same, record.1, record.2, inOrder_none] at flap
  have whole := raised.trans flap later
  unfold inOrder
  simp only [List.take_succ_cons, List.take_zero, List.drop_succ_cons, List.drop_zero, List.map_cons, List.map_nil]
  exact whole

/-- A failure that the state machine is told of (R11, R15, R16, R21). -/
theorem inOrder_fail (cause : DarkCause) : s.Produced (s.fail u cause) (s.inOrder u
    ((s.uplink u).movesTo ((s.uplink u).failed cause s.now)) ((s.uplink u).raisedBy cause)) := by
  by_cases h : (s.uplink u).state = .up ∨ (s.uplink u).state = .settling
  · have x := inOrder_declareDark s u cause
    rw [raisedBy_eq _ _ h, declareDark_uplink_self] at x
    have m : (s.uplink u).movesTo ((s.uplink u).failed cause s.now)
        = { left := (s.uplink u).state, entered := .dark, cause := some cause }
          :: if ((s.uplink u).declared cause s.now).state = .quarantined then
              [{ left := .dark, entered := .quarantined, cause := some cause }] else [] := by
      unfold UplinkRecord.movesTo UplinkRecord.failed
      rw [if_pos h]
      unfold UplinkRecord.declared
      dsimp only
      split <;> rcases h with h | h <;> simp [h]
    have e : s.fail u cause = s.declareDark u cause := by
      unfold State.fail
      rcases h with h | h <;> simp [h]
    rw [m, e]
    exact x
  · have r : (s.uplink u).raisedBy cause = none := by
      unfold UplinkRecord.raisedBy
      rw [if_neg fun k => h k.1]
    have x := Brought.fail s u cause
    rw [r] at x ⊢
    have same : ((s.uplink u).failed cause s.now).state = (s.uplink u).state := by
      unfold UplinkRecord.failed
      rw [if_neg h]
      split <;> (try split) <;> rfl
    exact x.inOrder (by simp [UplinkRecord.movesTo, same])

/-- A change of state that does not pass through a second one. -/
theorem movesTo_length {r r' : UplinkRecord} (up : r.state ≠ .dark ∨ r'.state ≠ .up) (out : r'.state ≠ .quarantined
    ∨ r.state = .quarantined) : (r.movesTo r').length ≤ 1 := by
  unfold UplinkRecord.movesTo
  split
  · simp
  · split
    · simp_all
    · split <;> simp_all

/-- A change of light (R3, R11, R15, R16, R21). -/
theorem inOrder_changeLight (light : Light) : s.Produced (s.changeLight u light) (s.inOrder u
    ((s.uplink u).movesTo ((s.uplink u).lightChanged light s.now))
    (if light = .lost then (s.uplink u).raisedBy .lightLost else none)) := by
  cases light with
  | lost =>
    have x := inOrder_fail (s.modifyUplink u fun r => { r with light := .lost, lightTimer := none }) u .lightLost
    rw [inOrder_modifyUplink s u (by rfl), modifyUplink_uplink_self] at x
    exact x
  | present =>
    have x := Brought.changeLight s u .present
    rw [if_neg (by decide)] at x ⊢
    refine x.inOrder ?_
    unfold UplinkRecord.lightChanged
    rw [if_neg (by decide)]
    split
    · next h =>
      refine movesTo_length (.inl (by simp [h])) (.inl ?_)
      unfold UplinkRecord.proven
      split <;> simp [h]
    · simp [UplinkRecord.movesTo]

/-- The judgment of a window, with the failure it amounts to (R9, R11). -/
theorem inOrder_judgeWindow : s.Produced (s.judgeWindow u) (s.inOrder u
    ((s.uplink u).movesTo ((s.judgeWindow u).uplink u)) ((s.uplink u).judge.failure.bind (s.uplink u).raisedBy)) := by
  have same : (s.uplink u).judge.state = (s.uplink u).state ∧ (s.uplink u).judge.darkCause = (s.uplink u).darkCause
      ∧ (s.uplink u).judge.params = (s.uplink u).params := by
    unfold UplinkRecord.judge
    split <;> (try split) <;> (try split) <;> exact ⟨rfl, rfl, rfl⟩
  cases h : (s.uplink u).judge.failure with
  | none =>
    have x := Brought.judgeWindow s u
    rw [h] at x
    refine x.inOrder ?_
    rw [judgeWindow_uplink_self, h]
    simp [UplinkRecord.movesTo, same.1]
  | some cause =>
    have x := inOrder_fail (s.modifyUplink u UplinkRecord.judge) u cause
    rw [inOrder_modifyUplink s u same.2.2, modifyUplink_uplink_self] at x
    rw [judgeWindow_uplink_self]
    unfold State.judgeWindow
    dsimp only
    rw [modifyUplink_uplink_self, h]
    have moves : (s.uplink u).movesTo ((s.uplink u).judge.failed cause s.now)
        = (s.uplink u).judge.movesTo ((s.uplink u).judge.failed cause s.now) := by
      simp only [UplinkRecord.movesTo, same.1, same.2.1]
    have raised : (s.uplink u).raisedBy cause = (s.uplink u).judge.raisedBy cause := by
      simp only [UplinkRecord.raisedBy, same.1]
    dsimp only [Option.bind_some]
    rw [moves, raised]
    exact x

/-- The check of a SETTLING uplink's conditions (R14). -/
theorem inOrder_checkSettle (h : (s.uplink u).state ≠ .up) : s.Produced (s.checkSettle u) (s.inOrder u
    (if ((s.uplink u).settledAt s.now).state = .up then
      [{ left := (s.uplink u).state, entered := .up, cause := none }] else []) none) :=
  (Brought.checkSettle s u h).inOrder (by split <;> simp)

/-- From DARK with light an uplink enters SETTLING, and then UP at once where the conditions hold (R13, R14). -/
theorem inOrder_enterSettling (h : (s.uplink u).state = .dark) : s.Produced (s.enterSettling u)
    (s.inOrder u ((s.uplink u).movesTo ((s.enterSettling u).uplink u)) none) := by
  have record := enterSettling_uplink_self s u
  unfold State.enterSettling at record ⊢
  let f : UplinkRecord → UplinkRecord := fun r =>
    { r with settleStart := some s.now, settleExpiry := some (Machine.after s.now (1000 * r.params.settleTime))
             runCount := 1, missCount := 0, blindCount := 0, mismatchMark := false }
  have settling : s.Produced ((s.modifyUplink u f).changeState u .settling (s.uplink u).darkCause) _ :=
    produced_changeState (s.modifyUplink u f) u .settling (s.uplink u).darkCause
  have now : ((s.modifyUplink u f).changeState u .settling (s.uplink u).darkCause).now = s.now := by simp
  have settled := inOrder_checkSettle ((s.modifyUplink u f).changeState u .settling (s.uplink u).darkCause) u (by simp)
  have x := settling.trans settled now
  rw [record, inOrder_none]
  rw [inOrder_none, changeState_uplink_self, modifyUplink_uplink_self, now] at x
  convert x using 1
  simp only [UplinkRecord.movesTo, h, causeAfter, f]
  rcases settledAt_cases { s.uplink u with
      state := .settling, darkCause := (s.uplink u).darkCause, settleStart := some s.now
      settleExpiry := some (Machine.after s.now (1000 * (s.uplink u).params.settleTime))
      runCount := 1, missCount := 0, blindCount := 0, mismatchMark := false } s.now with c | c
  · simp [c]
  · simp [c.1]

/-- An affirming probe (R8, R13, R14, R16). -/
theorem inOrder_affirm (p : ProbeContent) :
    s.Produced ((s.modifyUplink u fun r => r.affirm p).deliverAffirming u)
      (s.inOrder u ((s.uplink u).movesTo ((s.uplink u).affirmed p s.now)) none) := by
  by_cases h : (s.uplink u).state = .dark ∧ (s.uplink u).light = .present
  · have record := modifyUplink_uplink_self s u (fun r => r.affirm p)
    have now : (s.modifyUplink u fun r => r.affirm p).now = s.now := rfl
    rw [← inOrder_modifyUplink s u (f := fun r => r.affirm p) (by rfl)]
    change (s.modifyUplink u fun r => r.affirm p).Produced _ _
    generalize (s.modifyUplink u fun r => r.affirm p) = a at record now ⊢
    have same : (a.uplink u).state = .dark := by rw [record]; exact h.1
    have light : (a.uplink u).light = .present := by rw [record]; exact h.2
    have x := inOrder_enterSettling a u same
    rw [enterSettling_uplink_self] at x
    unfold State.deliverAffirming
    rw [same, light]
    dsimp only
    rw [if_pos rfl]
    convert x using 2
    rw [record, now]
    simp only [UplinkRecord.movesTo, UplinkRecord.affirmed, UplinkRecord.affirm, UplinkRecord.accept, h, and_self,
      if_true, saturate, Machine.after]
  · refine (Brought.affirm s u p).inOrder ?_
    unfold UplinkRecord.affirmed
    dsimp only
    rw [if_neg h]
    split
    · next k =>
      refine movesTo_length (.inl (by simp [k])) (.inl ?_)
      unfold UplinkRecord.settledAt
      split <;> simp [k]
    · split
      · next k =>
        refine movesTo_length (.inl (by simp [k])) (.inl ?_)
        unfold UplinkRecord.proven
        split <;> simp [k]
      · simp [UplinkRecord.movesTo]

end Sys2Proof.Machine.State
end

