-- ==== Sys2Proof/Laws/Requests.lean ====
section
/-! SUPPORT. What becomes of an area access requested in an event: it waits, or has been granted, when the event ends; and
where a sweep goes on after an order slot. -/

namespace Sys2Proof.Machine

/-- An open order loses no access. -/
theorem mem_anyOrder {l : List AreaAccess} {a : AreaAccess} (h : a ∈ l) (n : Nat) : a ∈ (anyOrder l n).1 := by
  induction l generalizing n with
  | nil => cases h
  | cons x xs ih =>
    cases xs with
    | nil => simpa [anyOrder] using h
    | cons y ys =>
      unfold anyOrder
      simp only []
      rw [List.mem_insertIdx (Nat.le_of_lt_succ (Nat.mod_lt _ (Nat.succ_pos _)))]
      rcases List.mem_cons.1 h with h | h
      · exact .inl h
      · exact .inr (ih h _)

namespace State

variable (s : State)

/-- A grant takes the first waiting access, and loses none (R145). -/
theorem wants_grantArea {a : AreaAccess} (h : a ∈ s.area.waiting) : s.grantArea.Wants a := by
  unfold State.grantArea
  split
  · next x rest _ w =>
    rw [w] at h
    rcases List.mem_cons.1 h with h | h
    · subst h
      exact .inl rfl
    · exact .inr h
  · exact .inr h

/-- The accesses requested in an event wait or are in progress when it ends (R145). -/
theorem wants_settleArea {a : AreaAccess} (h : a ∈ s.area.requested) : s.settleArea.Wants a := by
  unfold State.settleArea
  refine wants_grantArea _ (List.mem_append_right _ (mem_anyOrder ?_ _))
  unfold State.wakeWriter
  split
  · exact List.mem_append_left _ h
  · exact h

/-- The writer takes a waiting record when it is idle, the run state allows it and the journal is not blocked (R158). -/
theorem settleArea_takes_record (active : s.control.runState.active = true) (blocked : s.area.blocked = false)
    (writer : s.area.writer = .idle) (stopTry : s.area.stopTry = none) (holding : s.area.holding ≠ []) :
    s.settleArea.area.writer = .kindRead ∧ s.settleArea.Wants .journalKindRead := by
  have woken : s.wakeWriter
      = State.request { s with area := { s.area with writer := .kindRead } } .journalKindRead := by
    unfold State.wakeWriter
    rw [if_pos]
    simp [active, blocked, writer, stopTry, holding]
  unfold State.settleArea
  rw [woken]
  refine ⟨?_, wants_grantArea _ (List.mem_append_right _ (mem_anyOrder ?_ _))⟩
  · unfold State.grantArea
    split <;> rfl
  · simp [State.request]

/-! ### A sweep that goes on (R146, R155) -/

/-- A sweep that goes on to a phase stands there, and its access is requested. -/
theorem sweepTo_settleArea (phase : SweepPhase) (a : AreaAccess) :
    s.SweepAt (s.sweepTo phase a).settleArea phase ∧ (s.sweepTo phase a).settleArea.Wants a := by
  refine ⟨?_, wants_settleArea _ (by simp [State.sweepTo, State.request])⟩
  unfold SweepAt
  rw [settleArea_area_sweep]
  rfl

/-- After slots 0 to 14 the next slot is read. -/
theorem afterSlot_nextSlot (k : Fin 16) : s.NextSlot (s.afterSlot k).settleArea k := by
  intro h
  unfold State.afterSlot
  rw [dif_pos h]
  exact sweepTo_settleArea s _ _

/-- After a hand-over the sweep waits for a completion that is being written to the slot, and goes on where there is
none. -/
theorem awaitSlot_nextSlot {s t : State} (k : Fin 16) (h : t.area.sweep = s.area.sweep) :
    ((t.awaitSlot k).settleArea.completion k ≠ none → s.SweepAt (t.awaitSlot k).settleArea (.slotWrite k))
    ∧ ((t.awaitSlot k).settleArea.completion k = none → s.NextSlot (t.awaitSlot k).settleArea k) := by
  have same : (t.awaitSlot k).settleArea.completion k = t.completion k := by
    unfold State.completion
    rw [settleArea_area_completions, awaitSlot_completions]
  rw [same]
  constructor
  · intro n
    unfold State.awaitSlot SweepAt
    rw [if_pos (by simpa [Option.isSome_iff_ne_none] using n), settleArea_area_sweep, ← h]
    rfl
  · intro n
    unfold State.awaitSlot
    rw [if_neg (by simp [n])]
    have next := afterSlot_nextSlot t k
    unfold NextSlot SweepAt at next ⊢
    rw [← h]
    exact next

end State

end Sys2Proof.Machine
end

