-- ==== Sys2Proof/Laws/Walk.lean ====
section
/-! SUPPORT. What the end of a walk makes of the state, and that selection goes on from there. -/

namespace Sys2Proof.Machine

/-- The group a walk treats next is the first of its uplink's list above its cursor, if it has one (R114). -/
theorem nextGroup_eq_find (l : List Nat) (cursor : Option Nat) :
    nextGroup l cursor = l.find? fun g => cursor.all fun c => decide (c < g) := by
  cases cursor with
  | none => cases l <;> simp [nextGroup]
  | some c => rfl

namespace State

variable (s : State) (w : Walk)

/-- The record of the end of a walk is the one it produces (R118). -/
theorem endWalk_produced (cls : WalkClass) : s.Produced (s.endWalk w cls)
    [.walkDone w.uplink cls w.conversions w.groupsTouched w.bucketsMoved (s.now - w.start)] := by
  cases cls
  · let v : State := { s with engine := { s.engine with urgent := s.engine.urgent.tail } }
    have e : s.endWalk w .urgent = (v.produce (.walkDone w.uplink .urgent w.conversions w.groupsTouched w.bucketsMoved
      (s.now - w.start))).reportWalk w .urgent (s.now - w.start) := rfl
    rw [e]
    exact Produced.of_eq (s := v) (Produced.produce v _) (by simp) (by simp) (by simp) (by simp)
  · exact Produced.produce { s with engine := { s.engine with restore := s.engine.restore.tail } } _

/-- A walk that ends leaves its queue, and nothing else of the engine changes. -/
theorem endWalk_engine (cls : WalkClass) : (s.endWalk w cls).engine = match cls with
    | .urgent => { s.engine with urgent := s.engine.urgent.tail }
    | .restore => { s.engine with restore := s.engine.restore.tail } := by
  cases cls <;> simp [State.endWalk]

/-- An URGENT walk that ends is the walk result of a drill that has none yet (R21, R118). -/
theorem endWalk_uplink : (s.endWalk w .urgent).uplink w.uplink = { s.uplink w.uplink with
    drill := (s.uplink w.uplink).drill.map fun d =>
      { d with walkResult := some (d.walkResult.getD (w.bucketsMoved, s.now - w.start)) } } := by
  simp [State.endWalk, State.uplink, State.reportWalk, State.modifyUplink, State.setUplink, Vector.get_eq_getElem]

theorem endWalk_uplink_of_ne (cls : WalkClass) {u : Fin 32} (h : u ≠ w.uplink) :
    (s.endWalk w cls).uplink u = s.uplink u := by
  cases cls
  · simp only [State.endWalk, State.uplink, State.reportWalk, State.modifyUplink, State.setUplink, Vector.get_eq_getElem,
      produce_monitor]
    rw [Vector.getElem_set_ne]
    exact fun e => h (Fin.ext e.symm)
  · simp [State.endWalk, State.uplink, State.reportWalk]

/-- An URGENT walk without a group left ends, and selection goes on from the state it leaves (R118, R121). -/
theorem execWorkSelect_endUrgent {rest : List Walk} (idle : s.engine.work = none) (first : s.engine.urgent = w :: rest)
    (ended : nextGroup (s.engine.index.get w.uplink) w.cursor = none) :
    execWorkSelect s = execWorkSelect (s.endWalk w .urgent) := by
  have engine := endWalk_engine s w .urgent
  have fuel : s.selectFuel = (s.endWalk w .urgent).selectFuel + 1 := by
    simp only [State.selectFuel, engine, first, List.length_cons, List.tail_cons]
    omega
  unfold execWorkSelect
  rw [idle, show (s.endWalk w .urgent).engine.work = none by rw [engine]; exact idle]
  simp only [fuel]
  conv => lhs; unfold State.select
  simp only [first, ended]

/-- A RESTORE walk without a group left, at its turn, ends, and selection goes on from the state it leaves. -/
theorem execWorkSelect_endRestore {rest : List Walk} (idle : s.engine.work = none) (noUrgent : s.engine.urgent = [])
    (first : s.engine.restore = w :: rest) (turn : s.engine.restoreTurn = true)
    (ended : nextGroup (s.engine.index.get w.uplink) w.cursor = none) :
    execWorkSelect s = execWorkSelect (s.endWalk w .restore) := by
  have engine := endWalk_engine s w .restore
  have fuel : s.selectFuel = (s.endWalk w .restore).selectFuel + 1 := by
    simp only [State.selectFuel, engine, first, List.length_cons, List.tail_cons]
    omega
  unfold execWorkSelect
  rw [idle, show (s.endWalk w .restore).engine.work = none by rw [engine]; exact idle]
  simp only [fuel]
  conv => lhs; unfold State.select
  simp only [noUrgent, turn, first, ended, if_true]

end State

end Sys2Proof.Machine
end

