-- ==== Sys2Proof/Tests/Slice0.lean ====
section
/-! SUPPORT. Tests: terms that are no commands are refused; what commands do on small states; and, for every statement with
hypotheses, states and operands that meet them, at the bounds of their ranges. -/

namespace Sys2Proof.Tests

-- One test after the other: elaborated side by side, each would hold a thread while it waits for the kernel.
set_option Elab.async false

open Sys2Proof Sys2Proof.Machine

/-! ### Small states -/

/-- The state after a command; the state itself where the command does not answer one. -/
def run (c : Instr) (s : State) : State :=
  match exec c s with
  | .next t => t
  | .fault _ => s
  | .refused _ => s

/-- A device that is RUNNING with one group and a READY link. -/
def ready : State := { State.reset with
  control := { RunControl.reset with runState := .running }
  port := { Port.reset with lock := .inLock, link := .ready }
  area := { AreaInterface.reset with groupCount := 1, journalLength := 64 } }

/-- The device with the journal blocked, so that a record waits. -/
def quiet (s : State) : State := { s with area := { s.area with blocked := true } }

/-- An uplink in a state, its light PRESENT, with every timer at part time 0 and a restore count of 1. -/
def record (state : UplinkState) : UplinkRecord := { UplinkRecord.reset with
  state, darkCause := none, light := .present, lightTimer := some 0, windowEnd := some 0, settleStart := some 0
  settleExpiry := some 0, runCount := 1, params := { UplinkParams.default with restoreCount := 1 } }

/-- The device with uplink 0 in a state. -/
def uplinkIn (state : UplinkState) : State := ready.setUplink 0 (record state)

/-- A drill that ends now. -/
def drill : DrillRecord := { endTime := 0, slot := some 1, finding := none, walkResult := none }

/-- The device with uplink 0 in DRILL. -/
def drilling : State := ready.setUplink 0 { record .drill with drill := some drill }

/-- The device STARTING with no sweep in progress, after START_ADOPT where a headless reason stands. -/
def firstSweep (reason : Option HeadlessReason) : State :=
  { ready with control := { ready.control with runState := .starting, headlessReason := reason } }

/-- The device with the area access `a` in progress. -/
def flying (a : AreaAccess) (s : State) : State :=
  { s with area := { s.area with flight := some { access := a, address := 0, data := [], granted := 0 } } }

/-- The device with the TAKEN write of an order in slot 0 in progress. -/
def ordered (kind : OrderKind) (a b : BitVec 16) (s : State) : State :=
  let s := flying (.takenWrite 0) s
  { s with area := { s.area with
      taking := some { slot := 0, kind, argA := a, argB := b, buffer := 0, length := 256 }
      slotHolds := s.area.slotHolds.set 0 (some kind) } }

/-- The fields of a group with uplinks 0 and 1 as members. -/
def fields : GroupFields where
  members := [{ uplink := 0, weight := 1, role := .primary }, { uplink := 1, weight := 1, role := .standby }]
  bucketSize := 64
  revertive := true
  escape := some 1

/-- The live run of those fields on block 0. -/
def liveRun : LiveRun := { fields, blocks := [0] }

/-- A rebuild onto block 1. -/
def rebuild : Rebuild where
  staged := fields
  generation := 2
  blocks := [1]
  indexReservation := 0
  progress := .step 0
  recheck := true
  adoptedAt := 0

/-- The device with the record `r` for group 0. -/
def grouped (r : GroupRecord) (s : State) : State := s.setGroup 0 r

/-- A LIVE group with a rebuild. -/
def liveGroup : GroupRecord := { GroupRecord.reset with live := some liveRun, rebuild := some rebuild }

/-- The device with group 0 LIVE and uplink 0 UP. -/
def live : State := grouped liveGroup (uplinkIn .up)

/-- A bucket access in progress that read `faulted` in a block of group 0. -/
def accessBy (requester : Requester) (faulted : Bool) (owner : Owner) : BucketAccess where
  requester := requester
  wanted := true
  bucket := { home := 0, current := 0, faulted }
  owner := owner

/-- The device with that access in progress. -/
def accessing (a : BucketAccess) (s : State) : State := { s with store := { s.store with access := some a } }

/-- The device with the unit `w` in progress. -/
def working (w : Work) (s : State) : State := { s with engine := { s.engine with work := some w } }

/-- The lookup of group 0 with hash 0. -/
def asked : Lookup := { tag := 1, group := 0, hash := 0 }

/-- The device with that lookup waiting. -/
def waiting (s : State) : State := { s with port := { s.port with queue := [asked] } }

/-- The device resolving that lookup, at the phase `phase`. -/
def resolving (phase : ResolutionPhase) (s : State) : State :=
  { s with port := { s.port with
      queue := [asked], resolution := some { lookup := asked, view := s.takingView asked, phase } } }

/-- A walk of uplink 0. -/
def walk : Walk := Walk.create 0 0

/-- The device with uplink 0's list naming group 0. -/
def indexed (s : State) : State := { s with engine := { s.engine with index := s.engine.index.set 0 [0] } }

/-- A burst at its last bucket. -/
def burst : Burst := { blocksLeft := 1, offset := 63, phase := .reading }

/-- A snapshot of group 0 with one entry left. -/
def snapshot : SnapshotRecord where
  slot := 0
  group := 0
  blocks := [0]
  generation := 1
  buffer := 0
  next := 63
  faulted := 0
  start := 0
  reading := true

/-- A RAISED alarm that expires now. -/
def alarm : Alarm := { expiry := 0, firstRaiser := 0, cause := .lightLost, raisedAt := 0, raiseCount := 255 }

/-- A probe from the default peer with sequence 1. -/
def probe (seen : Bool) : ProbeContent := { identity := Identity.zero, uplink := 0, seen, sequence := 1 }

/-- 256 header bytes whose fields are `fields`, bytes 12 to 21. -/
def headerOf (fields : List Byte) : List Byte :=
  [0x3C, 0x5A, 1, 0] ++ List.replicate 8 0 ++ fields ++ List.replicate 234 0

/-- 256 header bytes: version 1, G = 1, J = 64, hold 100, weight 1, burst 1, interval 1. -/
def goodHeader : List Byte := headerOf [1, 0, 64, 0, 100, 0, 1, 1, 1, 0]

/-- 128 row bytes with head and tail generation `g` and no good check. -/
def rowBytes (head tail : Byte) : List Byte := [head] ++ List.replicate 123 0 ++ [tail, 0, 0, 0]

/-! ### Terms that are no commands -/

theorem test_short_row_is_refused : exec (.rowReadDone []) ready = .refused .illFormed := rfl
theorem test_long_slot_is_refused : exec (.orderSlotReadDone (List.replicate 65 0)) ready = .refused .illFormed := rfl
theorem test_short_header_is_refused : exec (.headerReadDone [0x3C]) State.reset = .refused .illFormed := rfl
theorem test_named_value_is_refused : exec (.unknownCommand 5) ready = .refused .illFormed := rfl

/-! ### What commands do -/

theorem test_good_header : headerGood goodHeader = true
    ∧ headerGood (headerOf [0, 8, 0, 16, 0x10, 0x27, 15, 8, 0xE8, 3]) = true
    ∧ headerGood (headerOf [1, 8, 0, 16, 0x10, 0x27, 15, 8, 0xE8, 3]) = false
    ∧ headerGood (headerOf [1, 0, 63, 0, 100, 0, 1, 1, 1, 0]) = false
    ∧ headerGood (headerOf [1, 0, 64, 0, 100, 0, 1, 3, 1, 0]) = false := by decide +kernel
theorem test_start_reads_header : (run .startFresh State.reset).inFlight = some .headerRead := by decide
theorem test_header_starts : (run (.headerReadDone goodHeader) (run .startFresh State.reset)).control.runState = .starting
    ∧ (run (.headerReadDone goodHeader) (run .startFresh State.reset)).inFlight = some (.rowRead (.uplink 0)) := by decide +kernel
theorem test_adopt_in_off : (run .startAdopt State.reset).area.startCommand = some .fresh := by decide
theorem test_stop_in_off : (run .stop State.reset).control.lastRefused = 3 := by decide
theorem test_stop_reads_kind : (run .stop ready).inFlight = some .journalKindRead := by decide
theorem test_stop_blocked : (run .stop { ready with area := { ready.area with blocked := true } }).control.headlessReason
    = some .stop := by decide
theorem test_clear_in_headless : (run .clear (run .linkReset ready)).control.runState = .off := by decide
theorem test_link_reset : (run .linkReset ready).control.headlessReason = some .linkReset := by decide
theorem test_power_on : (run .powerOnReset ready).control.runState = .off := by decide
theorem test_unknown_command : (run (.unknownCommand 10) ready).runStat = 0xF02 := by decide
theorem test_cause_read : (run .causeRead (run .stop State.reset)).control.readData = 0x20 := by decide
theorem test_cause_enable : (run (.causeEnWrite 0xFFFFFFFF) (run .stop State.reset)).control.interruptsSent = 1 := by decide
theorem test_sweep_period : (run (.sweepPerWrite 5000) ready).control.sweepPer = 1000 := by decide
theorem test_area_base : (run (.registerWrite .areaLo 0x12345678) State.reset).control.areaBase = 0x12345000 := by decide
theorem test_hold : (run .holdOn ready).control.hold = true ∧ (run .holdOff ready).control.hold = false := by decide
theorem test_modes : (run .modeOnDemand ready).control.mode = .onDemand
    ∧ (run .modeContinuous (run .modeOnDemand ready)).area.sweepTimer = some 1000 := by decide
theorem test_nudge : (run .nudge ready).area.sweepNumber = 1 := by decide
theorem test_sweep_timer : (run .sweepTimerExpiry { ready with area := { ready.area with sweepTimer := some 0 } }).inFlight
    = some (.rowRead (.uplink 0)) := by decide
theorem test_area_fault : (run .areaFault (run .nudge ready)).control.cause = 0x10 := by decide

theorem test_line_starts_timer : ((run (.darkSenseLineChange 3 false) ready).uplink 3).lightTimer = some 50 := by decide
theorem test_light_expiry : ((run (.lightTimerExpiry 0) (uplinkIn .up)).uplink 0).state = .dark
    ∧ ((run (.lightTimerExpiry 0) (uplinkIn .up)).uplink 0).darkCause = some .lightLost := by decide
theorem test_leaving_up_walks : (run (.lightTimerExpiry 0) (uplinkIn .up)).engine.urgent = [walk] := by decide
theorem test_window_end : ((run (.windowEnd 0) (uplinkIn .up)).uplink 0).missCount = 1
    ∧ ((run (.windowEnd 0) (uplinkIn .up)).uplink 0).windowEnd = some 1000 := by decide
theorem test_probe_affirms : ((run (.probeIn 0 (probe true)) (uplinkIn .proving)).uplink 0).state = .up := by decide
theorem test_probe_settles : ((run (.probeIn 0 (probe true)) (uplinkIn .dark)).uplink 0).state = .settling := by decide
theorem test_settle_expiry : ((run (.settleExpiry 0) (uplinkIn .settling)).uplink 0).state = .up := by decide
theorem test_flap_aged : ((run (.flapEntryAged 0) { uplinkIn .up with
    control := { ready.control with now := 60000001 } }).uplink 0).flaps = [] := by decide
theorem test_drill_end : ((run (.drillEndTime 0) drilling).uplink 0).state = .up := by decide
theorem test_conduit_expiry : (run (.conduitExpiry 5) (ready.setAlarm 5 (some alarm))).alarm 5 = none := by decide

theorem test_lock : (run .lossOfLock ready).port.link = .down ∧ (run .lockRegained State.reset).port.lock = .inLock := by decide
theorem test_hello : (run .messageSent (run (.hello 1) (run .lockRegained State.reset))).port.link = .ready := by decide
theorem test_hello_other : (run .messageSent (run (.hello 2) (run .lockRegained State.reset))).port.link = .down := by decide
theorem test_lookup : (run (.lookup 1 0 0) ready).port.queue = [asked] := by decide
theorem test_discard : run (.messageDiscard [1, 1, 0, 0]) ready = ready := by decide
theorem test_hello_bytes : Arrival.parse [1, 1, 0xFE, 0xFE] = some (.hello 1) := by decide
theorem test_taken : (run .lookupTaken (waiting ready)).port.lane = [Answer.without 1 .notReady] := by decide
theorem test_taken_reads : ((run .lookupTaken (waiting live)).port.resolution.map (·.phase)) = some .wantRead := by decide
theorem test_lookup_answered : (run .lookupBucketReadDone
    (accessing (accessBy .lookup false (.run 0 0)) (resolving .reading live))).port.lane = [Answer.to 1 0 false] := by decide +kernel
theorem test_escape_unused : (run .escapeReadDone (accessing (accessBy .escape false .free) live)).store.access = none := by
  decide

theorem test_grant_lookup : (run .bucketAccessGrant (resolving .wantRead live)).store.access.map (·.requester)
    = some .lookup := by decide
theorem test_grant_write : (run .bucketAccessGrant
    (working (.walkStep 0 0 5 false (.wantWrite 1 1 false)) live)).bucket 0 5 = { home := 1, current := 1, faulted := false } := by
  decide
theorem test_parity : (run (.parityFault 2047 63) ready).bucket 2047 63 = { home := 0, current := 0, faulted := true } := by
  decide
theorem test_scrub_timer : (run .scrubTimerExpiry { ready with store := { ready.store with scrubTimer := 0 } }).store.burst
    = some { blocksLeft := 2, offset := 0, phase := .wantRead } := by decide
theorem test_scrub_read : (run .scrubReadDone (accessing (accessBy .scrubRead false .free)
    { ready with store := { ready.store with burst := some burst } })).store.scrubCursor = 1 := by decide
theorem test_scrub_write : (run .scrubWriteDone (accessing (accessBy .scrubWrite false .free)
    { ready with store := { ready.store with burst := some burst } })).store.burst = none := by decide
theorem test_snapshot_read : ((run .snapshotReadDone (accessing (accessBy .snapshot true .free)
    { ready with store := { ready.store with snapshot := some snapshot } })).store.snapshot.map (·.faulted)) = some 1 := by
  decide
theorem test_snapshot_done : (run .snapshotEntryWritten (flying (.snapshotEntry 0 0 [] true)
    { ready with store := { ready.store with snapshot := some { snapshot with next := 64 } } })).store.snapshot = none := by
  decide

theorem test_select : (run .workSelect
    (indexed { live with engine := { live.engine with urgent := [walk] } })).engine.work
      = some (.walkStep 0 0 0 false .wantRead) := by decide
theorem test_flip : ((run .workSelect { live with engine := { live.engine with intake := [.flip 0] } }).group 0).live
    = some { fields, blocks := [1] } := by decide
theorem test_walk_step : (run .walkStepAccessDone (accessing (accessBy .walkStep false (.run 0 0))
    (working (.walkStep 0 0 62 false .reading) live))).engine.work = some (.walkStep 0 0 63 false .wantRead) := by decide
theorem test_settle_pass : (run .settlePassAccessDone (accessing (accessBy .settlePass false (.run 0 0))
    (working (.settlePass 0 63 .reading) live))).engine.work = none := by decide
theorem test_block_step : (run .blockStepWriteDone (accessing (accessBy .blockStep false .free)
    (working (.blockStep 0 0 63 true) live))).engine.intake = [.flip 0] := by decide
theorem test_fix : (run .fixAccessDone (accessing (accessBy .fix true (.run 0 0)) (working
    (.fix { group := 0, bucket := 0, block := 0, offset := 0, foundBy := .lookup } .reading) live))).engine.work
      = some (.fix { group := 0, bucket := 0, block := 0, offset := 0, foundBy := .lookup } (.wantWrite 0 0 true)) := by
  decide

theorem test_torn_row : ((run (.rowReadDone (rowBytes 1 2)) (flying (.rowRead (.uplink 0)) ready)).rowMemory
    (.uplink 0)).tornCount = 1 := by decide +kernel
theorem test_row_rejected : (run (.rowReadDone (rowBytes 1 1)) (flying (.rowRead (.uplink 0)) (quiet ready))).rowMemory (.uplink 0)
    = { tornCount := 0, lastRejected := some 1 } := by decide +kernel
theorem test_slot_not_posted : (run (.orderSlotReadDone (List.replicate 64 0)) (flying (.slotRead 3) ready)).area.waiting = []
    ∧ (run (.orderSlotReadDone (List.replicate 64 0)) (flying (.slotRead 3) ready)).inFlight = some (.slotRead 4) := by decide
theorem test_slot_bad_check : (run (.orderSlotReadDone (4 :: 1 :: List.replicate 62 0)) (flying (.slotRead 3) ready)).inFlight
    = some (.slotResult 3) := by decide
theorem test_release : ((run .release (ordered .release 0 0 (quiet (uplinkIn .quarantined)))).uplink 0).state = .proving := by decide
theorem test_drill_start : ((run .drillStart (ordered .drillStart 0 3600 (quiet (uplinkIn .up)))).uplink 0).state = .drill := by decide
theorem test_drill_stop : ((run .drillEnd (ordered .drillEnd 0 0 (quiet drilling))).uplink 0).drill = none := by decide
theorem test_pin : ((run .pin (ordered .pin 0 1 live)).group 0).pin = some 1 := by decide
theorem test_unpin : ((run .unpin (ordered .unpin 0 0 (grouped { liveGroup with pin := some 1 } ready))).group 0).pin = none := by
  decide
theorem test_clear_is_recorded_before_its_order :
    (run .conduitClear (ordered .conduitClear 63 0 (quiet (firstSweep none |>.setAlarm 63 (some alarm))))).area.holding.map
      (·.entry) = [.conduitCleared 63 .order 0 255 0 .lightLost,
        .orderEnded (some 0) 6 false .none { Results.zero with r1 := 1, r2 := 255 }] := by decide
theorem test_conduit_clear : (run .conduitClear (ordered .conduitClear 63 0 (quiet (ready.setAlarm 63 (some alarm))))).alarm 63 = none := by
  decide
theorem test_snapshot_order : ((run .snapshot (ordered .snapshot 0 0 live)).store.snapshot.map (·.blocks)) = some [0] := by
  decide
theorem test_slot_result : (run .slotResultWritten (flying (.slotResult 2) ready)).inFlight = some (.slotState 2) := by decide
theorem test_slot_state : ((run .slotStateWritten (flying (.slotState 0)
    { ready with area := { ready.area with slotHolds := ready.area.slotHolds.set 0 (some .pin) } })).area.slotHolds.get 0)
      = none := by decide
theorem test_journal : (run (.journalKindReadDone 0) (flying .journalKindRead ready)).inFlight = some .journalBody
    ∧ (run .journalBodyWritten (flying .journalBody ready)).inFlight = some .journalKind
    ∧ (run .journalKindWritten (flying .journalKind ready)).area.position = 1 := by decide
theorem test_journal_blocked : (run (.journalKindReadDone 9) (flying .journalKindRead ready)).area.blocked = true := by decide
theorem test_room_rejection : ((grouped { GroupRecord.reset with liveGeneration := 7 } ready).rejectRoom 0 9 .noBlocks 1 0).group 0
    = GroupRecord.reset := by decide
theorem test_run_ctrl : Instr.ofRunCtrl 9 = .modeOnDemand ∧ Instr.ofRunCtrl 10 = .unknownCommand 10
    ∧ Instr.ofRegisterWrite 0x08 3 = some .stop ∧ Instr.ofRegisterWrite 0x0C 3 = none := by decide

/-! ### Formats -/

theorem test_record_bytes : Record.bytes { time := 0x01020304, entry := .stopped 5 }
    = [16, 0, 0, 0, 4, 3, 2, 1, 5, 0, 0, 0] ++ List.replicate 20 0 := by decide
theorem test_hello_message : Sending.bytes .hello = [1, 1, 0xFE, 0xFE] := by decide
theorem test_area_offsets : slotOffset 1 0 = 4480 ∧ journalOffset 1 0 = 5504 ∧ statusPageOffset 1 64 = 7552 := by decide
theorem test_link_ready_step : step { ready with pending := [.holdOn] } = .next (run .holdOn ready) := rfl

/-! ### Witnesses: states and operands that meet the hypotheses of each statement, clause by clause -/

/-- The device HEADLESS with the reason STOP. -/
def headless : State := { ready with control := { ready.control with runState := .headless, headlessReason := some .stop } }

/-- The device in mode ON_DEMAND. -/
def onDemand (s : State) : State := { s with control := { s.control with mode := .onDemand } }

/-- The device with a START command's header read in progress. -/
def starting (command : StartCommand) (s : State) : State :=
  flying .headerRead { s with area := { s.area with startCommand := some command } }

/-- A list of `n` lookups. -/
def lookups (n : Nat) : List Lookup := List.replicate n asked

/-- The port of `ready` with `n` lookups and `m` answers. -/
def filled (n m : Nat) : Port := { ready.port with queue := lookups n, lane := List.replicate m (Answer.without 0 .refused) }

/-- The device with the port `p`. -/
def withPort (p : Port) : State := { ready with port := p }

/-- The device with the engine `e`. -/
def withEngine (e : WalkEngine) : State := { live with engine := e }

/-- The device with the store changed. -/
def withStore (f : BucketStore → BucketStore) (s : State) : State := { s with store := f s.store }

/-- The device with a sweep in progress. -/
def sweeping (s : State) : State := { s with area := { s.area with sweep := some (SweepRecord.begin 1 0 .onDemand) } }

theorem witness_StepRunsTheFrontCommand : ({ State.reset with pending := [.holdOn] } : State).pending = [.holdOn] := rfl

theorem witness_EmptyQueueAdvancesTime : State.reset.pending = [] ∧ State.reset.readyActs = []
    ∧ (waiting ready).pending = [] ∧ (waiting ready).readyActs ≠ []
    ∧ .windowEnd 0 ∈ (uplinkIn .up).dueEvents ∧ .settleExpiry 0 ∈ (uplinkIn .settling).dueEvents
    ∧ .lookupTaken ∈ (waiting ready).readyActs := by decide

theorem witness_PowerOnResetLeavesResetValues : (∀ u, State.reset.monitor.lines.get u = true)
    ∧ State.reset.port.lock = .outOfLock ∧ State.reset.control.readData = 0 ∧ State.reset.control.interruptsSent = 0
    ∧ State.reset.openCount = 0 ∧ State.reset.pending = [] := by decide

theorem witness_EveryCommandCompletes : (Instr.rowReadDone (List.replicate 128 0)).wellFormed = true
    ∧ (Instr.rowReadDone (List.replicate 127 0)).wellFormed = false ∧ (Instr.unknownCommand 0).wellFormed = true
    ∧ (Instr.unknownCommand 1).wellFormed = false ∧ (Instr.unknownCommand 9).wellFormed = false
    ∧ (Instr.unknownCommand 10).wellFormed = true := by decide +kernel

/-- A completion of slot 1. -/
def finished : Completion :=
  { slot := 1, kind := 4, failed := false, reason := .none, results := Results.zero, time := 0 }

/-- The device with a sweep, a snapshot for slot 0, an order of slot 2 being taken and a completion of slot 1. -/
def ending : State :=
  { ready with
    store := { ready.store with snapshot := some snapshot }
    area := { ready.area with
      sweep := some (SweepRecord.begin 1 0 .onDemand), completions := [finished]
      taking := some { slot := 2, kind := .pin, argA := 0, argB := 0, buffer := 0, length := 0 } } }

/-- The records that the end of those orders produces. -/
def endings : List Entry :=
  [.orderEnded (some 2) 4 true .abandoned Results.zero,
   .orderEnded (some 0) 7 true .abandoned { Results.zero with r1 := 63 }, .orderEnded (some 1) 4 false .none Results.zero]

theorem witness_LinkResetKeepsLiveState : State.reset.control.runState.active = false
    ∧ headless.control.runState.active = false ∧ ending.control.runState.active = true
    ∧ ending.area.sweep ≠ none ∧ ending.store.snapshot = some snapshot
    ∧ (ending.area.taking.map (·.slot)) = some 2 ∧ ending.completion finished.slot = some finished := by decide

theorem witness_HoldAndModeCommandsSetTheirRegisters : ready.control.mode = .continuous
    ∧ (onDemand ready).control.mode = .onDemand ∧ (onDemand ready).control.runState = .running
    ∧ (onDemand State.reset).control.mode = .onDemand ∧ (onDemand State.reset).control.runState ≠ .running := by decide

theorem test_link_reset_ends_orders : (run .linkReset ending).area.holding.map (·.entry) = endings
    ∧ (run .linkReset ending).store.snapshot = none ∧ (run .linkReset ending).area.completions = [] := by decide

theorem witness_Abandons : ending.sweepEnds ++ ending.snapshotEnds ++ ending.completionEnds = endings
    ∧ State.reset.sweepEnds ++ State.reset.snapshotEnds ++ State.reset.completionEnds = [] := by decide

theorem witness_CauseRegistersReadAndEnable :
    (run .stop State.reset).control.cause &&& Cause.badCtrl.bit = Cause.badCtrl.bit
    ∧ 0x1C ∉ [0x00, 0x04, 0x08, 0x0C, 0x10, 0x14, 0x18] ∧ 0x01 ∉ [0x00, 0x04, 0x08, 0x0C, 0x10, 0x14, 0x18] := by decide

theorem test_registers_read : (run .stop State.reset).readRegister 0x0C = some 0x300
    ∧ (run .nudge (run .holdOn (onDemand ready))).readRegister 0x0C = some 0x2E
    ∧ State.reset.readRegister 0x18 = some 10 ∧ State.reset.readRegister 0x1C = none := by decide

theorem witness_RefusedCommandsChangeNothing : ready.control.runState.active = true
    ∧ (starting .fresh State.reset).area.startCommand ≠ none ∧ State.reset.control.runState.active = false
    ∧ ((0 : BitVec 32) = 0) ∧ 9 < (10 : BitVec 32).toNat := by decide

/-- The device HEADLESS with the first write of a page of START_ADOPT in progress. -/
def adopting : State :=
  flying (.pageWrite 0) { headless with area := { headless.area with adoptPage := true, groupCount := 1 } }

/-- It, once a later START_FRESH or CLEAR has superseded the page. -/
def superseded (command : Instr) : State := run command adopting

theorem test_page_write_runs_to_its_end :
    (superseded .startFresh).inFlight = some (.pageWrite 0) ∧ (superseded .startFresh).area.waiting = [.headerRead]
    ∧ (run .statusPageWriteDone (superseded .startFresh)).inFlight = some .headerRead
    ∧ (run .areaFault (superseded .startFresh)).inFlight = some .headerRead
    ∧ (run .areaFault (superseded .startFresh)).control.headlessReason = some .areaFault
    ∧ (superseded .clear).inFlight = some (.pageWrite 0) ∧ (superseded .clear).control.runState = .off
    ∧ (run .statusPageWriteDone (superseded .clear)).area.flight = none
    ∧ (run .statusPageWriteDone (superseded .clear)).area.holding = []
    ∧ (run .statusPageWriteDone adopting).inFlight = some (.pageWrite 1) := by decide +kernel

theorem witness_ClearTakesClearValues : headless.control.runState.active = false ∧ headless.area.startCommand = none
    ∧ State.reset.control.runState.active = false ∧ State.reset.area.startCommand = none
    ∧ adopting.area.startCommand = none ∧ adopting.control.runState.active = false := by decide

theorem witness_StartCommandsReadTheHeader : headless.control.runState.active = false
    ∧ headless.area.flight = none ∧ headless.area.waiting = [] ∧ headless.area.requested = []
    ∧ adopting.area.flight ≠ none ∧ adopting.area.requested = [] ∧ adopting.area.startCommand = none
    ∧ adopting.control.runState.active = false
    ∧ headless.area.startCommand = none ∧ State.reset.control.runState = .off
    ∧ (List.replicate 256 (0 : Byte)).length = 256 ∧ headerGood (List.replicate 256 0) = false
    ∧ (starting .adopt headless).inFlight = some .headerRead
    ∧ (starting .adopt headless).area.startCommand = some .adopt := by decide +kernel

theorem witness_FreshStartClearsAndSweeps : goodHeader.length = 256
    ∧ (starting .fresh headless).inFlight = some .headerRead
    ∧ (starting .fresh headless).area.startCommand = some .fresh ∧ headerGood goodHeader = true
    ∧ (starting .fresh headless).control.runState.active = false := by decide +kernel

theorem witness_AdoptStartKeepsLiveState : goodHeader.length = 256
    ∧ (starting .adopt headless).inFlight = some .headerRead
    ∧ (starting .adopt headless).area.startCommand = some .adopt ∧ headerGood goodHeader = true
    ∧ (starting .adopt headless).control.runState.active = false
    ∧ (starting .adopt headless).area.waiting = [] ∧ (starting .adopt headless).area.requested = [] := by decide +kernel

theorem test_adopt_requests_page :
    (run (.headerReadDone goodHeader) (starting .adopt headless)).inFlight = some (.pageWrite 0) := by decide +kernel

/-- The device whose journal writer writes the body of the record at the head. -/
def writingHead : State :=
  flying .journalBody { ready with area := { ready.area with
    writer := .body, holding := [{ time := 0, entry := .stopped 0 }] } }

theorem witness_StopEntersHeadless : ready.control.runState.active = true ∧ ready.area.startCommand = none
    ∧ ready.area.writer = .idle ∧ ready.area.stopTry = none ∧ ready.area.blocked = false ∧ ready.area.holding = []
    ∧ (run .stop ready).area.holding = []
    ∧ ready.area.sweep = none ∧ ready.store.snapshot = none ∧ ready.area.flight = none ∧ ready.area.waiting = []
    ∧ ready.area.requested = [] ∧ (quiet ready).area.blocked = true ∧ (quiet ready).control.runState.active = true
    ∧ (quiet ready).area.writer = .idle ∧ ending.control.runState.active = true ∧ ending.area.startCommand = none
    ∧ ending.store.snapshot = some snapshot ∧ (run .stop ending).area.holding ≠ [] := by decide

/-- The device with orders that end, its sweep waiting for the completion of slot 1. -/
def awaiting : State :=
  { ending with area := { ending.area with
      sweep := some { SweepRecord.begin 1 0 .onDemand with phase := .slotWrite 1 }
      slotHolds := (ready.area.slotHolds.set 1 (some .pin)).set 2 (some .pin) } }

theorem witness_StopEntersHeadless_orders : awaiting.control.runState.active = true
    ∧ awaiting.area.startCommand = none ∧ (awaiting.area.taking.map (·.slot)) = some 2
    ∧ (awaiting.area.sweep.map (·.phase)) = some (.slotWrite 1) ∧ awaiting.completion 1 = some finished
    ∧ awaiting.area.slotHolds.get 1 = some .pin ∧ awaiting.area.slotHolds.get 15 = none
    ∧ (run .stop awaiting).completion 1 = none ∧ (run .stop awaiting).area.slotHolds.get 1 = none
    ∧ (run .stop awaiting).area.slotHolds.get 2 = none ∧ (run .stop awaiting).control.runState = .headless
    ∧ (run .stop (flying .journalKind { awaiting with area := { awaiting.area with writer := .kind } })).control.runState
        = .running := by decide

theorem test_stop_ends_orders : (run .stop awaiting).area.holding.map (·.entry)
    = [.orderEnded (some 2) 4 true .abandoned Results.zero, .orderEnded (some 1) 4 false .none Results.zero,
       .orderEnded (some 0) 7 true .abandoned { Results.zero with r1 := 63 }] := by decide

theorem witness_StopEntersHeadless_while_writing : writingHead.control.runState.active = true
    ∧ writingHead.area.startCommand = none ∧ writingHead.area.writer ≠ .idle ∧ writingHead.area.stopTry = none
    ∧ (writingHead.area.flight.map (·.access)) = some .journalBody
    ∧ (run .stop writingHead).area.startCommand = none ∧ (run .stop writingHead).control.runState.active = true
    ∧ (run .stop writingHead).area.stopTry = some { record := { time := 0, entry := .stopped 0 }, begun := false } := by
  decide

theorem test_nudge_while_starting : (run .nudge (firstSweep none)).area.sweep = none
    ∧ (run .nudge (firstSweep (some .stop))).area.sweep = some (SweepRecord.begin 1 0 .continuous)
    ∧ (run .nudge (sweeping (firstSweep none))).area.dueMark = true := by decide

theorem witness_SweepsStartOnTimerAndNudge : State.reset.control.runState.active = false
    ∧ ready.control.runState.active = true ∧ ready.area.sweep = none
    ∧ (run .nudge ready).inFlight = some (.rowRead (.uplink 0)) ∧ (run .nudge ready).area.sweep = some (SweepRecord.begin 1 0 .continuous)
    ∧ (run .nudge ready).control.runState.active = true
    ∧ (firstSweep none).control.runState = .starting ∧ (firstSweep none).control.headlessReason = none
    ∧ (firstSweep none).area.sweep = none ∧ (firstSweep (some .stop)).control.headlessReason ≠ none
    ∧ (sweeping (firstSweep none)).area.sweep ≠ none
    ∧ ({ ready with area := { ready.area with sweepTimer := some 0 } } : State).area.sweepTimer = some ready.now := by decide

theorem witness_AreaFaultEntersHeadless : (flying (.rowRead (.uplink 0)) ending).area.flight ≠ none
    ∧ (flying (.rowRead (.uplink 0)) ending).control.runState.active = true
    ∧ (flying (.rowRead (.uplink 0)) ending).store.snapshot = some snapshot
    ∧ (starting .fresh State.reset).area.flight ≠ none ∧ (starting .fresh State.reset).control.runState = .off
    ∧ (starting .adopt headless).area.flight ≠ none ∧ (starting .adopt headless).control.runState = .headless
    ∧ (starting .adopt headless).inFlight = some .headerRead ∧ adopting.inFlight ≠ some .headerRead
    ∧ adopting.area.requested = [] ∧ adopting.area.waiting = []
    ∧ (superseded .startFresh).area.waiting = [.headerRead] ∧ (superseded .startFresh).area.requested = [] := by decide

theorem test_area_fault_ends_orders :
    (run .areaFault (flying (.takenWrite 2) ending)).area.holding.map (·.entry) = endings := by decide

theorem witness_LightFollowsTheLineAfterTheDebounce : ready.monitor.lines.get 0 = true
    ∧ ready.monitor.lines.get 0 ≠ false ∧ (ready.uplink 0).light ≠ .present ∧ 0 < (ready.uplink 0).params.lightDebounce
    ∧ ((uplinkIn .up).uplink 0).light = .present ∧ (uplinkIn .up).monitor.lines.get 0 ≠ false
    ∧ ((ready.setUplink 0 { record .up with light := .lost, params := { UplinkParams.default with lightDebounce := 0 } }).uplink
        0).params.lightDebounce = 0
    ∧ ((uplinkIn .up).uplink 0).lightTimer = some (uplinkIn .up).now ∧ (uplinkIn .up).monitor.lines.get 0 = true := by
  decide

/-- The device with uplink 0 in a state, with conduits 5 and 63 in its mask. -/
def masked (state : UplinkState) : State :=
  ready.setUplink 0 { record state with params := { UplinkParams.default with conduitMask := 0x8000000000000020 } }

theorem test_light_lost_has_its_effects :
    (run (.lightTimerExpiry 0) (quiet (masked .up))).area.holding.map (·.entry)
      = [.uplinkChange 0 .up .dark (some .lightLost), .conduitAlarm 5 0 .lightLost 2000000,
         .conduitAlarm 63 0 .lightLost 2000000]
    ∧ (run (.lightTimerExpiry 0) (quiet (masked .up))).control.cause = 2
    ∧ (run (.lightTimerExpiry 0) (quiet (masked .up))).engine = (masked .up).engine.handed 0 .urgent 0
    ∧ (masked .up).alarmed 0 (some .lightLost) = [(5, .lightLost), (63, .lightLost)]
    ∧ ((masked .up).setAlarm 5 (some alarm)).alarmed 0 (some .lightLost) = [(63, .lightLost)] := by decide +kernel

/-- It, with one flap fewer in its history than its limit. -/
def flapping : State := quiet ((masked .up).modifyUplink 0 fun r =>
  { r with flaps := List.replicate (r.params.flapLimit - 1) 0 })

theorem test_flap_records_are_in_order : (run (.lightTimerExpiry 0) flapping).area.holding.map (·.entry)
      = [.uplinkChange 0 .up .dark (some .lightLost), .conduitAlarm 5 0 .lightLost 2000000,
         .conduitAlarm 63 0 .lightLost 2000000, .uplinkChange 0 .dark .quarantined (some .lightLost)]
    ∧ flapping.inOrder 0 ((flapping.uplink 0).movesTo ((flapping.uplink 0).lightChanged .lost 0)) (some .lightLost)
      = (run (.lightTimerExpiry 0) flapping).area.holding.map (·.entry) := by decide +kernel

theorem witness_WindowEndJudgesItsMarks : ((uplinkIn .up).uplink 0).windowEnd = some (uplinkIn .up).now
    ∧ (uplinkIn .up).control.runState ≠ .off ∧ (uplinkIn .up).port.link = .ready
    ∧ (∀ q ∈ (uplinkIn .up).port.probes, q.uplink ≠ 0)
    ∧ (∃ q ∈ ({ uplinkIn .up with port := { ready.port with probes := [{ uplink := 0, content := probe true }] } } :
        State).port.probes, q.uplink = 0)
    ∧ (State.reset.setUplink 0 (record .up)).control.runState = .off
    ∧ ({ uplinkIn .up with port := Port.reset } : State).port.link = .down
    ∧ ({ record .up with missCount := 0, blindCount := 3 } : UplinkRecord).params.missLimit ≤ 3
    ∧ ({ record .up with affirmingSeen := true } : UplinkRecord).affirmingSeen = true
    ∧ ({ record .up with goodSeen := true } : UplinkRecord).affirmingSeen = false
    ∧ ({ record .up with goodSeen := true } : UplinkRecord).goodSeen = true ∧ (record .up).affirmingSeen = false
    ∧ (record .up).goodSeen = false := by decide

theorem witness_ProbeSetsTheMarksOfItsClass : State.reset.port.link = .down ∧ 32 ≤ (32 : Byte).toNat
    ∧ (31 : Byte).toNat = (31 : Fin 32).val ∧ ready.port.link = .ready
    ∧ ((uplinkIn .unconfigured).uplink 0).state.probing = false ∧ ((uplinkIn .up).uplink 0).state.probing = true
    ∧ (probe true).identity = ((uplinkIn .up).uplink 0).params.peerIdentity
    ∧ ({ probe true with uplink := 1 } : ProbeContent).uplink ≠ ((uplinkIn .up).uplink 0).params.peerUplink
    ∧ (probe true).uplink = ((uplinkIn .up).uplink 0).params.peerUplink
    ∧ ((uplinkIn .up).uplink 0).peerSequence = none
    ∧ ((1 : BitVec 16) - 1).toNat = 0 ∧ 32767 < ((0x8001 : BitVec 16) - 1).toNat := by decide

theorem witness_SettleExpiryAndFlapAge : ((uplinkIn .settling).uplink 0).state = .settling
    ∧ ((uplinkIn .settling).uplink 0).settleExpiry = some (uplinkIn .settling).now := by decide

theorem witness_DrillEndTimeJudgesTheDrill : (drilling.uplink 0).drill = some drill ∧ drill.endTime = drilling.now
    ∧ (drilling.uplink 0).light = .present ∧ (drilling.uplink 0).missCount < (drilling.uplink 0).params.missLimit
    ∧ (drilling.uplink 0).blindCount < (drilling.uplink 0).params.missLimit ∧ drill.finding = none
    ∧ ({ drill with finding := some .farBlind } : DrillRecord).finding ≠ none := by decide

theorem witness_StateChangeHasItsCommonEffects : ((uplinkIn .up).uplink 0).state = .up
    ∧ UplinkState.dark ≠ .up ∧ ((uplinkIn .proving).uplink 0).state ≠ .up := by decide

/-- The device with uplink 0 in a state and a step of its restore walk in progress. -/
def stepping (state : UplinkState) : State :=
  working (.walkStep 0 0 5 false .reading) { uplinkIn state with engine := { ready.engine with restore := [walk] } }

theorem test_conversion_marks_the_step : ((stepping .up).changeState 0 .dark none).engine.work
      = some (.walkStep 0 0 5 true .reading)
    ∧ ((stepping .dark).changeState 0 .up none).engine.work = some (.walkStep 0 0 5 true .reading)
    ∧ ((stepping .up).changeState 1 .up none).engine.work = some (.walkStep 0 0 5 false .reading) := by decide

theorem witness_ConduitsRaiseAndExpire : ready.alarm 63 = none ∧ (ready.setAlarm 63 (some alarm)).alarm 63 = some alarm
    ∧ alarm.expiry = ready.now := by decide

theorem witness_ReleaseAndDrillStartOrders :
    (ordered .release 32 0 ready).orderTaken .release ≠ none
    ∧ (ordered .release 31 0 ready).orderTaken .release ≠ none ∧ (ready.uplink 31).state ≠ .quarantined
    ∧ (ordered .release 0 0 (uplinkIn .quarantined)).orderTaken .release ≠ none
    ∧ ((uplinkIn .quarantined).uplink 0).state = .quarantined
    ∧ (ordered .drillStart 0 0 ready).orderTaken .drillStart ≠ none
    ∧ (ordered .drillStart 0 3601 ready).orderTaken .drillStart ≠ none
    ∧ (ordered .drillStart 31 1 ready).orderTaken .drillStart ≠ none
    ∧ (ordered .drillStart 0 3600 (uplinkIn .up)).orderTaken .drillStart ≠ none
    ∧ ((uplinkIn .up).uplink 0).state = .up := by decide

theorem witness_DrillEndEndsTheDrill : (ordered .drillEnd 32 0 ready).orderTaken .drillEnd ≠ none
    ∧ (ordered .drillEnd 31 0 ready).orderTaken .drillEnd ≠ none ∧ (ready.uplink 31).state ≠ .drill
    ∧ (ordered .drillEnd 0 0 drilling).orderTaken .drillEnd ≠ none ∧ (drilling.uplink 0).state = .drill
    ∧ (drilling.uplink 0).drill = some drill ∧ drill.slot ≠ some 0 := by decide

theorem witness_live_is_canonical : live.Canonical := by
  unfold State.Canonical
  decide

theorem witness_PinOrdersSetThePin : (ordered .pin 1 0 live).orderTaken .pin ≠ none ∧ live.area.groupCount ≤ 1
    ∧ (ordered .pin 0 16 live).orderTaken .pin ≠ none ∧ 15 < (16 : BitVec 16).toNat
    ∧ (ordered .pin 0 15 ready).orderTaken .pin ≠ none ∧ 0 < ready.area.groupCount ∧ (ready.group 0).live = none
    ∧ (ordered .pin 0 2 live).orderTaken .pin ≠ none ∧ (live.group 0).live = some liveRun ∧ fields.members[2]? = none
    ∧ (ordered .pin 0 1 live).orderTaken .pin ≠ none ∧ fields.members[1]? ≠ none
    ∧ (ordered .unpin 1 0 live).orderTaken .unpin ≠ none ∧ (ordered .unpin 0 0 ready).orderTaken .unpin ≠ none
    ∧ (ordered .unpin 0 0 live).orderTaken .unpin ≠ none := by decide

theorem witness_ordered_is_canonical : (ordered .pin 0 1 live).Canonical ∧ (ordered .unpin 0 0 ready).Canonical
    ∧ (flying (.rowRead (.group 0)) ready).Canonical ∧ (flying (.rowRead (.uplink 31)) ready).Canonical
    ∧ (accessing (accessBy .walkStep true (.run 0 0)) live).Canonical := by
  refine ⟨?_, ?_, ?_, ?_, ?_⟩ <;> (unfold State.Canonical; decide)

theorem witness_ConduitClearOrderClears : (ordered .conduitClear 64 0 ready).orderTaken .conduitClear ≠ none
    ∧ (ordered .conduitClear 63 0 ready).orderTaken .conduitClear ≠ none ∧ ready.alarm 63 = none
    ∧ (ready.setAlarm 63 (some alarm)).alarm 63 = some alarm := by decide

/-- The live device with a SNAPSHOT order for group `g` with a buffer at `buffer` of `length` bytes. -/
def snapshotOrder (g : BitVec 16) (buffer : BitVec 64) (length : BitVec 32) (s : State) : State :=
  let s := ordered .snapshot g 0 s
  { s with area := { s.area with taking := s.area.taking.map fun o => { o with buffer, length } } }

theorem witness_SnapshotOrderBeginsASnapshot : (snapshotOrder 1 0 256 live).orderTaken .snapshot ≠ none
    ∧ live.area.groupCount ≤ 1 ∧ (snapshotOrder 0 2 256 live).orderTaken .snapshot ≠ none ∧ (2 : BitVec 64).toNat % 4 ≠ 0
    ∧ (snapshotOrder 0 0 256 ready).orderTaken .snapshot ≠ none ∧ (ready.group 0).live = none
    ∧ (snapshotOrder 0 0 255 live).orderTaken .snapshot ≠ none ∧ (255 : BitVec 32).toNat < 4 * fields.bucketSize
    ∧ (snapshotOrder 0 4 256 live).orderTaken .snapshot ≠ none ∧ 4 * fields.bucketSize ≤ (256 : BitVec 32).toNat
    ∧ live.store.snapshot = none ∧ (live.group 0).live = some liveRun
    ∧ (withStore (fun b => { b with snapshot := some snapshot }) live).store.snapshot ≠ none := by decide

theorem witness_LockAndHelloChangeTheLink : State.reset.port.lock = .outOfLock ∧ ready.port.lock = .inLock
    ∧ ready.port.link = .ready ∧ (run .lockRegained State.reset).port.lock = .inLock
    ∧ (run .lockRegained State.reset).port.link = .down := by decide

theorem witness_LookupJoinsTheQueue : State.reset.port.link = .down ∧ (filled 63 0).link = .ready
    ∧ (filled 63 0).queue.length < 64 ∧ (filled 47 0).queue.length = 47 ∧ 64 ≤ (filled 64 7).queue.length
    ∧ (filled 64 7).lane.length + (if (filled 64 7).resolution.isSome then 1 else 0) < 8
    ∧ ¬ (filled 64 8).lane.length + (if (filled 64 8).resolution.isSome then 1 else 0) < 8 := by decide +kernel

theorem witness_BadMessagesAreDiscarded : State.reset.port.lock = .outOfLock ∧ linkCheck [1, 1, 0, 0] = false
    ∧ ready.port.lock = .inLock ∧ Arrival.parse (Sending.bytes .pause) = none
    ∧ Arrival.parse (Arrival.hello 1).bytes = some (.hello 1)
    ∧ Arrival.parse (Arrival.lookup asked).bytes = some (.lookup asked)
    ∧ Arrival.parse (Arrival.probeIn 31 (probe true)).bytes = some (.probeIn 31 (probe true)) := by decide +kernel

/-- A probe waiting for the transmitter. -/
def probeOut : ProbeOut := { uplink := 0, content := probe true }

theorem witness_SentMessageGivesWayToTheNext : ready.port.sending = none
    ∧ (withPort { ready.port with sending := some .hello, answering := some 1 }).port.answering = some 1
    ∧ (withPort { ready.port with sending := some .hello, answering := some 2 }).port.answering ≠ some 1
    ∧ (withPort { ready.port with sending := some .pause }).port.sending = some .pause
    ∧ (withPort { filled 0 1 with sending := some (.answer (Answer.without 0 .refused)) }).port.lane ≠ []
    ∧ (withPort { ready.port with sending := some (.probe probeOut), probes := [probeOut] }).port.probes = [probeOut]
    ∧ (withPort { ready.port with sending := some (.probe probeOut) }).port.probes.head? ≠ some probeOut
    ∧ ready.port.answering = none ∧ ready.port.link = .ready ∧ State.reset.port.link = .down
    ∧ ({ ready.port with flow := .proceed } : Port).flow = .proceed ∧ ready.port.flow = .none
    ∧ ready.port.lastTaken = .probe ∧ ready.port.lane = [] ∧ ready.port.probes = [] := by decide

theorem witness_LookupTakenAnswersOrReads : ready.port.queue = [] ∧ (waiting ready).port.queue = [asked]
    ∧ (waiting ready).port.resolution = none ∧ (waiting ready).port.lane.length < 8
    ∧ 8 ≤ (filled 1 8).lane.length ∧ (filled 1 7).lane.length < 8
    ∧ State.reset.control.runState = .off ∧ ready.control.runState ≠ .off ∧ asked.group.toNat < ready.area.groupCount
    ∧ ready.area.groupCount ≤ ({ asked with group := 1 } : Lookup).group.toNat
    ∧ (ready.group 0).live = none ∧ (ready.group 0).rebuild = none
    ∧ ((grouped { liveGroup with live := none } ready).group 0).live = none
    ∧ ((grouped { liveGroup with live := none } ready).group 0).rebuild ≠ none
    ∧ (live.group 0).live = some liveRun ∧ ((grouped { liveGroup with pin := some 0 } live).group 0).pin = some 0
    ∧ fields.members[0]? = some { uplink := 0, weight := 1, role := .primary } ∧ (live.uplink 0).state = .up
    ∧ (live.group 0).pin = none := by decide

/-- The live device resolving `asked`, its bucket read in progress. -/
def reading (faulted : Bool) (s : State) : State := accessing (accessBy .lookup faulted (.run 0 0)) (resolving .reading s)

/-- A group whose only member is uplink 2. -/
def escapeGroup : GroupRecord := { GroupRecord.reset with
  live := some { fields := { fields with members := [{ uplink := 2, weight := 1, role := .primary }], escape := none }
                 blocks := [2] } }

/-- The device with group 0 stranded and its escape group LIVE on uplink 2, UP. -/
def stranded (pin : Option Nat) : State :=
  ((grouped liveGroup ready).setGroup 1 { escapeGroup with pin }).setUplink 2 (record .up)

theorem witness_LookupReadIsSettledAndAnswered : (reading true live).accessOf .lookup = some (accessBy .lookup true (.run 0 0))
    ∧ ((reading true live).port.resolution.bind fun r => r.view.group.live) = some liveRun
    ∧ (reading false live).accessOf .lookup = some (accessBy .lookup false (.run 0 0))
    ∧ fields.isStranded live.isUp = false ∧ fields.isStranded (stranded none).isUp = true
    ∧ ((reading false (grouped liveGroup ready)).port.resolution.bind fun r => r.view.escape) = some ((ready.group 1).view)
    ∧ ((reading false (stranded none)).port.resolution.bind fun r => r.view.escape.bind (·.live)) = escapeGroup.live
    ∧ ((reading false (stranded (some 0))).port.resolution.bind fun r => r.view.escape.bind (·.pin)) = some 0
    ∧ (stranded none).isUp 2 = true := by decide +kernel

theorem witness_EscapeReadIsSettledAndAnswered :
    let s := accessing (accessBy .escape false (.run 1 0)) (resolving .readingEscape (stranded none))
    s.accessOf .escape = some (accessBy .escape false (.run 1 0))
    ∧ (s.port.resolution.bind fun r => r.view.group.live) = some liveRun ∧ fields.escape = some 1
    ∧ (s.port.resolution.bind fun r => r.view.escape.bind (·.live)) = escapeGroup.live := by decide +kernel

theorem witness_SettledMemberIsUp : (∀ m ∈ fields.members, 1 ≤ m.weight)
    ∧ (∃ m ∈ fields.members, live.isUp m.uplink = true) ∧ (∀ m ∈ fields.members, ready.isUp m.uplink = false)
    ∧ fields.settle live.isUp live.shadowed 0 0 1 = some 0 ∧ fields.settle live.isUp live.shadowed 1 1 1 = some 0
    ∧ (fields.settle ready.isUp ready.shadowed 0 0 1).isNone = true := by decide

/-- A fix item. -/
def item : FixItem := { group := 0, bucket := 0, block := 0, offset := 0, foundBy := .lookup }

theorem witness_ParityFaultMarksOneBucket : Memory.wf live.store.memory ∧ (live.group 0).live = some liveRun
    ∧ (live.group 0).rebuild = some rebuild ∧ ({ burst with phase := .wantWrite } : Burst).phase = .wantWrite
    ∧ live.owner live.store.scrubCursor = .free := by decide

theorem witness_FixOffersJoinOnce : (∃ i ∈ [item], i.group = item.group ∧ i.bucket = item.bucket)
    ∧ (∀ i ∈ List.replicate 63 item, i.group ≠ 1 ∨ i.bucket ≠ 0) ∧ (List.replicate 63 item).length < 64
    ∧ 64 ≤ (List.replicate 64 item).length := by decide

theorem witness_ScrubberTreatsEachBucket :
    (withStore (fun b => { b with scrubTimer := 0 }) ready).store.scrubTimer = ready.now
    ∧ (accessing (accessBy .scrubRead false .free) ready).accessOf .scrubRead = some (accessBy .scrubRead false .free)
    ∧ (accessBy .scrubRead true .free).bucket.faulted = true ∧ (accessBy .scrubRead true (.run 0 0)).owner = .run 0 0
    ∧ (accessBy .scrubRead true (.reserved 0 0)).owner = .reserved 0 0
    ∧ (withStore (fun b => { b with burst := some burst }) ready).store.burst = some burst
    ∧ (accessing (accessBy .scrubWrite true .free) ready).accessOf .scrubWrite = some (accessBy .scrubWrite true .free) := by
  decide

theorem witness_SnapshotWritesItsEntries :
    (accessing (accessBy .snapshot true .free) ready).accessOf .snapshot = some (accessBy .snapshot true .free)
    ∧ (withStore (fun b => { b with snapshot := some snapshot }) ready).store.snapshot = some snapshot
    ∧ (flying (.snapshotEntry 0 0 [] true) ready).inFlight = some (.snapshotEntry 0 0 [] true)
    ∧ ({ snapshot with next := 64 } : SnapshotRecord).next = 64 * snapshot.blocks.length
    ∧ (flying (.snapshotEntry 1 0 [] false) ready).inFlight = some (.snapshotEntry 1 0 [] false) := by decide

theorem witness_GrantsFollowTheClasses : (accessing (accessBy .fix true .free) ready).store.access ≠ none
    ∧ live.store.access = none ∧ ((resolving .wantRead live).port.resolution.map (·.phase)) = some .wantRead
    ∧ ((resolving .wantEscape (stranded none)).port.resolution.bind fun r => r.view.escape.bind (·.live)) = escapeGroup.live
    ∧ live.port.wantsAccess = false ∧ (live.group 0).live = some liveRun ∧ Memory.wf live.store.memory
    ∧ (live.group 0).rebuild = some rebuild
    ∧ (working (.walkStep 0 0 63 false .wantRead) live).engine.work = some (.walkStep 0 0 63 false .wantRead)
    ∧ (working (.walkStep 0 0 63 false (.wantWrite 15 15 true)) live).engineWaits = true
    ∧ (working (.settlePass 0 63 .wantRead) live).engineWaits = true
    ∧ (working (.settlePass 0 63 (.wantWrite 1 1 false)) live).engineWaits = true
    ∧ (working (.fix item .wantRead) live).engineWaits = true
    ∧ (working (.fix item (.wantWrite 0 0 true)) live).engineWaits = true
    ∧ (working (.blockStep 0 0 63 false) live).engineWaits = true
    ∧ live.engineWaits = false ∧ live.scrubWaits = false ∧ live.snapshotWaits = false
    ∧ (withStore (fun b => { b with burst := some { burst with phase := .wantRead } }) live).scrubWaits = true
    ∧ (withStore (fun b => { b with burst := some { burst with phase := .wantWrite } }) live).scrubWaits = true
    ∧ (withStore (fun b => { b with burst := some { burst with phase := .wantWrite } }) live).owner 0 = .free
    ∧ (ready.setOwner 2047 (.run 0 0)).owner 2047 ≠ .free
    ∧ (withStore (fun b => { b with snapshot := some { snapshot with reading := false } }) live).snapshotWaits = true
    ∧ (withStore (fun b => { b with
        burst := some { burst with phase := .wantRead }, snapshot := some { snapshot with reading := false } }) live).scrubWaits
      = true
    ∧ (withStore (fun b => { b with
        burst := some { burst with phase := .wantRead }, snapshot := some { snapshot with reading := false } })
        live).snapshotWaits = true
    ∧ live.store.lastBackground = none
    ∧ (withStore (fun b => { b with lastBackground := some .scrubber }) live).store.lastBackground = some .scrubber
    ∧ (withStore (fun b => { b with lastBackground := some .snapshot }) live).store.lastBackground = some .snapshot := by
  decide +kernel

/-- The device with a burst that wants its last bucket's write, the bucket at the cursor faulted. -/
def scrubWrites : State :=
  withStore (fun b => { b with burst := some { burst with phase := .wantWrite } }) (run (.parityFault 0 63) ready)

theorem test_scrubber_grant : (run .bucketAccessGrant scrubWrites).bucket 0 63 = { home := 0, current := 0, faulted := false }
    ∧ (run .bucketAccessGrant scrubWrites).store.access.map (·.requester) = some .scrubWrite
    ∧ (run .bucketAccessGrant (scrubWrites.setOwner 0 (.run 0 0))).bucket 0 63
        = { home := 0, current := 0, faulted := true } := by decide +kernel

/-- The engine of `live` with uplink 0's list naming group 0. -/
def engine : WalkEngine := (indexed live).engine

theorem witness_SelectionFollowsThePriority : engine.work = none ∧ engine.urgent = [] ∧ engine.restore = []
    ∧ engine.intake = [] ∧ engine.tally < engine.weight
    ∧ (working (.settlePass 0 0 .wantRead) live).engine.work ≠ none
    ∧ ((engine.index.get walk.uplink).find? fun g => walk.cursor.all fun c => decide (c < g)) = some 0
    ∧ ((engine.index.get walk.uplink).find? fun g => (some 0).all fun c => decide (c < g)) = none
    ∧ ¬ ((4 : Nat) < engine.weight) ∧ live.store.fixQueue = []
    ∧ ([item].find? fun i => i.group == 0 && i.bucket == 0) = some item
    ∧ (live.group 0).live ≠ none ∧ (ready.group 0).live = none := by decide

/-- A walk of uplink 0 that has no group left, 7 buckets moved. -/
def ended : Walk := { walk with cursor := some 0, bucketsMoved := 7 }

/-- The device in DRILL at uplink 0, with that walk first in a queue and a flip of group 0 waiting. -/
def walked (urgent restore : List Walk) : State :=
  { quiet drilling with engine := { engine with urgent, restore, intake := [.flip 0] } }

theorem test_urgent_walk_ends : ((run .workSelect (walked [ended] [])).uplink 0).drill
      = some { drill with walkResult := some (7, 0) }
    ∧ (run .workSelect (walked [ended] [])).engine.urgent = []
    ∧ (run .workSelect (walked [ended] [])).engine.intake = [] := by decide

theorem test_restore_walk_ends : ((run .workSelect (walked [] [ended])).uplink 0).drill = some drill
    ∧ (run .workSelect (walked [] [ended])).engine.restore = []
    ∧ (run .workSelect (walked [] [ended])).area.holding.map (·.entry) = [.walkDone 0 .restore 0 0 7 0] := by decide

/-- The device whose next unit is the flip of group 0, with a snapshot of it and the pin `slot`. -/
def flipping (slot : Nat) : State :=
  withStore (fun b => { b with snapshot := some snapshot })
    (grouped { liveGroup with pin := some slot } (withEngine { engine with intake := [.flip 0] }))

theorem witness_FlipReplacesTheLiveRun : (flipping 0).engine.work = none ∧ (flipping 0).engine.urgent = []
    ∧ (flipping 0).engine.restore = [] ∧ (flipping 0).engine.intake = [.flip 0]
    ∧ ((flipping 0).group 0).rebuild = some rebuild ∧ rebuild.blocks.Nodup
    ∧ ((flipping 0).group 0).live = some liveRun ∧ (∀ k ∈ liveRun.blocks, k ∉ rebuild.blocks)
    ∧ ((flipping 0).group 0).pin = some 0 ∧ fields.members[0]?.isSome = true
    ∧ (flipping 0).store.snapshot = some snapshot ∧ snapshot.group = 0 ∧ rebuild.recheck = true
    ∧ ((run .workSelect (flipping 0)).group 0).pin = some 0 ∧ (run .workSelect (flipping 0)).store.snapshot = none := by
  decide +kernel

/-- The device whose next unit is the flip of group 0 to a run without uplink 0, its pin at uplink 0 and its reported
strandedness `reported`. -/
def lapsing (reported : Strandedness) (s : State) : State :=
  quiet (grouped { liveGroup with
      pin := some 0, reported, strandedSince := if reported = .stranded then some 0 else none
      rebuild := some { rebuild with staged := { fields with members := [{ uplink := 1, weight := 1, role := .primary }] } } }
    { s with engine := { engine with intake := [.flip 0] } })

theorem test_flip_records_are_in_order :
    (run .workSelect (lapsing .active (uplinkIn .up))).area.holding.map (·.entry)
      = [.rebuildDone 0 64 2 0 0 1 true, .pinLapsed 0 0 0 2, .groupStranded 0 (some 1) 2]
    ∧ (run .workSelect (lapsing .active (uplinkIn .up))).control.cause = 2
    ∧ ((run .workSelect (lapsing .active (uplinkIn .up))).group 0).strandedSince = some 0
    ∧ (run .workSelect (lapsing .stranded (ready.setUplink 1 (record .up)))).area.holding.map (·.entry)
      = [.rebuildDone 0 64 2 0 0 1 true, .pinLapsed 0 0 0 2, .groupRecovered 0 2 0]
    ∧ ((run .workSelect (lapsing .stranded (ready.setUplink 1 (record .up)))).group 0).strandedSince = none := by
  decide +kernel

theorem witness_flipping_is_canonical : (flipping 0).Canonical := by
  unfold State.Canonical
  decide

theorem witness_StepsAndPassesTreatEachBucket : (live.group 0).live = some liveRun
    ∧ (accessing (accessBy .walkStep true (.run 0 0)) live).accessOf .walkStep = some (accessBy .walkStep true (.run 0 0))
    ∧ fields.rewrite live.isUp live.shadowed 0 (accessBy .walkStep true (.run 0 0)).bucket = some (0, 0, true)
    ∧ fields.rewrite live.isUp live.shadowed 63 (accessBy .walkStep false (.run 0 0)).bucket = none
    ∧ 62 + 1 < fields.bucketSize ∧ fields.bucketSize ≤ 63 + 1
    ∧ (accessing (accessBy .settlePass true (.run 0 0)) live).accessOf .settlePass
        = some (accessBy .settlePass true (.run 0 0)) := by decide +kernel

theorem witness_StrandednessIsReportedOnChange : Sparse.wf GroupRecord.reset live.groups ∧ (live.group 0).reported = .active
    ∧ (∀ m ∈ fields.members, (ready.uplink m.uplink).state ≠ .up)
    ∧ ¬ (∀ m ∈ fields.members, (live.uplink m.uplink).state ≠ .up)
    ∧ ((grouped { liveGroup with reported := .stranded, strandedSince := some 0 } live).group 0).strandedSince = some 0 := by
  decide

theorem witness_BlockStepsAndFixesAdvance :
    (accessing (accessBy .blockStep false .free) live).accessOf .blockStep = some (accessBy .blockStep false .free)
    ∧ (live.group 0).rebuild = some rebuild ∧ 62 + 1 < 64 ∧ 64 ≤ 63 + 1 ∧ rebuild.blocks.length ≤ 0 + 1
    ∧ 0 + 1 < ({ rebuild with blocks := [1, 2] } : Rebuild).blocks.length
    ∧ (accessing (accessBy .fix true (.run 0 0)) live).accessOf .fix = some (accessBy .fix true (.run 0 0))
    ∧ (accessBy .fix true (.run 0 0)).owner = .run item.group (item.bucket / 64)
    ∧ (accessBy .fix true .free).owner ≠ .run item.group (item.bucket / 64)
    ∧ (live.group item.group).live = some liveRun := by decide

theorem witness_RowReadIsTreatedByItsGenerations : (rowBytes 1 1).length = 128
    ∧ (flying (.rowRead (.uplink 31)) (sweeping ready)).inFlight = some (.rowRead (.uplink 31))
    ∧ (sweeping ready).area.sweep = some (SweepRecord.begin 1 0 .onDemand)
    ∧ headGeneration (rowBytes 1 2) ≠ tailGeneration (rowBytes 1 2)
    ∧ headGeneration (rowBytes 1 1) = tailGeneration (rowBytes 1 1)
    ∧ headGeneration (rowBytes 0 0) = ready.liveGeneration (.uplink 31)
    ∧ headGeneration (rowBytes 1 1) ≠ ready.liveGeneration (.uplink 31)
    ∧ (ready.rowMemory (.uplink 31)).tornCount < 7
    ∧ 7 ≤ ((ready.setRowMemory (.uplink 31) { tornCount := 7, lastRejected := some 1 }).rowMemory (.uplink 31)).tornCount
    ∧ ((ready.setRowMemory (.uplink 31) { tornCount := 7, lastRejected := some 1 }).rowMemory (.uplink 31)).lastRejected
        = some (headGeneration (rowBytes 1 1))
    ∧ (run .holdOn ready).control.hold = true := by decide +kernel

/-- 128 row bytes that close their check: generation 1 at both ends, the fields `body` from byte 4 on. -/
def checkedRow (body : List Byte) : List Byte :=
  let row := [1, 0, 0, 0] ++ body ++ List.replicate (118 - body.length) 0
  let sum := onesSum (areaHalfWords (row ++ [0, 0, 1, 0, 0, 0]))
  row ++ leBytes 2 (0xFFFF - sum) ++ [1, 0, 0, 0]

/-- The fields of an enabled uplink row with the defaults of R1, TRUST as initial mode. -/
def enabledRow (peer : Byte) : List Byte :=
  checkedRow ([1, 1, peer, 3] ++ List.replicate 6 0 ++ [10, 0, 0xD0, 7, 50, 0, 60, 0, 16, 5])

/-- A disabled uplink row with the same fields. -/
def disabledRow : List Byte := checkedRow ([2, 1, 0, 3] ++ List.replicate 6 0 ++ [10, 0, 0xD0, 7, 50, 0, 60, 0, 16, 5])

/-- A planned group row with uplink 0 as its only member, bucket size code `code` and one block for each 64 buckets. -/
def plannedRow (code : Byte) : List Byte := checkedRow [1, 1, code, 0, 0, 0, 0, 0, 0, 1, 0, 0]

theorem witness_PlanRowsAreChecked : (enabledRow 0).length = 128 ∧ areaCheck (rowBytes 1 1) = false
    ∧ areaCheck (enabledRow 0) = true ∧ checkUplinkRow (checkedRow [3]) = .error (.field 4)
    ∧ checkUplinkRow (enabledRow 32) = .error (.field 6)
    ∧ ((checkUplinkRow (enabledRow 31)).toOption.map fun r => r.params.peerUplink) = some 31
    ∧ checkGroupRow 1 0 (checkedRow [2]) = .error (.field 4) ∧ checkGroupRow 1 0 (checkedRow [0]) = .ok none
    ∧ checkGroupRow 1 0 (plannedRow 5) = .error (.field 6)
    ∧ ((checkGroupRow 1 0 (plannedRow 4)).toOption.bind fun f => f.map (·.bucketSize)) = some 1024
    ∧ checkGroupRow 1 0 (checkedRow [1, 2, 0, 0, 0, 0, 0, 0, 7, 1, 0, 0, 7, 1, 0, 0])
        = .error { reason := .dupMember, detail1 := 0, detail2 := 1 }
    ∧ checkGroupRow 1 0 (checkedRow [1, 1, 0, 2, 0, 0, 0, 0, 0, 1, 0, 0]) = .error (.plain .selfEscape)
    ∧ checkGroupRow 1 0 (checkedRow [1, 1, 0, 2, 1, 0, 0, 0, 0, 1, 0, 0]) = .error (.field 8) := by decide +kernel

/-- The device STARTING after START_ADOPT, its first sweep in progress. -/
def resuming (s : State) : State :=
  { sweeping s with control := { s.control with runState := .starting, headlessReason := some .stop } }

theorem test_only_the_first_sweep_may_pass_over :
    (resuming ready).passesOver = !Config.adoptsInFirstSweep ∧ ready.passesOver = false := ⟨rfl, rfl⟩

theorem test_passing_row_while_resuming : (resuming ready).checkRow (.group 0) 1 (checkedRow [0])
    = if Config.adoptsInFirstSweep then
        (((resuming ready).adoptGroupRow 0 none 1).1.countHandOver (.group 0))
      else resuming ready := by
  have good : checkGroupRow (resuming ready).area.groupCount 0 (checkedRow [0]) = .ok none := by decide +kernel
  unfold State.checkRow State.passesOver
  rw [show (resuming ready).resuming = true from rfl]
  simp only [good]
  cases Config.adoptsInFirstSweep <;> rfl

theorem test_bad_row_is_rejected_while_resuming :
    ((run (.rowReadDone (rowBytes 1 1)) (flying (.rowRead (.uplink 0)) (resuming (quiet ready)))).area.sweep.map (·.rejected))
      = some 1 := by decide +kernel

theorem witness_ChangedUplinkRowIsAdoptedOrRejected : (checkedRow [0]).length = 128
    ∧ (flying (.rowRead (.uplink 0)) ready).inFlight = some (.rowRead (.uplink 0)) ∧ ready.control.hold = false
    ∧ headGeneration (checkedRow [0]) = tailGeneration (checkedRow [0])
    ∧ headGeneration (checkedRow [0]) ≠ (ready.uplink 0).generation
    ∧ (resuming ready).control.runState = .starting ∧ (resuming ready).control.headlessReason ≠ none
    ∧ ready.control.runState ≠ .starting
    ∧ (ready.rowMemory (.uplink 0)).lastRejected ≠ some (headGeneration (checkedRow [0]))
    ∧ checkUplinkRow (rowBytes 1 1) = .error (.plain .badCheck)
    ∧ checkUplinkRow (checkedRow [0]) = .ok { kind := .empty, params := UplinkParams.default }
    ∧ ((checkUplinkRow (enabledRow 0)).toOption.map fun r => (r.kind, r.params.initialMode)) = some (.enabled, .trust)
    ∧ ((uplinkIn .up).uplink 0).state.probing = true ∧ ((uplinkIn .adminDown).uplink 0).state.probing = false
    ∧ ((uplinkIn .up).uplink 0).drill = none ∧ (drilling.uplink 0).drill = some drill
    ∧ (drilling.uplink 0).drillJudged.state = .up
    ∧ ((run (.rowReadDone (checkedRow [0])) (flying (.rowRead (.uplink 0)) (quiet drilling))).uplink 0).drill = none := by
  decide +kernel

/-- The device with uplink 0 in a state that a row left it in, for the cause `cause`. -/
def left (state : UplinkState) (cause : DarkCause) : State :=
  ready.setUplink 0 { record state with darkCause := some cause }

theorem witness_ChangedUplinkRowIsAdoptedOrRejected_kinds :
    ((left .unconfigured .removed).uplink 0).drillJudged.darkCause = some .removed
    ∧ ((left .adminDown .admin).uplink 0).drillJudged.darkCause = some .admin
    ∧ ((checkUplinkRow disabledRow).toOption.map (·.kind)) = some .disabled
    ∧ ((checkUplinkRow (enabledRow 0)).toOption.map fun r => (r.params.peerIdentity, r.params.peerUplink))
      = some (((uplinkIn .up).uplink 0).params.peerIdentity, ((uplinkIn .up).uplink 0).params.peerUplink)
    ∧ ((checkUplinkRow (enabledRow 31)).toOption.map (·.params.peerUplink)) = some 31
    ∧ ((uplinkIn .up).uplink 0).params.peerUplink ≠ 31 ∧ ((uplinkIn .adminDown).uplink 0).light = .present
    ∧ (State.reset.uplink 0).light ≠ .present ∧ State.reset.control.runState = .off
    ∧ (drilling.uplink 0).drillJudged.state.probing = true := by decide +kernel

theorem test_enabling_probes : (run (.rowReadDone (enabledRow 0)) (flying (.rowRead (.uplink 0)) (quiet ready))).port.sending
      = some (.probe { uplink := 0, content := { identity := Identity.zero, uplink := 0, seen := false, sequence := 0 } })
    ∧ ((run (.rowReadDone (enabledRow 0)) (flying (.rowRead (.uplink 0)) (quiet ready))).uplink 0).txSequence = 1
    ∧ ((run (.rowReadDone (enabledRow 0)) (flying (.rowRead (.uplink 0)) (quiet (uplinkIn .adminDown)))).uplink 0).state
      = .up := by decide +kernel

/-- The device with group 0 LIVE, a walk of uplink 0 at it, and the unit `w` in progress. -/
def removing (w : Work) : State :=
  working w { quiet live with engine := { engine with urgent := [walk] } }

theorem test_removal_ends_the_unit :
    (run (.rowReadDone (checkedRow [0])) (flying (.rowRead (.group 0)) (removing (.walkStep 0 0 5 false .reading)))).engine.urgent
      = [{ walk with groupsTouched := 1, cursor := some 0 }]
    ∧ (run (.rowReadDone (checkedRow [0])) (flying (.rowRead (.group 0)) (removing (.walkStep 0 0 5 true .reading)))).engine.urgent
      = [{ walk with groupsTouched := 1, cursor := none }]
    ∧ (run (.rowReadDone (checkedRow [0])) (flying (.rowRead (.group 0)) (removing (.fix item .reading)))).engine.work = none
    ∧ (run (.rowReadDone (checkedRow [0])) (flying (.rowRead (.group 0)) (removing (.fix item .wantRead)))).engine.work
      = some (.fix item .wantRead) := by decide +kernel

theorem witness_ChangedGroupRowIsAdoptedOrRejected : (plannedRow 0).length = 128
    ∧ (flying (.rowRead (.group 0)) ready).inFlight = some (.rowRead (.group 0)) ∧ ready.control.hold = false
    ∧ headGeneration (plannedRow 0) = tailGeneration (plannedRow 0)
    ∧ headGeneration (plannedRow 0) ≠ (ready.group 0).liveGeneration ∧ (live.group 0).rebuild = some rebuild
    ∧ (ready.rowMemory (.group 0)).lastRejected ≠ some (headGeneration (plannedRow 0))
    ∧ checkGroupRow 1 0 (checkedRow [2]) = .error (.field 4) ∧ checkGroupRow 1 0 (checkedRow [0]) = .ok none
    ∧ ((checkGroupRow 1 0 (plannedRow 4)).toOption.bind fun f => f.map (·.bucketSize)) = some 1024
    ∧ (ready.group 0).live = none ∧ (live.group 0).live = some liveRun
    ∧ (working (.walkStep 0 0 0 false .wantRead) live).engine.work = some (.walkStep 0 0 0 false .wantRead)
    ∧ (working (.settlePass 0 0 .wantRead) live).engine.work = some (.settlePass 0 0 .wantRead)
    ∧ (working (.blockStep 0 0 0 false) live).engine.work = some (.blockStep 0 0 0 false) ∧ snapshot.group = 0
    ∧ (working (.fix item .reading) live).engine.work = some (.fix item .reading) ∧ item.group = 0
    ∧ (accessing (accessBy .fix true (.run 0 0)) live).store.access = some (accessBy .fix true (.run 0 0))
    ∧ 1024 / 64 ≤ ready.freeBlockCount ∧ 1 ≤ ready.freeIndexEntries
    ∧ (withStore (fun b => { b with owners := (List.range 2048).map fun k => (k, Owner.run 0 0) }) ready).freeBlockCount < 1
    ∧ ({ ready with engine := { ready.engine with entriesInUse := 16384 } } : State).freeIndexEntries < 1
    ∧ (ready.setOwner 0 (.run 0 0)).owner 0 ≠ .free ∧ (ready.setOwner 0 (.run 0 0)).owner 2047 = .free := by
  decide +kernel

theorem test_lowest_free_blocks : (((run (.rowReadDone (plannedRow 1)) (flying (.rowRead (.group 0))
    (quiet ((ready.setOwner 0 (.run 0 0)).setOwner 2 (.run 0 1))))).group 0).rebuild.map (·.blocks)) = some [1, 3] := by
  decide +kernel

/-- The device with its sweep at an order slot, in the phase `phase`. -/
def atSlot (phase : SweepPhase) (s : State) : State :=
  { s with area := { s.area with sweep := some { SweepRecord.begin 1 0 .onDemand with phase } } }

theorem witness_OrderSlotsAreTakenAndCompleted : (List.replicate 64 (0 : Byte)).length = 64
    ∧ (flying (.slotRead 15) ready).inFlight = some (.slotRead 15) ∧ ready.area.slotHolds.get 15 = none
    ∧ byteAt ([5, 1] ++ List.replicate 62 0) 1 = 1 ∧ byteAt (List.replicate 64 0) 1 ≠ 1
    ∧ slotCheck ([5, 1] ++ List.replicate 62 0) = false ∧ (flying (.slotRead 15) (sweeping ready)).area.sweep ≠ none
    ∧ slotCheck ([5, 1] ++ List.replicate 28 0 ++ [0xFA, 0xFE] ++ List.replicate 32 0) = true
    ∧ OrderKind.ofCode 5 = some .unpin ∧ slotCheck ([8, 1] ++ List.replicate 28 0 ++ [0xF7, 0xFE]) = true
    ∧ 7 < byteAt [8, 1] 0 ∧ ready.control.runState = .running
    ∧ (run .stop (quiet ready)).control.runState ≠ .running
    ∧ (flying (.slotResult 15) ready).inFlight = some (.slotResult 15)
    ∧ (flying (.slotState 0) ready).inFlight = some (.slotState 0)
    ∧ (ordered .unpin 0 0 (quiet (atSlot (.slotTaken 0) ready))).orderTaken .unpin ≠ none := by decide +kernel

theorem test_next_slot_is_read :
    (run (.orderSlotReadDone (List.replicate 64 0)) (flying (.slotRead 0) (atSlot (.slotRead 0) ready))).inFlight
      = some (.slotRead 1)
    ∧ (run .slotStateWritten (flying (.slotState 14) (atSlot (.slotWrite 14) ready))).inFlight = some (.slotRead 15)
    ∧ ((run .unpin (ordered .unpin 0 0 (atSlot (.slotTaken 0) ready))).area.sweep.map (·.phase)) = some (.slotWrite 0)
    ∧ (run .unpin (ordered .unpin 0 0 (atSlot (.slotTaken 0) ready))).inFlight = some (.slotResult 0)
    ∧ ((run .drillStart (ordered .drillStart 0 1 (quiet ((atSlot (.slotTaken 0) ready).setUplink 0 (record .up))))).area.sweep.map
        (·.phase)) = some (.slotRead 1) := by decide +kernel

/-- A record that waits. -/
def waitingRecord : Record := { time := 0, entry := .stopped 0 }

/-- The device with `n` records waiting and a gap of `gap`. -/
def holding (n gap : Nat) : State :=
  { ready with area := { ready.area with holding := List.replicate n waitingRecord, gapCount := gap } }

/-- The device whose STOPPED record is being written, or waits for the access in progress. -/
def stopping (begun : Bool) (s : State) : State :=
  { s with area := { s.area with stopTry := some { record := waitingRecord, begun } } }

theorem witness_JournalWritesRecordsInTwoWrites : (holding 15 0).area.holding.length < 16
    ∧ 16 ≤ (holding 16 1).area.holding.length ∧ 0 < (holding 16 1).area.gapCount ∧ (holding 16 0).area.gapCount = 0
    ∧ (flying .journalKindRead (holding 1 0)).inFlight = some .journalKindRead ∧ (holding 1 0).area.stopTry = none
    ∧ (flying .journalBody (holding 1 0)).inFlight = some .journalBody
    ∧ (flying .journalKind (holding 2 1)).inFlight = some .journalKind
    ∧ (holding 2 1).area.holding = [waitingRecord, waitingRecord] ∧ (holding 1 1).area.holding = [waitingRecord]
    ∧ (holding 1 1).area.gapCount ≠ 0 ∧ (holding 1 0).area.gapCount = 0
    ∧ (stopping true (flying .journalKind ready)).inFlight = some .journalKind
    ∧ (stopping true ready).area.stopTry = some { record := waitingRecord, begun := true }
    ∧ (stopping false (flying .journalKind (holding 1 0))).area.stopTry = some { record := waitingRecord, begun := false }
    ∧ (stopping false (holding 1 0)).area.holding.tail = [] ∧ (stopping false (holding 1 0)).area.blocked = false
    ∧ (stopping false (holding 2 0)).area.holding.tail ≠ [] := by decide

/-- The device RUNNING with a sweep at its flush step. -/
def flushing (s : State) : State :=
  { s with area := { s.area with sweep := some { SweepRecord.begin 1 0 .continuous with phase := .flush } } }

theorem test_flush_waits : ((run (.orderSlotReadDone (List.replicate 64 0))
    (flying (.slotRead 15) (sweeping (holding 1 0)))).area.sweep.map (·.phase)) = some .flush
    ∧ (run (.orderSlotReadDone (List.replicate 64 0)) (flying (.slotRead 15) (sweeping (holding 1 0)))).inFlight
      = some .journalKindRead := by decide

theorem witness_FlushEndsBeforeThePage : (List.replicate 64 (0 : Byte)).length = 64
    ∧ (flying (.slotRead 15) (sweeping ready)).inFlight = some (.slotRead 15) ∧ byteAt (List.replicate 64 0) 1 ≠ 1
    ∧ ready.area.writer = .idle ∧ ready.area.holding = [] ∧ (holding 1 0).area.holding ≠ []
    ∧ writingHead.area.writer ≠ .idle
    ∧ (flushing (holding 1 0)).area.sweep = some { SweepRecord.begin 1 0 .continuous with phase := .flush }
    ∧ (flushing (holding 1 0)).area.stopTry = none ∧ (holding 1 0).area.holding = [waitingRecord]
    ∧ (holding 1 0).area.gapCount = 0 ∧ (holding 2 0).area.holding.tail ≠ [] ∧ (holding 2 0).area.blocked = false
    ∧ (flying .journalKindRead (flushing (holding 1 0))).inFlight = some .journalKindRead
    ∧ (flying .journalKind (flushing (holding 1 0))).inFlight = some .journalKind
    ∧ (run .journalKindWritten (flying .journalKind (flushing (holding 1 0)))).inFlight = some (.pageWrite 0) := by decide

theorem witness_FlushEndsBeforeThePage_canonical : (flying (.slotRead 15) (sweeping ready)).Canonical
    ∧ (flying .journalKind (flushing (holding 1 0))).Canonical := by
  refine ⟨?_, ?_⟩ <;> (unfold State.Canonical; decide)

/-- The bytes of an UNPIN order that closes its check, and of one that does not. -/
def unpinSlot (good : Bool) : List Byte :=
  [5, 1] ++ List.replicate 28 0 ++ (if good then [0xFA, 0xFE] else [0, 0]) ++ List.replicate 32 0

/-- The device with the TAKEN write of an UNPIN order in slot 15 in progress. -/
def lastTaken (s : State) : State :=
  flying (.takenWrite 15) { atSlot (.slotTaken 15) s with area := { (atSlot (.slotTaken 15) s).area with
    taking := some { slot := 15, kind := .unpin, argA := 0, argB := 0, buffer := 0, length := 0 } } }

theorem witness_FlushEndsBeforeThePage_last_slot : (unpinSlot true).length = 64 ∧ slotCheck (unpinSlot true) = true
    ∧ byteAt (unpinSlot true) 0 = OrderKind.unpin.code ∧ slotCheck (unpinSlot false) = false
    ∧ byteAt (unpinSlot false) 1 = 1 ∧ (unpinSlot false).length = 64
    ∧ (flying (.slotRead 15) (atSlot (.slotRead 15) ready)).inFlight = some (.slotRead 15)
    ∧ ready.area.slotHolds.get 15 = none ∧ ready.control.runState = .running
    ∧ (resuming ready).control.runState ≠ .running ∧ (resuming ready).completion 15 = none
    ∧ (lastTaken ready).orderTaken .unpin = (lastTaken ready).area.taking
    ∧ ((lastTaken ready).area.taking.map (·.slot)) = some 15
    ∧ (flying (.slotState 15) (atSlot (.slotWrite 15) ready)).inFlight = some (.slotState 15) := by decide +kernel

theorem test_last_slot_is_awaited :
    ((run (.orderSlotReadDone (unpinSlot true)) (flying (.slotRead 15) (atSlot (.slotRead 15) ready))).area.sweep.map
      fun r => (r.phase, r.orders)) = some (.slotTaken 15, 1)
    ∧ ((run (.orderSlotReadDone (unpinSlot false)) (flying (.slotRead 15) (atSlot (.slotRead 15) ready))).area.sweep.map
      (·.phase)) = some (.slotWrite 15)
    ∧ (run .slotStateWritten (flying (.slotState 15) (atSlot (.slotWrite 15) ready))).inFlight = some (.pageWrite 0) := by
  decide +kernel

theorem test_last_slot_is_handed_over : (run .unpin (lastTaken (quiet ready))).completion 15 = none
    ∧ (run .unpin (lastTaken { ready with area := { ready.area with
        slotHolds := ready.area.slotHolds.set 15 (some .unpin) } })).completion 15 ≠ none := by decide +kernel

theorem witness_lastTaken_is_canonical : (lastTaken ready).Canonical := by
  unfold State.Canonical
  decide

theorem witness_AreaWritesCarryTheirBytes : ready.area.flight = none
    ∧ ({ ready with area := { ready.area with waiting := [.pageWrite 0] } } : State).area.waiting = [.pageWrite 0]
    ∧ ending.completion 1 = some finished ∧ (stopping true ready).area.stopTry = some { record := waitingRecord, begun := true }
    ∧ (holding 1 0).area.holding.head? = some waitingRecord ∧ 0 < ready.area.groupCount
    ∧ finished.bytes = layOut 32 ([(0, 1, finished.reason.code), (4, 4, finished.time.toNat)] ++ finished.results.layout 8)
    ∧ waitingRecord.bytes = layOut 32 ((4, 4, waitingRecord.time.toNat) :: waitingRecord.entry.layout) := by decide

theorem witness_PageEndEndsTheSweep : (flying (.pageWrite 34) ready).inFlight = some (.pageWrite 34)
    ∧ (superseded .startFresh).area.adoptPage = false ∧ (superseded .startFresh).area.sweep = none
    ∧ (superseded .startFresh).control.runState.active = false ∧ (superseded .startFresh).area.requested = []
    ∧ (superseded .startFresh).area.waiting = [.headerRead] ∧ (superseded .clear).area.waiting = []
    ∧ 34 < 34 + ready.area.groupCount ∧ 34 + ready.area.groupCount ≤ 35 ∧ ready.area.adoptPage = false
    ∧ (sweeping ready).area.sweep = some (SweepRecord.begin 1 0 .onDemand)
    ∧ (SweepRecord.begin 1 0 .onDemand).reporting = true ∧ (sweeping ready).area.dueMark = false
    ∧ ({ ready with area := { ready.area with dueMark := true, newsMark := true } } : State).area.dueMark = true
    ∧ ({ ready with area := { ready.area with adoptPage := true } } : State).area.adoptPage = true
    ∧ (holding 16 0).area.holding.length ≤ 16 := by decide

/-- The device HEADLESS whose page of START_ADOPT is at its last write, with `n` records waiting and a gap of `gap`. -/
def resumes (n gap : Nat) : State :=
  let s := flying (.pageWrite 35) (holding n gap)
  { s with control := headless.control, area := { s.area with adoptPage := true } }

theorem test_resumed_displaces_a_record :
    (run .statusPageWriteDone (resumes 16 0)).area.holding.head?
      = some { time := 0, entry := .resumed (some .stop) 1 0 }
    ∧ (run .statusPageWriteDone (resumes 16 0)).area.holding.length = 16
    ∧ (run .statusPageWriteDone (resumes 16 0)).area.firstDrop = some 0
    ∧ (run .statusPageWriteDone (resumes 16 0)).control.cause = 8
    ∧ (run .statusPageWriteDone (resumes 16 5)).area.gapCount = 6
    ∧ (run .statusPageWriteDone (resumes 16 5)).control.cause = 0
    ∧ (run .statusPageWriteDone (resumes 15 0)).area.gapCount = 0
    ∧ (run .statusPageWriteDone (resumes 15 0)).inFlight = some .journalKindRead := by decide

theorem witness_CommandsLeaveTheRestAlone : exec .nudge State.reset = .next State.reset := rfl

theorem witness_StepKeepsCanonicalForm_QueuesWithinCapacity_LinkAndAgendaSound : State.reset.Canonical ∧ State.reset.WithinCapacity ∧ State.reset.LinkSound
    ∧ State.reset.OneWalkEach ∧ step { State.reset with pending := [.nudge] } = .next State.reset := by
  refine ⟨by unfold State.Canonical; decide, by unfold State.WithinCapacity; decide, by unfold State.LinkSound; decide,
    by unfold State.OneWalkEach; decide, rfl⟩

theorem witness_MessagesAreReadAsTheyWereSent : [(1 : Byte), 1].length % 2 = 0
    ∧ linkCheck (Arrival.hello 1).bytes = true ∧ (Arrival.hello 1).bytes.length = 4
    ∧ linkCheck (Arrival.lookup asked).bytes = true ∧ (Arrival.lookup asked).bytes.length = 8
    ∧ linkCheck (Arrival.probeIn 31 (probe true)).bytes = true ∧ (Arrival.probeIn 31 (probe true)).bytes.length = 16
    ∧ (Arrival.probeIn 31 (probe true)).bytes.getD 0 0 = 5 ∧ (closeMessage [1, 1, 0, 0]).length ≠ 4
    ∧ linkCheck [0, 0] = false ∧ linkCheck [0xFF, 0xFF] = true := by decide +kernel

end Sys2Proof.Tests
end

section
/-! PROOF. WINDOW_END (O17): the counts of the window that ends, the failure it amounts to, the window that follows, and
the PROBE_OUT that is emitted. -/

namespace Sys2Proof.Machine

/-! ### The counts of a window that ends (R9) -/

namespace UplinkRecord

variable (r : UplinkRecord)

/-- A window with an affirming probe. -/
theorem judge_of_affirming (affirming : r.affirmingSeen = true) : r.judge =
    { r with missCount := 0, blindCount := 0, mismatchMark := false, quietWindows := 0 } := by
  simp only [judge, affirming, if_true]

/-- A window with a good probe and no affirming one. -/
theorem judge_of_good (affirming : r.affirmingSeen = false) (good : r.goodSeen = true) : r.judge =
    { r with missCount := 0, blindCount := min 15 (r.blindCount + 1), runCount := 0, mismatchMark := false
             quietWindows := 0 } := by
  simp only [judge, affirming, good, saturate, Bool.false_eq_true, if_false, if_true]

/-- A window without a good probe: the mismatch mark is set by a mismatched one, and stays otherwise. -/
theorem judge_of_silent (affirming : r.affirmingSeen = false) (good : r.goodSeen = false) : r.judge =
    { r with missCount := min 15 (r.missCount + 1), runCount := 0, quietWindows := min 15 (r.quietWindows + 1)
             mismatchMark := r.mismatchMark || r.mismatchSeen } := by
  cases mismatched : r.mismatchSeen with
  | true => simp [judge, affirming, good, mismatched, saturate]
  | false => simp [judge, affirming, good, mismatched, saturate]

/-- The judgment changes counts only. -/
theorem judge_keeps : r.judge.state = r.state ∧ r.judge.params = r.params ∧ r.judge.txSequence = r.txSequence := by
  unfold judge
  split
  · exact ⟨rfl, rfl, rfl⟩
  · split
    · exact ⟨rfl, rfl, rfl⟩
    · split <;> exact ⟨rfl, rfl, rfl⟩

/-- A failure changes neither the adopted fields nor the transmit sequence. -/
theorem failed_keeps (cause : DarkCause) (now : PartTime) :
    (r.failed cause now).params = r.params ∧ (r.failed cause now).txSequence = r.txSequence := by
  have declared : (r.declared cause now).params = r.params ∧ (r.declared cause now).txSequence = r.txSequence := by
    unfold UplinkRecord.declared
    dsimp only
    split <;> exact ⟨rfl, rfl⟩
  unfold failed
  split
  · exact declared
  · split
    · exact ⟨rfl, rfl⟩
    · split <;> exact ⟨rfl, rfl⟩

/-- The end of a window leaves the transmit sequence, which only an emission uses up (R6). -/
theorem windowEnded_txSequence (now : PartTime) : (r.windowEnded now).txSequence = r.txSequence := by
  obtain ⟨-, -, judged⟩ := r.judge_keeps
  unfold windowEnded
  dsimp only
  split
  · exact (failed_keeps _ _ _).2.trans judged
  · split
    · exact (failed_keeps _ _ _).2.trans judged
    · exact judged

/-! ### The failure that the counts amount to (R11) -/

/-- FAR_BLIND is the failure where the blind count alone has reached the miss limit. -/
theorem failure_eq_farBlind_iff :
    r.failure = some .farBlind ↔ r.missCount < r.params.missLimit ∧ r.params.missLimit ≤ r.blindCount := by
  unfold failure
  split
  · next missed => split <;> simp [missed]
  · next missed => split <;> simp_all

/-- A window never amounts to the failure of the light. -/
theorem failure_ne_lightLost : r.failure ≠ some .lightLost := by
  unfold failure
  split
  · split <;> simp
  · split <;> simp

/-- Of the failures of a window FAR_BLIND alone raises conduits (R12). -/
theorem failure_bind_raisedBy :
    r.failure.bind r.raisedBy = if r.failure = some .farBlind then r.raisedBy .farBlind else none := by
  cases failed : r.failure with
  | none => simp
  | some cause =>
    by_cases blind : cause = .farBlind
    · simp [blind]
    · have lit : cause ≠ .lightLost := fun lost => r.failure_ne_lightLost (lost ▸ failed)
      simp [raisedBy, blind, lit]

/-- The cause for which the judgment of a window raises the conduits of its uplink. -/
theorem judge_failure_bind_raisedBy : r.judge.failure.bind r.raisedBy =
    if r.judge.failure = some .farBlind then r.judge.raisedBy .farBlind else none := by
  have same : r.raisedBy = r.judge.raisedBy := by
    funext cause
    simp only [raisedBy, r.judge_keeps.1]
  rw [same, failure_bind_raisedBy]

/-- The changes of state to a record do not see its window. -/
theorem movesTo_nextWindow (r' : UplinkRecord) (now : PartTime) : r.movesTo (r'.nextWindow now) = r.movesTo r' := rfl

end UplinkRecord

/-! ### The port that is given a PROBE_OUT (R39, R41) -/

namespace Port

variable (p : Port) (probe : ProbeOut)

/-- What the transmitter takes is no lookup and leaves the lane until it is sent (R41). -/
theorem transmit_keeps : p.transmit.queue = p.queue ∧ p.transmit.lane = p.lane := by
  have taken : p.takeAnswerOrProbe.queue = p.queue ∧ p.takeAnswerOrProbe.lane = p.lane := by
    unfold takeAnswerOrProbe
    dsimp only
    split
    · exact ⟨rfl, rfl⟩
    · exact ⟨rfl, rfl⟩
    · exact ⟨rfl, rfl⟩
    · split <;> exact ⟨rfl, rfl⟩
  unfold transmit
  split
  · exact ⟨rfl, rfl⟩
  · split
    · exact ⟨rfl, rfl⟩
    · split
      · exact ⟨rfl, rfl⟩
      · split
        · exact ⟨rfl, rfl⟩
        · exact ⟨rfl, rfl⟩
        · exact taken

/-- A PROBE_OUT changes the probes that wait and what is sent, not the lookups and answers. -/
theorem probed_keeps : (p.probed probe).queue = p.queue ∧ (p.probed probe).lane = p.lane := by
  unfold probed
  split
  · exact transmit_keeps _
  · exact transmit_keeps _

/-- A DOWN link discards a PROBE_OUT. -/
theorem probed_of_down (down : p.link = .down) : p.probed probe = p.transmit := by
  simp only [probed, down, if_true]

/-- The first PROBE_OUT of its uplink joins the waiting ones. -/
theorem probed_of_first (ready : p.link = .ready) (first : ∀ q ∈ p.probes, q.uplink ≠ probe.uplink) :
    p.probed probe = transmit { p with probes := p.probes ++ [probe] } := by
  have alone : ¬∃ q ∈ p.probes, q.uplink = probe.uplink := fun ⟨q, mem, same⟩ => first q mem same
  simp only [probed, ready, alone, reduceCtorEq, if_false]

/-- A PROBE_OUT replaces the waiting one of its uplink. -/
theorem probed_of_waiting (ready : p.link = .ready) (waiting : ∃ q ∈ p.probes, q.uplink = probe.uplink) :
    p.probed probe = transmit { p with probes := p.probes.map fun q =>
      if q.uplink = probe.uplink then probe else q } := by
  simp only [probed, ready, waiting, reduceCtorEq, if_false, if_true]

/-- The port takes a PROBE_OUT, and then the transmitter a message. -/
theorem takeProbe_transmit : (p.takeProbe probe).transmit = p.probed probe := by
  cases link : p.link with
  | down => rw [probed_of_down _ _ link, takeProbe, link]
  | ready =>
    by_cases waiting : ∃ q ∈ p.probes, q.uplink = probe.uplink
    · rw [probed_of_waiting _ _ link waiting]
      simp only [takeProbe, link, placeProbe, List.any_eq_true, beq_iff_eq, waiting, if_true]
    · rw [probed_of_first _ _ link fun q mem same => waiting ⟨q, mem, same⟩]
      simp only [takeProbe, link, placeProbe, List.any_eq_true, beq_iff_eq, waiting, if_false]

end Port

namespace State

variable (s : State) (u : Fin 32)

/-- None is emitted in OFF (R5, R6). -/
theorem emitProbe_port : (s.emitProbe u).port = if s.control.runState = .off then s.port
    else s.port.probed { uplink := u, content := s.probeContent u } := by
  unfold emitProbe
  split
  · rfl
  · exact Port.takeProbe_transmit _ _

/-! ### What a failure makes of the Conduit Table (R12, R44) -/

theorem handMask_conduits (cause : DarkCause) : (s.handMask u cause).conduits =
    if cause.raises then s.conduits.raised u cause (s.uplink u).params.conduitMask s.now else s.conduits := by
  unfold handMask
  split
  · exact raiseMask_conduits _ _ _ _
  · rfl

theorem declareDark_conduits (cause : DarkCause) : (s.declareDark u cause).conduits =
    if cause.raises then s.conduits.raised u cause (s.uplink u).params.conduitMask s.now else s.conduits := by
  simp [declareDark, handMask_conduits]

/-- The failures that raise are LIGHT_LOST and FAR_BLIND. -/
theorem raises_iff (cause : DarkCause) : cause.raises = true ↔ cause = .lightLost ∨ cause = .farBlind := by
  cases cause <;> decide

/-- Only a declaration, from UP or SETTLING, raises. -/
theorem fail_conduits (cause : DarkCause) :
    (s.fail u cause).conduits = s.conduits.told (s.uplink u) u cause s.now := by
  unfold fail ConduitTable.told
  split
  case h_1 up => simp [declareDark_conduits, raises_iff, up]
  case h_2 settling => simp [declareDark_conduits, raises_iff, settling]
  case h_3 proving => simp [restartProof, proving]
  case h_4 drill => simp [recordFinding, drill]
  all_goals next out => simp [out]

/-- The Conduit Table once a window has been judged: a FAR_BLIND alone is told to it. -/
theorem judgeWindow_conduits : (s.judgeWindow u).conduits =
    if (s.uplink u).judge.failure = some .farBlind then s.conduits.told (s.uplink u).judge u .farBlind s.now
    else s.conduits := by
  unfold judgeWindow
  simp only [modifyUplink_uplink_self]
  split
  · next cause failed =>
    rw [fail_conduits, modifyUplink_uplink_self, modifyUplink_conduits, modifyUplink_now]
    by_cases blind : cause = .farBlind
    · simp [blind, failed]
    · have lit : cause ≠ .lightLost := fun lost => (s.uplink u).judge.failure_ne_lightLost (lost ▸ failed)
      simp [ConduitTable.told, failed, blind, lit]
  · next sound => simp [sound]

/-! ### The window that ends and the one that follows (R4, R9) -/

/-- The window of uplink `u` is judged and the next one starts: WINDOW_END up to the emission of its PROBE_OUT. -/
def turnWindow : State := (s.judgeWindow u).modifyUplink u fun r => r.nextWindow s.now

/-- WINDOW_END at its part time. -/
theorem exec_windowEnd (due : (s.uplink u).windowEnd = some s.now) :
    exec (.windowEnd u) s = .next ((s.turnWindow u).emitProbe u).settleArea := by
  simp only [exec, execWindowEnd, due, if_true, turnWindow]

@[simp] theorem turnWindow_settings : (s.turnWindow u).control.settings = s.control.settings := judgeWindow_settings s u
@[simp] theorem turnWindow_runState : (s.turnWindow u).control.runState = s.control.runState := judgeWindow_runState s u
@[simp] theorem turnWindow_lines : (s.turnWindow u).monitor.lines = s.monitor.lines := judgeWindow_lines s u
@[simp] theorem turnWindow_store : (s.turnWindow u).store = s.store := judgeWindow_store s u
@[simp] theorem turnWindow_port : (s.turnWindow u).port = s.port := judgeWindow_port s u
@[simp] theorem turnWindow_identity : (s.turnWindow u).area.identity = s.area.identity :=
  congrArg (fun layout => layout.2.1) (judgeWindow_layout s u)

@[simp] theorem turnWindow_conduits : (s.turnWindow u).conduits =
    if (s.uplink u).judge.failure = some .farBlind then s.conduits.told (s.uplink u).judge u .farBlind s.now
    else s.conduits := judgeWindow_conduits s u

/-- The record of the uplink: the miss count prevails over the blind count (R9, R11). -/
@[simp] theorem turnWindow_uplink_self : (s.turnWindow u).uplink u = (s.uplink u).windowEnded s.now := by
  obtain ⟨-, params, -⟩ := (s.uplink u).judge_keeps
  have next (f : UplinkRecord) (kept : f.params = (s.uplink u).params) : f.nextWindow s.now =
      { f with windowEnd := some (s.now + BitVec.ofNat 32 (100 * (s.uplink u).params.probeInterval))
               goodSeen := false, affirmingSeen := false, mismatchSeen := false } := by
    rw [← kept]
    rfl
  rw [turnWindow, modifyUplink_uplink_self, judgeWindow_uplink_self]
  unfold UplinkRecord.failure UplinkRecord.windowEnded
  rw [params]
  dsimp only
  by_cases missed : (s.uplink u).params.missLimit ≤ (s.uplink u).judge.missCount
  · simp only [missed, if_true]
    exact next _ ((UplinkRecord.failed_keeps _ _ _).1.trans params)
  · by_cases blind : (s.uplink u).params.missLimit ≤ (s.uplink u).judge.blindCount
    · simp only [missed, blind, if_true, if_false]
      exact next _ ((UplinkRecord.failed_keeps _ _ _).1.trans params)
    · simp only [missed, blind, if_false]
      exact next _ params

theorem turnWindow_uplink_other (v : Fin 32) (other : v ≠ u) : (s.turnWindow u).uplink v = s.uplink v :=
  (modifyUplink_uplink_other _ _ _ _ other).trans (judgeWindow_uplink_other _ _ _ other)

/-- The changes of state of a window that ends are those of its judgment. -/
theorem movesTo_windowEnded : (s.uplink u).movesTo ((s.uplink u).windowEnded s.now)
    = (s.uplink u).movesTo ((s.judgeWindow u).uplink u) := by
  rw [← turnWindow_uplink_self, turnWindow, modifyUplink_uplink_self, UplinkRecord.movesTo_nextWindow]

/-- What the turn of a window brings besides the record of its uplink (R10, R44). -/
theorem turnWindow_brought : s.Brought (s.turnWindow u) u ((s.uplink u).movesTo ((s.uplink u).windowEnded s.now))
    ((s.uplink u).judge.failure.bind (s.uplink u).raisedBy) [] := by
  rw [movesTo_windowEnded]
  exact (Brought.judgeWindow s u).settle rfl rfl rfl rfl rfl rfl rfl

/-- The records of the turn of a window, in their order (R17, R44). -/
theorem turnWindow_produced : s.Produced (s.turnWindow u)
    (s.inOrder u ((s.uplink u).movesTo ((s.uplink u).windowEnded s.now))
      ((s.uplink u).judge.failure.bind (s.uplink u).raisedBy)) := by
  rw [movesTo_windowEnded]
  exact (inOrder_judgeWindow s u).of_eq rfl rfl rfl rfl

theorem turnWindow_keepsOrders : s.KeepsOrders (s.turnWindow u) :=
  (KeepsOrders.judgeWindow s u).trans (.modifyUplink _ _ _)

/-- The content of the PROBE_OUT of a window end: the sequence number is the one before the window ended, the seen flag
is given by the record after it (R5, R18). -/
theorem turnWindow_probeContent : (s.turnWindow u).probeContent u =
    { identity := s.area.identity, uplink := BitVec.ofNat 8 u.val
      seen := decide (((s.uplink u).windowEnded s.now).state ≠ .quarantined
        ∧ ((s.uplink u).windowEnded s.now).quietWindows + 1 < ((s.uplink u).windowEnded s.now).params.missLimit)
      sequence := (s.uplink u).txSequence } := by
  simp only [probeContent, UplinkRecord.seenFlag, turnWindow_uplink_self, turnWindow_identity,
    UplinkRecord.windowEnded_txSequence, Bool.decide_and]

end State

/-! ### The obligation -/

/-- Settles O17: WINDOW_END is the turn of the window, then the emission of its PROBE_OUT, then the end of the event, and
each part of the statement is what one of the three makes of its part of the state. -/
theorem windowEndJudgesItsMarks : Obligations.WindowEndJudgesItsMarks := by
  unfold Obligations.WindowEndJudgesItsMarks
  refine ⟨fun u s due => ?_, fun r => ⟨r.judge_of_affirming, r.judge_of_good, r.judge_of_silent⟩⟩
  simp only [← UplinkRecord.failure_eq_farBlind_iff, ← UplinkRecord.judge_failure_bind_raisedBy]
  have brought := ((s.turnWindow_brought u).emitProbe u).settleArea
  have port : ((s.turnWindow u).emitProbe u).settleArea.port = if s.control.runState = .off then s.port
      else s.port.probed { uplink := u, content := (s.turnWindow u).probeContent u } := by
    simp [State.emitProbe_port]
  rw [State.turnWindow_probeContent] at port
  refine ⟨_, s.exec_windowEnd u due, ?uplink, ?conduits, ?others, ?lines, ?settings, ?store, ?queue, ?lane,
    brought.effects, ?records, brought.rechecks, ?orders, ?off, ?down, ?first, ?waiting⟩
  case uplink => simp
  case conduits => simp
  case others =>
    intro v other
    simp [State.emitProbe_uplink_other _ _ _ other, State.turnWindow_uplink_other _ _ _ other]
  case lines => simp
  case settings => simp
  case store => simp
  case queue =>
    rw [port]
    split
    exacts [rfl, (Port.probed_keeps _ _).1]
  case lane =>
    rw [port]
    split
    exacts [rfl, (Port.probed_keeps _ _).2]
  case records => exact (s.turnWindow_produced u).of_eq (by simp) (by simp) (by simp) (by simp)
  case orders => exact (s.turnWindow_keepsOrders u).trans ((State.KeepsOrders.of_area (by simp)).trans (.settleArea _))
  case off =>
    intro off
    rw [port, if_pos off]
  case down =>
    intro on down
    rw [port, if_neg on, Port.probed_of_down _ _ down]
  case first =>
    intro on ready first
    rw [port, if_neg on, Port.probed_of_first _ _ ready first]
  case waiting =>
    intro on ready waiting
    rw [port, if_neg on, Port.probed_of_waiting _ _ ready waiting]

end Sys2Proof.Machine
end

section
/-! PROOF. PARITY_FAULT and the writes of a bucket (O36): the one bucket each of them writes into the bucket memory, and
what is read back. -/

namespace Sys2Proof.Machine

namespace State

/-! ### Reading a bucket of a memory that was written once -/

/-- A bucket is read back from a memory that is the old one with that bucket written. -/
theorem bucket_of_memory_written {s t : State} {block offset : Nat} {bucket : Bucket}
    (canonical : Memory.wf s.store.memory)
    (written : t.store.memory = Memory.write s.store.memory (bucketIndex block offset) bucket) :
    t.bucket block offset = bucket := by
  unfold State.bucket
  rw [written]
  exact Memory.read_write_same canonical

/-! ### The write of each writer (R75, R83) -/

variable (s : State)

/-- PARITY_FAULT is one write: the bucket as it was, marked. -/
theorem exec_parityFault (block : Fin 2048) (offset : Fin 64) :
    exec (.parityFault block offset) s
      = .next (s.setBucket block offset { s.bucket block offset with faulted := true }) := rfl

/-- A write into a live run writes the bucket unmarked; the load counts and the SCRUB_FIX record do not touch the
bucket memory. -/
theorem writeLiveBucket_store_memory {g : Nat} {run : LiveRun} (live : (s.group g).live = some run) (b home current : Nat)
    (finder : Option FoundBy) :
    (s.writeLiveBucket g b home current finder).store.memory
      = Memory.write s.store.memory (bucketIndex (blockOf run.blocks b) (offsetOf b))
          { home, current, faulted := false } := by
  have liveRun : s.liveRun g = some run := live
  cases finder with
  | none => simp [writeLiveBucket, liveRun]
  | some found => simp [writeLiveBucket, liveRun]

/-- A block step writes the bucket as the staged fields settle it (R134). -/
theorem writeStagedBucket_store_memory {g : Nat} {r : Rebuild} (reserved : (s.group g).rebuild = some r)
    (position offset : Nat) :
    (s.writeStagedBucket g position offset).store.memory
      = Memory.write s.store.memory (bucketIndex (r.blocks.getD position 0) offset)
          (r.staged.stagedBucket s.isUp s.shadowed (64 * position + offset)) := by
  simp [writeStagedBucket, reserved]

/-- The scrubber's write in a free block gives the bucket its reset value (R89). -/
theorem grantScrub_store_memory_of_free {b : Burst} (writes : b.phase = .wantWrite)
    (free : s.owner s.store.scrubCursor = .free) :
    (s.grantScrub b).store.memory
      = Memory.write s.store.memory (bucketIndex s.store.scrubCursor b.offset) Bucket.reset := by
  simp [grantScrub, writes, free]

end State

/-! ### The obligation -/

/-- Settles O36: PARITY_FAULT and the three writers each write one bucket, which is read back as written; no writer
writes the mark. -/
theorem parityFaultMarksOneBucket : Obligations.ParityFaultMarksOneBucket := by
  unfold Obligations.ParityFaultMarksOneBucket
  refine ⟨?fault, ?live, ?staged, ?scrub⟩
  case fault =>
    intro block offset s canonical
    refine ⟨_, s.exec_parityFault block offset, rfl, ?_, fun i other => ?_⟩
    · exact State.bucket_of_memory_written canonical (s.setBucket_store_memory _ _ _)
    · rw [State.setBucket_store_memory]
      exact Memory.read_write_other other
  case live =>
    intro s g b home current finder run canonical live
    exact State.bucket_of_memory_written canonical (s.writeLiveBucket_store_memory live b home current finder)
  case staged =>
    intro s g position offset r canonical reserved
    rw [State.bucket_of_memory_written canonical (s.writeStagedBucket_store_memory reserved position offset)]
    rfl
  case scrub =>
    intro s b canonical writes free
    exact State.bucket_of_memory_written canonical (s.grantScrub_store_memory_of_free writes free)

end Sys2Proof.Machine
end

section
/-! PROOF. What every act within an event keeps: the invariants of `Safety.lean` (`Sound`), what only the host, the lines
and the header set (`Apart`), and the bucket memory (`Event`); first for the plain updates of State. -/

namespace Sys2Proof.Machine

/-- Setting a recheck flag does not make a group's record the default: it has a rebuild. -/
theorem GroupRecord.recheck_ne_reset {r : GroupRecord} (p : Fin 32 → Bool) (h : r ≠ GroupRecord.reset) :
    r.recheck p ≠ GroupRecord.reset := by
  unfold GroupRecord.recheck
  split
  · split
    · exact fun same => Option.some_ne_none _ (congrArg GroupRecord.rebuild same)
    · exact h
  · exact h

/-- A walk handed over takes the place of the uplink's earlier one, so that each uplink keeps at most one (R111). -/
theorem WalkEngine.handed_oneWalkEach (e : WalkEngine) (u : Fin 32) (cls : WalkClass) (now : PartTime)
    (h : ((e.urgent ++ e.restore).map (·.uplink)).Nodup) :
    (((e.handed u cls now).urgent ++ (e.handed u cls now).restore).map (·.uplink)).Nodup := by
  let others := (e.urgent ++ e.restore).filter fun w => decide (w.uplink ≠ u)
  obtain ⟨w, uplink, walks⟩ : ∃ w : Walk, w.uplink = u
      ∧ ((e.handed u cls now).urgent ++ (e.handed u cls now).restore).Perm (w :: others) := by
    have split (w : Walk) : ((e.urgent.filter (fun w => decide (w.uplink ≠ u)) ++ if cls = .urgent then [w] else [])
        ++ (e.restore.filter (fun w => decide (w.uplink ≠ u)) ++ if cls = .restore then [w] else [])).Perm
        (w :: others) := by
      cases cls with
      | urgent => simp [others]
      | restore => simp [others, ← List.append_assoc]
    unfold WalkEngine.handed
    cases found : (e.urgent ++ e.restore).find? fun w => w.uplink == u with
    | none => exact ⟨_, rfl, split _⟩
    | some w => exact ⟨{ w with cursor := none, conversions := _ }, by simpa using List.find?_some found, split _⟩
  rw [(walks.map _).nodup_iff, List.map_cons, List.nodup_cons, uplink]
  refine ⟨fun mem => ?_, h.sublist (List.filter_sublist.map _)⟩
  obtain ⟨v, kept, same⟩ := List.mem_map.mp mem
  exact absurd same (by simpa using (List.mem_filter.mp kept).2)

/-! ### The three relations -/

/-- What the host, the lines, the header and part time set, and no act of the device within an event. -/
structure Outside where
  pending       : List Instr
  now           : PartTime
  areaLo        : BitVec 32
  areaHi        : BitVec 32
  causeEn       : BitVec 32
  sweepPer      : Nat
  mode          : SweepMode
  hold          : Bool
  lines         : Vector Bool 32
  identity      : Identity
  groupCount    : Nat
  journalLength : Nat
  conduitHold   : Nat
  weight        : Nat
  scrubInterval : Nat
  scrubBurst    : Nat

/-- What the invariants speak of: the sparse tables, the port, the bounded queues and the agenda. -/
structure Inside where
  memory    : List (Nat × Bucket)
  owners    : List (Nat × Owner)
  groups    : List (Nat × GroupRecord)
  groupRows : List (Nat × RowMemory)
  port      : Port
  holding   : List Record
  fixQueue  : List FixItem
  urgent    : List Walk
  restore   : List Walk

namespace State

/-- The part of State that is set from outside. -/
def outside (s : State) : Outside where
  pending := s.pending
  now := s.now
  areaLo := s.control.areaLo
  areaHi := s.control.areaHi
  causeEn := s.control.causeEn
  sweepPer := s.control.sweepPer
  mode := s.control.mode
  hold := s.control.hold
  lines := s.monitor.lines
  identity := s.area.identity
  groupCount := s.area.groupCount
  journalLength := s.area.journalLength
  conduitHold := s.conduits.hold
  weight := s.engine.weight
  scrubInterval := s.store.scrubInterval
  scrubBurst := s.store.scrubBurst

/-- The part of State that the invariants speak of. -/
def inside (s : State) : Inside where
  memory := s.store.memory
  owners := s.store.owners
  groups := s.groups
  groupRows := s.area.groupRows
  port := s.port
  holding := s.area.holding
  fixQueue := s.store.fixQueue
  urgent := s.engine.urgent
  restore := s.engine.restore

/-- The invariants of `s` hold of `t`. -/
structure Sound (s t : State) : Prop where
  canonical : s.Canonical → t.Canonical
  capacity : s.WithinCapacity → t.WithinCapacity
  link : s.LinkSound → t.LinkSound
  agenda : s.OneWalkEach → t.OneWalkEach

/-- The invariants are kept, and so is what is set from outside. -/
structure Apart (s t : State) : Prop extends Sound s t where
  outside : t.outside = s.outside

/-- The invariants are kept, and so are what is set from outside and the bucket memory. -/
structure Event (s t : State) : Prop extends Apart s t where
  memory : t.store.memory = s.store.memory

variable {s t v : State}

theorem Sound.trans (a : s.Sound t) (b : t.Sound v) : s.Sound v :=
  ⟨b.canonical ∘ a.canonical, b.capacity ∘ a.capacity, b.link ∘ a.link, b.agenda ∘ a.agenda⟩

theorem Apart.trans (a : s.Apart t) (b : t.Apart v) : s.Apart v := ⟨a.toSound.trans b.toSound, b.outside.trans a.outside⟩

theorem Event.trans (a : s.Event t) (b : t.Event v) : s.Event v := ⟨a.toApart.trans b.toApart, b.memory.trans a.memory⟩

theorem Event.refl (s : State) : s.Event s := ⟨⟨⟨id, id, id, id⟩, rfl⟩, rfl⟩

theorem canonical_of_eq (memory : t.store.memory = s.store.memory) (owners : t.store.owners = s.store.owners)
    (groups : t.groups = s.groups) (rows : t.area.groupRows = s.area.groupRows) : s.Canonical → t.Canonical := by
  unfold Canonical
  rw [memory, owners, groups, rows]
  exact id

theorem withinCapacity_of_eq (port : t.port = s.port) (holding : t.area.holding = s.area.holding)
    (fixes : t.store.fixQueue = s.store.fixQueue) : s.WithinCapacity → t.WithinCapacity := by
  unfold WithinCapacity
  rw [port, holding, fixes]
  exact id

theorem linkSound_of_eq (port : t.port = s.port) : s.LinkSound → t.LinkSound := by
  unfold LinkSound
  rw [port]
  exact id

theorem oneWalkEach_of_eq (urgent : t.engine.urgent = s.engine.urgent) (restore : t.engine.restore = s.engine.restore) :
    s.OneWalkEach → t.OneWalkEach := by
  unfold OneWalkEach
  rw [urgent, restore]
  exact id

/-- An update that touches no table, queue, walk or port keeps the invariants. -/
theorem Sound.quiet (same : t.inside = s.inside) : s.Sound t := by
  simp only [inside, Inside.mk.injEq] at same
  obtain ⟨memory, owners, groups, rows, port, holding, fixes, urgent, restore⟩ := same
  exact ⟨canonical_of_eq memory owners groups rows, withinCapacity_of_eq port holding fixes, linkSound_of_eq port,
    oneWalkEach_of_eq urgent restore⟩

/-- An update of other parts of State is part of an event. -/
theorem Event.quiet (same : t.inside = s.inside) (outside : t.outside = s.outside) : s.Event t :=
  ⟨⟨.quiet same, outside⟩, congrArg Inside.memory same⟩

/-- A table but for the bucket memory that is written in its canonical form. -/
theorem Event.table (canonical : s.Canonical → t.Canonical)
    (same : t.inside =
      { s.inside with owners := t.store.owners, groups := t.groups, groupRows := t.area.groupRows })
    (outside : t.outside = s.outside) : s.Event t := by
  simp only [inside, Inside.mk.injEq, true_and] at same
  obtain ⟨memory, port, holding, fixes, urgent, restore⟩ := same
  exact ⟨⟨⟨canonical, withinCapacity_of_eq port holding fixes, linkSound_of_eq port,
    oneWalkEach_of_eq urgent restore⟩, outside⟩, memory⟩

/-- A change of the holding queue that keeps it within its capacity. -/
theorem Event.records (holding : s.area.holding.length ≤ 16 → t.area.holding.length ≤ 16)
    (same : t.inside = { s.inside with holding := t.area.holding }) (outside : t.outside = s.outside) : s.Event t := by
  simp only [inside, Inside.mk.injEq, true_and] at same
  obtain ⟨memory, owners, groups, rows, port, fixes, urgent, restore⟩ := same
  refine ⟨⟨⟨canonical_of_eq memory owners groups rows, ?_, linkSound_of_eq port, oneWalkEach_of_eq urgent restore⟩,
    outside⟩, memory⟩
  rintro ⟨queue, lane, records, items⟩
  refine ⟨?_, ?_, holding records, ?_⟩
  · rwa [port]
  · rwa [port]
  · rwa [fixes]

/-- A change of the walks that wait which keeps at most one for each uplink. -/
theorem Event.walks (agenda : s.OneWalkEach → t.OneWalkEach)
    (same : t.inside = { s.inside with urgent := t.engine.urgent, restore := t.engine.restore })
    (outside : t.outside = s.outside) : s.Event t := by
  simp only [inside, Inside.mk.injEq, and_true] at same
  obtain ⟨memory, owners, groups, rows, port, holding, fixes⟩ := same
  exact ⟨⟨⟨canonical_of_eq memory owners groups rows, withinCapacity_of_eq port holding fixes, linkSound_of_eq port,
    agenda⟩, outside⟩, memory⟩

/-! ### Tables -/

variable (s)

theorem Event.setGroup (g : Nat) (r : GroupRecord) : s.Event (s.setGroup g r) :=
  .table (fun ⟨memory, owners, groups, rows⟩ => ⟨memory, owners, Sparse.set_wf groups, rows⟩) rfl rfl

theorem Event.setOwner (k : Nat) (o : Owner) : s.Event (s.setOwner k o) :=
  .table (fun ⟨memory, owners, groups, rows⟩ => ⟨memory, Sparse.set_wf owners, groups, rows⟩) rfl rfl

theorem Event.setRowMemory (row : RowId) (m : RowMemory) : s.Event (s.setRowMemory row m) := by
  cases row with
  | uplink u => exact .quiet rfl rfl
  | group g => exact .table (fun ⟨memory, owners, groups, rows⟩ => ⟨memory, owners, groups, Sparse.set_wf rows⟩) rfl rfl

/-- A bucket written keeps the invariants; it is the bucket memory that changes. -/
theorem Apart.setBucket (k o : Nat) (b : Bucket) : s.Apart (s.setBucket k o b) where
  canonical := fun ⟨memory, owners, groups, rows⟩ => ⟨Memory.write_wf memory, owners, groups, rows⟩
  capacity := id
  link := id
  agenda := id
  outside := rfl

theorem Event.recheckUplinks (p : Fin 32 → Bool) : s.Event (s.recheckUplinks p) :=
  .table (fun ⟨memory, owners, groups, rows⟩ =>
    ⟨memory, owners, Sparse.map_wf groups fun e he => GroupRecord.recheck_ne_reset p (groups.2 e he), rows⟩) rfl rfl

theorem Event.setOwners (entry : Nat → Owner) (l : List Nat) (n : Nat) : s.Event (s.setOwners entry l n) := by
  induction l generalizing s n with
  | nil => exact .refl s
  | cons k l ih => exact (Event.setOwner s k _).trans (ih _ _)

theorem Event.freeBlocks (blocks : List Nat) : s.Event (s.freeBlocks blocks) := .setOwners s _ _ _

/-! ### Records and causes -/

theorem Event.setCause (c : Cause) : s.Event (s.setCause c) := .quiet rfl rfl

/-- A record joins the holding queue only where there is room (R159). -/
theorem Event.produce (e : Entry) : s.Event (s.produce e) := by
  by_cases room : s.area.holding.length < 16
  · refine .records (fun _ => ?_) ?_ ?_
    · rw [produce_holding_of_lt s e room]
      simp only [List.length_append, List.length_singleton]
      omega
    · simp [State.produce, Config.holdingCapacity, room, State.inside]
    · simp [State.produce, Config.holdingCapacity, room, State.outside]
  · unfold State.produce
    rw [if_neg (by simpa [Config.holdingCapacity] using room)]
    dsimp only
    split
    · refine .trans ?_ (.setCause _ _)
      exact .quiet rfl rfl
    · exact .quiet rfl rfl

/-! ### Walks -/

theorem Event.handWalk (u : Fin 32) (cls : WalkClass) : s.Event (s.handWalk u cls) := by
  refine .walks (fun one => ?_) (by simp [State.inside]) ?_
  · unfold OneWalkEach
    rw [handWalk_engine]
    exact WalkEngine.handed_oneWalkEach _ _ _ _ one
  · unfold State.handWalk
    cases cls <;> split <;> rfl

/-- A change of the walk of one uplink keeps whose walk it is. -/
theorem Event.modifyWalk (u : Fin 32) (f : Walk → Walk) (kept : ∀ w, (f w).uplink = w.uplink) :
    s.Event (s.modifyWalk u f) := by
  have uplinks (q : List Walk) : (q.map fun w => if w.uplink == u then f w else w).map (·.uplink) = q.map (·.uplink) := by
    rw [List.map_map]
    refine List.map_congr_left fun w _ => ?_
    simp only [Function.comp_apply]
    split
    · exact kept w
    · rfl
  refine .walks (fun one => ?_) rfl rfl
  unfold OneWalkEach at one ⊢
  rw [List.map_append] at one ⊢
  simp only [State.modifyWalk, uplinks]
  exact one


end State
end Sys2Proof.Machine
end

section
/-! PROOF. That each operation on the tables, the store, the conduits and the uplinks is part of an event (`Event`). -/

namespace Sys2Proof.Machine.State

variable (s : State)

/-! ### Area accesses and completions -/

theorem Event.request (a : AreaAccess) : s.Event (s.request a) := .quiet rfl rfl

theorem Event.endFlight : s.Event s.endFlight := .quiet rfl rfl

theorem Event.wakeWriter : s.Event s.wakeWriter := by
  unfold State.wakeWriter
  split
  · exact .quiet rfl rfl
  · exact .refl s

theorem Event.grantArea : s.Event s.grantArea := by
  unfold State.grantArea
  split
  · exact .quiet rfl rfl
  · exact .refl s

theorem Event.settleArea : s.Event s.settleArea :=
  (Event.wakeWriter s).trans (Event.trans (t := s.wakeWriter.queueRequests) (.quiet rfl rfl) (.grantArea _))

theorem Event.dropHold (k : Fin 16) : s.Event (s.dropHold k) := .quiet rfl rfl

theorem Event.reportEnded (slot : Option (Fin 16)) (kind : Byte) (failed : Bool) (reason : OrderReason)
    (results : Results) : s.Event (s.reportEnded slot kind failed reason results) := .produce s _

theorem Event.beginCompletion (c : Completion) : s.Event (s.beginCompletion c) := .quiet rfl rfl

theorem Event.completeOrder (slot : Option (Fin 16)) (kind : OrderKind) (failed : Bool) (reason : OrderReason)
    (results : Results) : s.Event (s.completeOrder slot kind failed reason results) := by
  unfold State.completeOrder
  split
  · split
    · exact .beginCompletion _ _
    · exact (Event.dropHold s _).trans (.reportEnded _ _ _ _ _ _)
  · exact .reportEnded _ _ _ _ _ _

theorem Event.completeUntaken (k : Fin 16) (kind : Byte) (reason : OrderReason) :
    s.Event (s.completeUntaken k kind reason) := by
  unfold State.completeUntaken
  split
  · exact .beginCompletion _ _
  · exact .reportEnded _ _ _ _ _ _

/-! ### The Group Table -/

theorem Event.markRebuild (g : Nat) : s.Event (s.markRebuild g) := by
  unfold State.markRebuild
  split
  · exact .setGroup _ _ _
  · exact .refl s

theorem Event.compareStrandedness (g : Nat) : s.Event (s.compareStrandedness g) := by
  unfold State.compareStrandedness
  dsimp only
  split
  · exact .refl s
  · split
    · exact ((Event.setGroup s _ _).trans (.produce _ _)).trans (.setCause _ _)
    · exact (Event.setGroup s _ _).trans (.produce _ _)
    · exact .refl s

theorem Event.takePin (o : OrderInHand) : s.Event (s.takePin o) := by
  unfold State.takePin
  dsimp only
  split
  · exact .completeOrder _ _ _ _ _ _
  · split
    · exact .completeOrder _ _ _ _ _ _
    · split
      · exact .completeOrder _ _ _ _ _ _
      · exact (Event.setGroup s _ _).trans (.completeOrder _ _ _ _ _ _)

theorem Event.takeUnpin (o : OrderInHand) : s.Event (s.takeUnpin o) := by
  unfold State.takeUnpin
  dsimp only
  split
  · exact .completeOrder _ _ _ _ _ _
  · split
    · exact .completeOrder _ _ _ _ _ _
    · exact (Event.setGroup s _ _).trans (.completeOrder _ _ _ _ _ _)

theorem Event.checkPin (g : Nat) (old new : GroupFields) : s.Event (s.checkPin g old new) := by
  unfold State.checkPin
  split
  · exact .refl s
  · split
    · exact .setGroup _ _ _
    · split
      · exact .refl s
      · exact (Event.setGroup s _ _).trans (.produce _ _)

/-! ### The Bucket Store -/

theorem Event.countRun (fields : GroupFields) (blocks : List Nat) : s.Event (s.countRun fields blocks) := .quiet rfl rfl

theorem Event.uncountRun (run : LiveRun) : s.Event (s.uncountRun run) := .quiet rfl rfl

theorem Event.moveLoad (fields : GroupFields) (old new : Nat) : s.Event (s.moveLoad fields old new) := by
  unfold State.moveLoad
  split
  · exact .refl s
  · exact .quiet rfl rfl

theorem Apart.writeLiveBucket (g b home current : Nat) (finder : Option FoundBy) :
    s.Apart (s.writeLiveBucket g b home current finder) := by
  unfold State.writeLiveBucket
  split
  · exact (Event.refl s).toApart
  · have written := fun fields block bucket old => (Apart.setBucket s block (offsetOf b) bucket).trans
      (Event.moveLoad _ fields old current).toApart
    split
    · exact written _ _ _ _
    · exact (written _ _ _ _).trans (Event.produce _ _).toApart

/-- A fix joins its queue only where there is room (R85). -/
theorem Event.offerFix (item : FixItem) : s.Event (s.offerFix item) := by
  unfold State.offerFix
  split
  · exact .refl s
  · split
    · next room =>
      refine ⟨⟨⟨id, fun ⟨queue, lane, records, _⟩ => ⟨queue, lane, records, ?_⟩, id, id⟩, rfl⟩, rfl⟩
      simp only [List.length_append, List.length_singleton]
      exact room
    · exact .refl s

theorem Event.endAccess : s.Event s.endAccess := .quiet rfl rfl

theorem Event.discardAccess (p : Requester → Bool) : s.Event (s.discardAccess p) := .quiet rfl rfl

theorem Event.nextScrub (b : Burst) : s.Event (s.nextScrub b) := by
  unfold State.nextScrub
  split
  · exact .quiet rfl rfl
  · dsimp only
    split <;> exact .quiet rfl rfl

theorem Event.scrubFault (b : Burst) (owner : Owner) : s.Event (s.scrubFault b owner) := by
  unfold State.scrubFault
  split
  · exact (Event.offerFix s _).trans (.nextScrub _ _)
  · dsimp only
    split
    · exact (Event.markRebuild s _).trans (.nextScrub _ _)
    · exact .nextScrub _ _
  · exact .quiet rfl rfl

theorem Event.setSnapshot (r : Option SnapshotRecord) : s.Event (s.setSnapshot r) := .quiet rfl rfl

theorem Event.takeSnapshot (o : OrderInHand) : s.Event (s.takeSnapshot o) := by
  unfold State.takeSnapshot
  dsimp only
  split
  · exact .completeOrder _ _ _ _ _ _
  split
  · exact .completeOrder _ _ _ _ _ _
  split
  · exact .completeOrder _ _ _ _ _ _
  split
  · exact .completeOrder _ _ _ _ _ _
  split
  · exact .completeOrder _ _ _ _ _ _
  · exact .setSnapshot _ _

theorem Event.replaceSnapshot (g : Nat) : s.Event (s.replaceSnapshot g) := by
  unfold State.replaceSnapshot
  split
  · exact .refl s
  · split
    · exact ((Event.completeOrder s _ _ _ _ _).trans (.setSnapshot _ _)).trans (.discardAccess _ _)
    · exact .refl s

theorem Event.dropAccesses (p : AreaAccess → Bool) : s.Event (s.dropAccesses p) := .quiet rfl rfl

theorem Event.abandonSnapshot : s.Event s.abandonSnapshot := by
  unfold State.abandonSnapshot
  split
  · exact .refl s
  · exact (((((Event.setSnapshot s _).trans (.discardAccess _ _)).trans (.dropAccesses _ _)).trans
      (.dropHold _ _)).trans (.reportEnded _ _ _ _ _ _))

/-! ### The Conduit Table -/

theorem Event.setAlarm (c : Fin 64) (a : Option Alarm) : s.Event (s.setAlarm c a) := .quiet rfl rfl

theorem Event.handConduit (c : Fin 64) : s.Event (s.handConduit c) := .recheckUplinks _ _

theorem Event.raiseConduit (u : Fin 32) (cause : DarkCause) (c : Fin 64) : s.Event (s.raiseConduit u cause c) := by
  unfold State.raiseConduit
  dsimp only
  split
  · exact (((Event.setAlarm s _ _).trans (.produce _ _)).trans (.handConduit _ _)).trans (.setCause _ _)
  · exact .setAlarm _ _ _

theorem Event.raiseMask (u : Fin 32) (cause : DarkCause) (mask : BitVec 64) : s.Event (s.raiseMask u cause mask) := by
  unfold State.raiseMask
  generalize (List.finRange 64).filter _ = cs
  induction cs generalizing s with
  | nil => exact .refl s
  | cons c cs ih => exact (Event.raiseConduit s u cause c).trans (ih _)

theorem Event.clearConduit (c : Fin 64) (a : Alarm) (reason : ClearReason) : s.Event (s.clearConduit c a reason) :=
  ((Event.setAlarm s _ _).trans (.produce _ _)).trans (.handConduit _ _)

theorem Event.takeConduitClear (o : OrderInHand) : s.Event (s.takeConduitClear o) := by
  unfold State.takeConduitClear
  split
  · dsimp only
    split
    · exact .completeOrder _ _ _ _ _ _
    · exact (Event.clearConduit s _ _ _).trans (.completeOrder _ _ _ _ _ _)
  · exact .completeOrder _ _ _ _ _ _

/-! ### The Uplink Monitor -/

theorem Event.setUplink (u : Fin 32) (r : UplinkRecord) : s.Event (s.setUplink u r) := .quiet rfl rfl

theorem Event.modifyUplink (u : Fin 32) (f : UplinkRecord → UplinkRecord) : s.Event (s.modifyUplink u f) := .quiet rfl rfl

theorem Event.handChange (u : Fin 32) (previous new : UplinkState) : s.Event (s.handChange u previous new) := by
  unfold State.handChange
  split
  · exact (Event.handWalk s _ _).trans (.setCause _ _)
  · split
    · exact .handWalk _ _ _
    · exact .refl s

theorem Event.changeState (u : Fin 32) (new : UplinkState) (cause : Option DarkCause) :
    s.Event (s.changeState u new cause) :=
  (((Event.modifyUplink s _ _).trans (.produce _ _)).trans (.recheckUplinks _ _)).trans (.handChange _ _ _ _)

theorem Event.ageFlaps (u : Fin 32) : s.Event (s.ageFlaps u) := .modifyUplink _ _ _

theorem Event.recordFlap (u : Fin 32) : s.Event (s.recordFlap u) := by
  unfold State.recordFlap
  dsimp only
  split
  · exact ((Event.modifyUplink s _ _).trans (.modifyUplink _ _ _)).trans (.changeState _ _ _ _)
  · exact .modifyUplink _ _ _

theorem Event.handMask (u : Fin 32) (cause : DarkCause) : s.Event (s.handMask u cause) := by
  unfold State.handMask
  split
  · exact .raiseMask _ _ _ _
  · exact .refl s

theorem Event.declareDark (u : Fin 32) (cause : DarkCause) : s.Event (s.declareDark u cause) :=
  (((Event.modifyUplink s _ _).trans (.changeState _ _ _ _)).trans (.handMask _ _ _)).trans (.recordFlap _ _)

theorem Event.checkSettle (u : Fin 32) : s.Event (s.checkSettle u) := by
  unfold State.checkSettle
  dsimp only
  split
  · exact (Event.modifyUplink s _ _).trans (.changeState _ _ _ _)
  · exact .refl s

theorem Event.enterSettling (u : Fin 32) : s.Event (s.enterSettling u) :=
  ((Event.modifyUplink s _ _).trans (.changeState _ _ _ _)).trans (.checkSettle _ _)

theorem Event.checkProof (u : Fin 32) : s.Event (s.checkProof u) := by
  unfold State.checkProof
  dsimp only
  split
  · exact .changeState _ _ _ _
  · exact .refl s

theorem Event.fail (u : Fin 32) (cause : DarkCause) : s.Event (s.fail u cause) := by
  unfold State.fail
  split
  · exact .declareDark _ _ _
  · exact .declareDark _ _ _
  · exact .modifyUplink _ _ _
  · exact .modifyUplink _ _ _
  all_goals exact .refl s

theorem Event.changeLight (u : Fin 32) (light : Light) : s.Event (s.changeLight u light) := by
  unfold State.changeLight
  dsimp only
  split
  · exact (Event.modifyUplink s _ _).trans (.fail _ _ _)
  · split
    · exact (Event.modifyUplink s _ _).trans (.checkProof _ _)
    · exact .modifyUplink _ _ _

theorem Event.judgeWindow (u : Fin 32) : s.Event (s.judgeWindow u) := by
  unfold State.judgeWindow
  dsimp only
  split
  · exact (Event.modifyUplink s _ _).trans (.fail _ _ _)
  · exact .modifyUplink _ _ _

theorem Event.deliverAffirming (u : Fin 32) : s.Event (s.deliverAffirming u) := by
  unfold State.deliverAffirming
  split
  · split
    · exact .enterSettling _ _
    · exact .refl s
  · exact .checkSettle _ _
  · exact .checkProof _ _
  all_goals exact .refl s

theorem Event.receiveProbe (u : Fin 32) (p : ProbeContent) : s.Event (s.receiveProbe u p) := by
  unfold State.receiveProbe
  dsimp only
  split
  · exact .refl s
  · split
    · exact .setUplink _ _ _
    · exact .setUplink _ _ _
    · exact (Event.setUplink s _ _).trans (.deliverAffirming _ _)
    · exact .refl s

theorem Event.arriveProbe (n : Byte) (p : ProbeContent) : s.Event (s.arriveProbe n p) := by
  unfold State.arriveProbe
  split
  · exact .refl s
  · split
    · exact (Event.receiveProbe s _ _).trans (.settleArea _)
    · exact .refl s

theorem Event.judgeDrill (u : Fin 32) (d : DrillRecord) : s.Event (s.judgeDrill u d) := by
  unfold State.judgeDrill
  split
  · exact .changeState _ _ _ _
  · dsimp only
    split
    · exact (Event.changeState s _ _ _).trans (.handMask _ _ _)
    · exact .changeState _ _ _ _

theorem Event.endDrill (u : Fin 32) (d : DrillRecord) (failed : Bool) (reason : OrderReason) :
    s.Event (s.endDrill u d failed reason) := by
  unfold State.endDrill
  exact ((Event.judgeDrill s _ _).trans (.completeOrder _ _ _ _ _ _)).trans (.modifyUplink _ _ _)

theorem Event.takeDrillStart (o : OrderInHand) : s.Event (s.takeDrillStart o) := by
  unfold State.takeDrillStart
  dsimp only
  split
  · exact .completeOrder _ _ _ _ _ _
  split
  · exact .completeOrder _ _ _ _ _ _
  split
  · exact .completeOrder _ _ _ _ _ _
  · exact (Event.modifyUplink s _ _).trans (.changeState _ _ _ _)

theorem Event.takeDrillEnd (o : OrderInHand) : s.Event (s.takeDrillEnd o) := by
  unfold State.takeDrillEnd
  dsimp only
  split
  · exact .completeOrder _ _ _ _ _ _
  · split
    · exact (Event.endDrill s _ _ _ _).trans (.completeOrder _ _ _ _ _ _)
    · exact .completeOrder _ _ _ _ _ _

theorem Event.takeRelease (o : OrderInHand) : s.Event (s.takeRelease o) := by
  unfold State.takeRelease
  dsimp only
  split
  · exact .completeOrder _ _ _ _ _ _
  split
  · exact .completeOrder _ _ _ _ _ _
  · exact ((Event.modifyUplink s _ _).trans (.changeState _ _ _ _)).trans (.completeOrder _ _ _ _ _ _)


end Sys2Proof.Machine.State
end

section
/-! PROOF. That each operation on the port is part of an event: the queue, the lane and the link (R30, R33, R35, R36). -/

namespace Sys2Proof.Machine

namespace Port

/-- The queue and the lane are within their capacities, a place in the lane kept for a resolution (R35, R36). -/
structure Fits (p : Port) : Prop where
  queue : p.queue.length ≤ Config.queueCapacity
  lane : p.lane.length + (if p.resolution.isSome then 1 else 0) ≤ Config.laneCapacity

/-- Out of lock the link is DOWN, nothing is owed and nothing is being sent (R30, R33). -/
def Silent (p : Port) : Prop := p.lock = .outOfLock → p.link = .down ∧ p.answering = none ∧ p.sending = none

variable {p : Port}

/-- The transmitter does not touch the lock or the resolution in progress. -/
theorem transmit_lock_resolution (p : Port) : p.transmit.lock = p.lock ∧ p.transmit.resolution = p.resolution := by
  have taken : p.takeAnswerOrProbe.lock = p.lock ∧ p.takeAnswerOrProbe.resolution = p.resolution := by
    unfold takeAnswerOrProbe
    dsimp only
    split
    · exact ⟨rfl, rfl⟩
    · exact ⟨rfl, rfl⟩
    · exact ⟨rfl, rfl⟩
    · split <;> exact ⟨rfl, rfl⟩
  unfold transmit
  split
  · exact ⟨rfl, rfl⟩
  · split
    · exact ⟨rfl, rfl⟩
    · split
      · exact ⟨rfl, rfl⟩
      · split
        · exact ⟨rfl, rfl⟩
        · exact ⟨rfl, rfl⟩
        · exact taken

/-- On a DOWN link without an answering HELLO the transmitter takes nothing (R41). -/
theorem transmit_of_down (down : p.link = .down) (owed : p.answering = none) : p.transmit = p := by
  unfold transmit
  rw [owed, down]
  split
  · rfl
  · rfl

theorem Fits.transmit (h : p.Fits) : p.transmit.Fits := by
  obtain ⟨queue, lane⟩ := h
  exact ⟨by rwa [p.transmit_keeps.1], by rwa [p.transmit_keeps.2, p.transmit_lock_resolution.2]⟩

theorem Silent.transmit (h : p.Silent) : p.transmit.Silent := by
  intro out
  rw [p.transmit_lock_resolution.1] at out
  obtain ⟨down, owed, sending⟩ := h out
  rw [transmit_of_down down owed]
  exact ⟨down, owed, sending⟩

/-- In lock nothing is asked of the link. -/
theorem silent_of_inLock (h : p.lock = .inLock) : p.Silent := fun out => by simp [h] at out

/-- A READY link is in lock. -/
theorem Silent.inLock_of_ready (h : p.Silent) (ready : p.link = .ready) : p.lock = .inLock := by
  cases lock : p.lock with
  | inLock => rfl
  | outOfLock => simp [(h lock).1] at ready

/-- What is sent is sent in lock. -/
theorem Silent.inLock_of_sending (h : p.Silent) (sends : p.sending ≠ none) : p.lock = .inLock := by
  cases lock : p.lock with
  | inLock => rfl
  | outOfLock => exact absurd (h lock).2.2 sends

/-- A change of the lookups and answers alone does not touch the link. -/
theorem Silent.of_eq {q : Port} (h : p.Silent) (lock : q.lock = p.lock) (link : q.link = p.link)
    (answering : q.answering = p.answering) (sending : q.sending = p.sending) : q.Silent := by
  unfold Silent
  rw [lock, link, answering, sending]
  exact h

theorem takeProbe_fits (h : p.Fits) (probe : ProbeOut) : (p.takeProbe probe).Fits := by
  unfold takeProbe
  split <;> exact ⟨h.queue, h.lane⟩

theorem takeProbe_silent (h : p.Silent) (probe : ProbeOut) : (p.takeProbe probe).Silent := by
  unfold takeProbe
  split <;> exact h

/-- A lookup joins a queue that has room (R35). -/
theorem join_fits (h : p.Fits) (l : Lookup) (room : p.queue.length < Config.queueCapacity) : (p.join l).Fits := by
  obtain ⟨-, lane⟩ := h
  have longer : (p.queue ++ [l]).length ≤ Config.queueCapacity := by simpa using room
  unfold join
  split
  · exact ⟨longer, lane⟩
  · exact ⟨longer, lane⟩

/-- A REFUSED answer leaves the place of a resolution in progress free (R35). -/
theorem refuse_fits (h : p.Fits) (l : Lookup) : (p.refuse l).Fits := by
  obtain ⟨queue, lane⟩ := h
  unfold refuse
  split
  · next room =>
    refine ⟨queue, ?_⟩
    unfold refusedRoom Config.laneCapacity at *
    simp only [List.length_append, List.length_singleton]
    split at room
    · next taken => simp only [taken, if_true]; omega
    · next free => simp only [free]; simpa using room
  · exact ⟨queue, lane⟩

/-- The answered lookup leaves the queue and its answer takes the place kept for it (R36). -/
theorem answer_fits (h : p.Fits) (a : Answer) (room : p.resolution.isSome = true ∨ p.lane.length < Config.laneCapacity) :
    Fits { p.leave with resolution := none, lane := p.leave.lane ++ [a] } := by
  obtain ⟨queue, lane⟩ := h
  have left : p.leave.queue = p.queue.tail ∧ p.leave.lane = p.lane := by
    unfold leave
    dsimp only
    split <;> exact ⟨rfl, rfl⟩
  have shorter : p.lane.length + 1 ≤ Config.laneCapacity := by
    rcases room with taken | room
    · simpa [taken] using lane
    · exact room
  refine ⟨?_, ?_⟩
  · rw [left.1, List.length_tail]
    omega
  · simpa [left.2] using shorter

theorem leave_silent (h : p.Silent) : p.leave.Silent := by
  unfold leave
  dsimp only
  split <;> exact h

/-- The message that has been sent leaves its queue (R41). -/
theorem sent_fits (h : p.Fits) : p.sent.Fits := by
  obtain ⟨queue, lane⟩ := h
  unfold sent
  split
  · exact ⟨queue, lane⟩
  · split <;> exact ⟨queue, lane⟩
  · exact ⟨queue, lane⟩
  · exact ⟨queue, lane⟩
  · refine ⟨queue, ?_⟩
    simp only [List.length_tail]
    omega
  · exact ⟨queue, lane⟩

theorem sent_lock : p.sent.lock = p.lock := by
  unfold sent
  split
  · rfl
  · split <;> rfl
  all_goals rfl

end Port

namespace State

variable (s : State)

/-- A port that keeps its queues within their capacities and is silent out of lock. -/
theorem Event.port (q : Port) (fits : s.port.Fits → q.Fits) (silent : s.port.Silent → q.Silent) :
    s.Event { s with port := q } where
  canonical := id
  capacity := fun ⟨queue, lane, records, items⟩ =>
    ⟨(fits ⟨queue, lane⟩).queue, (fits ⟨queue, lane⟩).lane, records, items⟩
  link := silent
  agenda := id
  outside := rfl
  memory := rfl

theorem Event.transmit : s.Event s.transmit := .port s _ Port.Fits.transmit Port.Silent.transmit

theorem Event.emitProbe (u : Fin 32) : s.Event (s.emitProbe u) := by
  unfold State.emitProbe
  split
  · exact .refl s
  · exact ((Event.port s _ (Port.takeProbe_fits · _) (Port.takeProbe_silent · _)).trans (.modifyUplink _ _ _)).trans
      (.transmit _)

theorem Event.answer (a : Answer) (room : s.port.resolution.isSome = true ∨ s.port.lane.length < Config.laneCapacity) :
    s.Event (s.answer a) :=
  (Event.port s _ (fun fits => Port.answer_fits fits a room)
    (fun silent => (Port.leave_silent silent).of_eq rfl rfl rfl rfl)).trans (.transmit _)

/-- A resolution in progress changes its phase. -/
theorem Event.resume {r : Resolution} (taken : s.port.resolution = some r) (phase : ResolutionPhase) :
    s.Event { s with port := { s.port with resolution := some { r with phase } } } :=
  .port s _ (fun ⟨queue, lane⟩ => ⟨queue, by simpa [taken] using lane⟩) id

/-- A lookup is taken where the lane has a place for its answer (R36). -/
theorem Event.take (r : Resolution) (room : s.port.lane.length < Config.laneCapacity) :
    s.Event { s with port := { s.port with resolution := some r } } :=
  .port s _ (fun ⟨queue, _⟩ => ⟨queue, room⟩) id

theorem Event.arriveHello (version : Byte) : s.Event (s.arriveHello version) := by
  unfold State.arriveHello
  split
  · exact .refl s
  · next lock _ =>
    have owed : s.Event { s with port := { s.port with answering := some version } } :=
      .port s _ (fun fits => ⟨fits.queue, fits.lane⟩) fun _ => Port.silent_of_inLock lock
    exact owed.trans (.transmit _)
  · next lock _ =>
    have emptied : s.Event { s with port := { s.port.empty with answering := some version } } :=
      .port s _ (fun _ => ⟨Nat.zero_le _, Nat.zero_le _⟩) fun _ => Port.silent_of_inLock lock
    exact (emptied.trans (.discardAccess _ _)).trans (.transmit _)

theorem Event.arriveLookup (l : Lookup) : s.Event (s.arriveLookup l) := by
  have lock (p q : Port) (h : q = p.join l ∨ q = p.refuse l) (silent : p.Silent) : q.Silent := by
    rcases h with rfl | rfl
    · unfold Port.join
      split <;> exact silent
    · unfold Port.refuse
      split <;> exact silent
  unfold State.arriveLookup
  split
  · exact .refl s
  · split
    · next room => exact (Event.port s _ (Port.join_fits · l room) (lock _ _ (.inl rfl))).trans (.transmit _)
    · exact (Event.port s _ (Port.refuse_fits · l) (lock _ _ (.inr rfl))).trans (.transmit _)

theorem Event.offerLookupFix (run : LiveRun) (g b : Nat) (a : BucketAccess) : s.Event (s.offerLookupFix run g b a) := by
  unfold State.offerLookupFix
  split
  · exact .offerFix _ _
  · exact .refl s

theorem Event.resolveEscape {r : Resolution} (taken : s.port.resolution = some r) : s.Event (s.resolveEscape r) := by
  have answered (a : Answer) : s.Event (s.answer a) := .answer s a (.inl (by simp [taken]))
  unfold State.resolveEscape
  split
  · exact answered _
  · split
    · exact answered _
    · split
      · exact answered _
      · split
        · exact answered _
        · exact .resume s taken _

theorem Event.finishRead {r : Resolution} (taken : s.port.resolution = some r) (a : BucketAccess) :
    s.Event (s.finishRead r a) := by
  unfold State.finishRead
  split
  · exact .refl s
  · next run _ =>
    have kept (g b : Nat) : (s.offerLookupFix run g b a).port.resolution = some r := by simpa using taken
    dsimp only
    split
    · exact (Event.offerLookupFix s _ _ _ _).trans (.resolveEscape _ (kept _ _))
    · exact (Event.offerLookupFix s _ _ _ _).trans (.answer _ _ (.inl (by simp [taken])))

theorem Event.finishEscape {r : Resolution} (taken : s.port.resolution = some r) (a : BucketAccess) :
    s.Event (s.finishEscape r a) := by
  unfold State.finishEscape
  split
  · exact .refl s
  · exact (Event.offerLookupFix s _ _ _ _).trans (.answer _ _ (.inl (by simp [taken])))


end State

end Sys2Proof.Machine
end

section
/-! PROOF. That each operation of row adoption, the rebuild, the arbiter and the Walk Engine is part of an event, but for
the bucket memory where the arbiter grants a write. -/

namespace Sys2Proof.Machine.State

variable (s : State)

/-! ### Rows of uplinks (R25 to R28) -/

theorem Event.adoptEmpty (u : Fin 32) : s.Event (s.adoptEmpty u) := by
  unfold State.adoptEmpty
  dsimp only
  split
  · exact .refl s
  · exact (Event.setUplink s _ _).trans (.changeState _ _ _ _)

theorem Event.adoptDisabled (u : Fin 32) (p : UplinkParams) : s.Event (s.adoptDisabled u p) := by
  unfold State.adoptDisabled
  dsimp only
  split
  · exact .setUplink _ _ _
  · exact (Event.setUplink s _ _).trans (.changeState _ _ _ _)

theorem Event.firstWindow (u : Fin 32) : s.Event (s.firstWindow u) :=
  (Event.modifyUplink s _ _).trans (.emitProbe _ _)

theorem Event.enable (u : Fin 32) (p : UplinkParams) : s.Event (s.enable u p) := by
  have begun : s.Event (((s.modifyUplink u fun r => r.enterProof p).changeState u .proving (some .reconfig)).firstWindow
      u) := ((Event.modifyUplink s _ _).trans (.changeState _ _ _ _)).trans (.firstWindow _ _)
  unfold State.enable
  dsimp only
  split
  · exact begun.trans (.changeState _ _ _ _)
  · exact begun

theorem Event.repeer (u : Fin 32) (p : UplinkParams) : s.Event (s.repeer u p) :=
  (Event.modifyUplink s _ _).trans (.changeState _ _ _ _)

theorem Event.retune (u : Fin 32) (p : UplinkParams) : s.Event (s.retune u p) := by
  unfold State.retune
  dsimp only
  split
  · exact .modifyUplink _ _ _
  · exact (Event.modifyUplink s _ _).trans (.recheckUplinks _ _)

theorem Event.adoptEnabled (u : Fin 32) (p : UplinkParams) : s.Event (s.adoptEnabled u p) := by
  unfold State.adoptEnabled
  dsimp only
  split
  · exact .enable _ _ _
  · split
    · exact .repeer _ _ _
    · exact .retune _ _ _

theorem Event.applyUplinkRow (u : Fin 32) (row : UplinkRow) : s.Event (s.applyUplinkRow u row) := by
  unfold State.applyUplinkRow
  split
  · exact .adoptEmpty _ _
  · exact (Event.adoptDisabled s _ _).trans (.ageFlaps _ _)
  · exact (Event.adoptEnabled s _ _).trans (.ageFlaps _ _)
  · exact .refl s

theorem Event.endDrillForRow (u : Fin 32) : s.Event (s.endDrillForRow u) := by
  unfold State.endDrillForRow
  split
  · exact .refl s
  · exact .endDrill _ _ _ _ _

theorem Event.adoptUplinkRow (u : Fin 32) (row : UplinkRow) (generation : Generation) :
    s.Event (s.adoptUplinkRow u row generation) :=
  (((Event.modifyUplink s _ _).trans (.produce _ _)).trans (.endDrillForRow _ _)).trans (.applyUplinkRow _ _ _)

/-! ### Rows of groups and the flip (R129 to R138) -/

theorem Event.reindex (g : Nat) (old new : List Member) : s.Event (s.reindex g old new) := .quiet rfl rfl

theorem Event.endWork : s.Event s.endWork := .quiet rfl rfl

theorem Event.setWork (w : Work) : s.Event (s.setWork w) := .quiet rfl rfl

theorem Event.abandonBlockStep (g : Nat) : s.Event (s.abandonBlockStep g) := by
  unfold State.abandonBlockStep
  split
  · exact .quiet rfl rfl
  · exact .refl s

theorem Event.supersede (g : Nat) (generation : Generation) : s.Event (s.supersede g generation) := by
  unfold State.supersede
  split
  · exact .refl s
  · next b _ =>
    exact ((((Event.freeBlocks s b.blocks).trans (.quiet (by rfl) (by rfl))).trans (.abandonBlockStep _ g)).trans (.setGroup _ _ _)).trans
      (.produce _ _)

theorem Event.endWorkOn (g : Nat) : s.Event (s.endWorkOn g) := by
  unfold State.endWorkOn
  split
  · split
    · exact ((Event.modifyWalk s _ _ (by intro _; rfl)).trans (.endWork _)).trans (.discardAccess _ _)
    · exact .refl s
  · split
    · exact (Event.endWork s).trans (.discardAccess _ _)
    · exact .refl s
  · split
    · exact (Event.endWork s).trans (.discardAccess _ _)
    · exact .refl s
  · exact .refl s
  · exact .refl s

theorem Event.dropRun (g : Nat) : s.Event (s.dropRun g) := by
  unfold State.dropRun
  split
  · exact .refl s
  · exact ((((Event.uncountRun s _).trans (.freeBlocks _ _)).trans (.reindex _ _ _ _)).trans (.replaceSnapshot _ _)).trans
      (.endWorkOn _ _)

theorem Event.removeGroupRow (g : Nat) (generation : Generation) : s.Event (s.removeGroupRow g generation) :=
  ((Event.dropRun s _).trans (.setGroup _ _ _)).trans (.produce _ _)

theorem Event.rejectRoom (g : Nat) (generation : Generation) (reason : RowReason) (asked found : Nat) :
    s.Event (s.rejectRoom g generation reason asked found) :=
  (Event.setGroup s _ _).trans (.produce _ _)

theorem Event.createRebuild (g : Nat) (fields : GroupFields) (generation : Generation) (blocks : List Nat)
    (entries : Nat) : s.Event (s.createRebuild g fields generation blocks entries) :=
  ((Event.setGroup s _ _).trans (.quiet (by rfl) (by rfl))).trans (.produce _ _)

theorem Event.reserveRow (g : Nat) (fields : GroupFields) (generation : Generation) :
    s.Event (s.reserveRow g fields generation).1 := by
  unfold State.reserveRow
  split
  · exact .rejectRoom _ _ _ _ _ _
  · next blocks reserved given =>
    have owned : s.Event reserved := by
      rw [reserveBlocks_eq s given]
      exact .setOwners _ _ _ _
    dsimp only
    split
    · exact owned.trans (.createRebuild _ _ _ _ _ _)
    · exact (owned.trans (.freeBlocks _ _)).trans (.rejectRoom _ _ _ _ _ _)

theorem Event.adoptGroupRow (g : Nat) (fields : Option GroupFields) (generation : Generation) :
    s.Event (s.adoptGroupRow g fields generation).1 := by
  unfold State.adoptGroupRow
  dsimp only
  split
  · exact (Event.supersede s _ _).trans (.removeGroupRow _ _ _)
  · exact (Event.supersede s _ _).trans (.reserveRow _ _ _ _)

theorem Event.offerSettlePass (g : Nat) : s.Event (s.offerSettlePass g) := by
  unfold State.offerSettlePass
  split
  · exact .refl s
  · exact .quiet rfl rfl

theorem Event.returnRun (old : Option LiveRun) : s.Event (s.returnRun old) := by
  unfold State.returnRun
  split
  · exact .refl s
  · exact (Event.uncountRun s _).trans (.freeBlocks _ _)

theorem Event.flip (g : Nat) : s.Event (s.flip g) := by
  unfold State.flip
  dsimp only
  split
  · exact .refl s
  · next b _ =>
    have moved := ((((Event.setOwners s (Owner.run g) b.blocks 0).trans (.returnRun _ (s.group g).live)).trans
      (.countRun _ b.staged b.blocks)).trans (.reindex _ g (membersOf (s.group g).live) b.staged.members))
    have reported := fun (t : State) r e => ((((Event.setGroup t g r).trans (.produce _ e)).trans
      (.checkPin _ g (fieldsOf (s.group g).live) b.staged)).trans (.compareStrandedness _ g)).trans (.replaceSnapshot _ g)
    split
    · exact ((moved.trans (.quiet (by rfl) (by rfl))).trans (reported _ _ _)).trans (.offerSettlePass _ _)
    · exact (moved.trans (.quiet (by rfl) (by rfl))).trans (reported _ _ _)

/-! ### The arbiter (R82) -/

theorem Event.beginAccess (r : Requester) (k o : Nat) : s.Event (s.beginAccess r k o) := .quiet rfl rfl

theorem Event.beginLiveAccess (r : Requester) (g b : Nat) : s.Event (s.beginLiveAccess r g b) := by
  unfold State.beginLiveAccess
  split
  · exact .refl s
  · exact .beginAccess _ _ _ _

theorem Event.countMove (u : Fin 32) (old new : Nat) : s.Event (s.countMove u old new) := by
  unfold State.countMove
  split
  · exact .refl s
  · exact .modifyWalk _ _ _ fun _ => rfl

theorem Event.grantLookup {r : Resolution} (taken : s.port.resolution = some r) : s.Event (s.grantLookup r) := by
  have read (requester : Requester) (k o : Nat) (phase : ResolutionPhase) : s.Event
      { s.beginAccess requester k o with port := { (s.beginAccess requester k o).port with
        resolution := some { r with phase } } } :=
    (Event.beginAccess s requester k o).trans (.resume (s.beginAccess requester k o) taken phase)
  unfold State.grantLookup
  dsimp only
  split
  · split
    · exact .refl s
    · exact read _ _ _ _
  · split
    · exact .refl s
    · exact read _ _ _ _
  · exact .refl s
  · exact .refl s

theorem Apart.writeStagedBucket (g position offset : Nat) : s.Apart (s.writeStagedBucket g position offset) := by
  unfold State.writeStagedBucket
  split
  · exact (Event.refl s).toApart
  · exact (Apart.setBucket s _ _ _).trans (Event.beginAccess _ _ _ _).toApart

theorem Apart.grantEngine (w : Work) : s.Apart (s.grantEngine w) := by
  unfold State.grantEngine
  split
  · exact ((Event.beginLiveAccess s _ _ _).trans (.setWork _ _)).toApart
  · exact (Apart.writeLiveBucket s _ _ _ _ _).trans
      (((Event.countMove _ _ _ _).trans (.beginLiveAccess _ _ _ _)).trans (.setWork _ _)).toApart
  · exact ((Event.beginLiveAccess s _ _ _).trans (.setWork _ _)).toApart
  · exact (Apart.writeLiveBucket s _ _ _ _ _).trans ((Event.beginLiveAccess _ _ _ _).trans (.setWork _ _)).toApart
  · exact (Apart.writeStagedBucket s _ _ _).trans (Event.setWork _ _).toApart
  · exact ((Event.beginAccess s _ _ _).trans (.setWork _ _)).toApart
  · exact (Apart.writeLiveBucket s _ _ _ _ _).trans ((Event.beginAccess _ _ _ _).trans (.setWork _ _)).toApart
  · exact (Event.refl s).toApart

theorem Event.setBurst (b : Option Burst) : s.Event (s.setBurst b) := .quiet rfl rfl

theorem Apart.grantScrub (b : Burst) : s.Apart (s.grantScrub b) := by
  have goesOn := fun (t : State) r k o burst =>
    ((Event.beginAccess t r k o).trans (.setBurst _ burst)).toApart
  unfold State.grantScrub
  dsimp only
  split
  · exact goesOn s _ _ _ _
  · split
    · exact (Apart.setBucket s _ _ _).trans (goesOn _ _ _ _ _)
    · exact goesOn s _ _ _ _
  · exact (Event.refl s).toApart
  · exact (Event.refl s).toApart

theorem Event.grantSnapshot (r : SnapshotRecord) : s.Event (s.grantSnapshot r) :=
  (Event.beginAccess s _ _ _).trans (.setSnapshot _ _)

theorem Apart.grantBackground (b : Background) : s.Apart (s.grantBackground b) := by
  have remembered : s.Apart { s with store := { s.store with lastBackground := some b } } := Event.toApart (.quiet rfl rfl)
  unfold State.grantBackground
  dsimp only
  split
  · split
    · exact remembered.trans (.grantScrub _ _)
    · exact remembered
  · split
    · exact remembered.trans (Event.grantSnapshot _ _).toApart
    · exact remembered

theorem Apart.grantClass3 : s.Apart s.grantClass3 := by
  unfold State.grantClass3
  split
  · exact Apart.trans (t := { s with openCount := _ }) (Event.quiet (by rfl) (by rfl)).toApart (.grantBackground _ _)
  · exact .grantBackground _ _
  · exact .grantBackground _ _
  · exact (Event.refl s).toApart

theorem Apart.grantNext : s.Apart s.grantNext := by
  unfold State.grantNext
  split
  · split
    · next taken => exact (Event.grantLookup s taken).toApart
    · exact (Event.refl s).toApart
  · split
    · split
      · exact .grantEngine _ _
      · exact (Event.refl s).toApart
    · exact .grantClass3 _

/-! ### The Walk Engine -/

theorem Event.reportWalk (w : Walk) (cls : WalkClass) (duration : PartTime) : s.Event (s.reportWalk w cls duration) := by
  unfold State.reportWalk
  split
  · exact .refl s
  · exact .modifyUplink _ _ _

/-- A walk that ends leaves its queue. -/
theorem Event.endWalk (w : Walk) (cls : WalkClass) : s.Event (s.endWalk w cls) := by
  unfold State.endWalk
  cases cls with
  | urgent =>
    refine Event.trans (.walks (fun one => ?_) (by rfl) (by rfl)) ((Event.produce _ _).trans (.reportWalk _ _ _ _))
    exact one.sublist (((List.tail_sublist _).append (.refl _)).map _)
  | restore =>
    refine Event.trans (.walks (fun one => ?_) (by rfl) (by rfl)) ((Event.produce _ _).trans (.reportWalk _ _ _ _))
    exact one.sublist (((List.Sublist.refl _).append (List.tail_sublist _)).map _)

theorem Event.setTally (n : Nat) : s.Event (s.setTally n) := .quiet rfl rfl

theorem Event.beginStep (w : Walk) (g : Nat) : s.Event (s.beginStep w g) := .setWork _ _

/-- The fix that is taken leaves the fix queue (R86). -/
theorem Event.takeFix (p : FixItem → Bool) :
    s.Event { s with store := { s.store with fixQueue := s.store.fixQueue.filter p } } :=
  ⟨⟨⟨id, fun ⟨queue, lane, records, items⟩ => ⟨queue, lane, records, (List.length_filter_le _ _).trans items⟩, id, id⟩,
    rfl⟩, rfl⟩

theorem Event.takeIntake (item : IntakeItem) : s.Event (s.takeIntake item) := by
  have taken : s.Event { s with engine := { s.engine with intake := s.engine.intake.tail, tally := 0 } } := .quiet rfl rfl
  unfold State.takeIntake
  dsimp only
  split
  · exact taken.trans (.setWork _ _)
  · exact taken.trans (.flip _ _)
  · split
    · exact taken
    · exact taken.trans (.setWork _ _)
  · split
    · exact taken
    · exact (taken.trans (.takeFix _ _)).trans (.setWork _ _)

theorem Event.select (fuel : Nat) : s.Event (s.select fuel) := by
  induction fuel generalizing s with
  | zero => exact .refl s
  | succ fuel ih =>
    unfold State.select
    split
    · split
      · exact .beginStep _ _ _
      · exact (Event.endWalk s _ _).trans (ih _)
    · split
      · split
        · split
          · exact (Event.setTally s _).trans (.beginStep _ _ _)
          · exact (Event.endWalk s _ _).trans (ih _)
        · exact .refl s
      · split
        · exact .takeIntake _ _
        · exact .refl s

theorem Event.completePass (g : Nat) : s.Event (s.completePass g) :=
  (Event.compareStrandedness s _).trans (.markRebuild _ _)

theorem Event.completeStep (u : Fin 32) (g : Nat) (converted : Bool) : s.Event (s.completeStep u g converted) :=
  ((Event.completePass s _).trans (.modifyWalk _ _ _ (by intro _; rfl))).trans (.endWork _)

theorem Event.nextStepBucket (u : Fin 32) (g b : Nat) (converted : Bool) :
    s.Event (s.nextStepBucket u g b converted) := by
  unfold State.nextStepBucket
  split
  · exact .setWork _ _
  · exact .completeStep _ _ _ _

theorem Event.nextPassBucket (g b : Nat) : s.Event (s.nextPassBucket g b) := by
  unfold State.nextPassBucket
  split
  · exact .setWork _ _
  · exact (Event.completePass s _).trans (.endWork _)

theorem Event.endBlockStep (g p : Nat) : s.Event (s.endBlockStep g p) := by
  unfold State.endBlockStep
  split
  · exact .endWork _
  · exact (Event.setGroup s _ _).trans (.quiet (by rfl) (by rfl))


end Sys2Proof.Machine.State
end

section
/-! PROOF. That each operation of sweeps, the journal writer and Run Control is part of an event, but for those that
clear the live state or take a header. -/

namespace Sys2Proof.Machine.State

variable (s : State)

/-! ### Sweeps (R146 to R148) -/

theorem Event.setSweep (r : Option SweepRecord) : s.Event (s.setSweep r) := .quiet rfl rfl

theorem Event.modifySweep (f : SweepRecord → SweepRecord) : s.Event (s.modifySweep f) := .quiet rfl rfl

theorem Event.sweepTo (phase : SweepPhase) (a : AreaAccess) : s.Event (s.sweepTo phase a) := .quiet rfl rfl

theorem Event.startSweep : s.Event s.startSweep := .quiet rfl rfl

theorem Event.startSweepTimer : s.Event s.startSweepTimer := .quiet rfl rfl

theorem Event.sweepOrDue : s.Event s.sweepOrDue := by
  unfold State.sweepOrDue
  split
  · exact .quiet rfl rfl
  · exact .startSweep _

theorem Event.beginPage (r : SweepRecord) : s.Event (s.beginPage r) := .quiet rfl rfl

theorem Event.resumeFlush : s.Event s.resumeFlush := by
  unfold State.resumeFlush
  split
  · split
    · exact .beginPage _ _
    · exact .refl s
  · exact .refl s

theorem Event.beginFlush : s.Event s.beginFlush := by
  have begun : s.Event { s with area := { s.area with
      blocked := false, sweep := s.area.sweep.map fun r => { r with phase := .flush } } } := .quiet rfl rfl
  exact begun.trans (.resumeFlush _)

theorem Event.afterSlot (k : Fin 16) : s.Event (s.afterSlot k) := by
  unfold State.afterSlot
  split
  · exact .sweepTo _ _ _
  · exact .beginFlush _

theorem Event.afterRow (row : RowId) : s.Event (s.afterRow row) := by
  cases row with
  | uplink u =>
    unfold State.afterRow
    dsimp only
    split
    · exact .sweepTo _ _ _
    · split <;> exact .sweepTo _ _ _
  | group g =>
    unfold State.afterRow
    dsimp only
    split <;> exact .sweepTo _ _ _

/-! ### Rows (R151 to R153) -/

theorem Event.tornRow (row : RowId) (head tail : Generation) : s.Event (s.tornRow row head tail) := by
  unfold State.tornRow
  dsimp only
  split
  · exact (Event.modifySweep s _).trans (.setRowMemory _ _ _)
  · exact (((Event.modifySweep s _).trans (.setRowMemory _ _ _)).trans (.modifySweep _ _)).trans (.produce _ _)

theorem Event.rejectRow (row : RowId) (generation : Generation) (why : Rejection) :
    s.Event (s.rejectRow row generation why) :=
  ((Event.setRowMemory s _ _).trans (.modifySweep _ _)).trans (.produce _ _)

theorem Event.countHandOver (row : RowId) : s.Event (s.countHandOver row) :=
  (Event.setRowMemory s _ _).trans (.modifySweep _ _)

theorem Event.countRoomReject (row : RowId) (generation : Generation) : s.Event (s.countRoomReject row generation) :=
  (Event.setRowMemory s _ _).trans (.modifySweep _ _)

theorem Event.checkRow (row : RowId) (generation : Generation) (bytes : List Byte) :
    s.Event (s.checkRow row generation bytes) := by
  cases row with
  | uplink u =>
    unfold State.checkRow
    dsimp only
    split
    · exact .rejectRow _ _ _ _
    · split
      · exact .refl s
      · exact (Event.countHandOver s _).trans (.adoptUplinkRow _ _ _ _)
  | group g =>
    unfold State.checkRow
    dsimp only
    split
    · exact .rejectRow _ _ _ _
    · next fields _ =>
      have adopted := Event.adoptGroupRow s g fields generation
      split
      · exact .refl s
      · split
        · next t given =>
          rw [given] at adopted
          exact adopted.trans (.countHandOver _ _)
        · next t given =>
          rw [given] at adopted
          exact adopted.trans (.countRoomReject _ _ _)

theorem Event.changedRow (row : RowId) (generation : Generation) (bytes : List Byte) :
    s.Event (s.changedRow row generation bytes) := by
  have seen := fun m => (Event.setRowMemory s row m).trans (.modifySweep _ SweepRecord.changed)
  unfold State.changedRow
  dsimp only
  split
  · exact (seen _).trans (.modifySweep _ _)
  · exact (seen _).trans (.checkRow _ _ _ _)

theorem Event.treatRow (row : RowId) (bytes : List Byte) : s.Event (s.treatRow row bytes) := by
  unfold State.treatRow
  dsimp only
  split
  · exact .tornRow _ _ _ _
  · split
    · exact .setRowMemory _ _ _
    · split
      · exact (Event.setRowMemory s _ _).trans (.modifySweep _ _)
      · exact .changedRow _ _ _ _

/-! ### Order slots (R155, R156) -/

theorem Event.takeOrder (o : OrderInHand) : s.Event (s.takeOrder o) := by
  have held : s.Event { s with area := { s.area with
      slotHolds := s.area.slotHolds.set o.slot (some o.kind), taking := some o } } := .quiet rfl rfl
  exact (held.trans (.modifySweep _ _)).trans (.sweepTo _ _ _)

theorem Event.awaitSlot (k : Fin 16) : s.Event (s.awaitSlot k) := by
  unfold State.awaitSlot
  split
  · exact .modifySweep _ _
  · exact .afterSlot _ _

theorem Event.postedSlot (k : Fin 16) (bytes : List Byte) : s.Event (s.postedSlot k bytes) := by
  unfold State.postedSlot
  split
  · exact (Event.completeUntaken s _ _ _).trans (.awaitSlot _ _)
  · split
    · exact (Event.completeUntaken s _ _ _).trans (.awaitSlot _ _)
    · exact .takeOrder _ _

theorem Event.treatSlot (k : Fin 16) (bytes : List Byte) : s.Event (s.treatSlot k bytes) := by
  unfold State.treatSlot
  split
  · exact .afterSlot _ _
  · exact .postedSlot _ _ _

/-- An order handed over is part of an event where its owner's taking is. -/
theorem Event.handOver (o : OrderInHand) (take : State → OrderInHand → State) (taken : ∀ t : State, t.Event (take t o)) :
    s.Event (s.handOver o take) := by
  have ended : s.Event s.endTaken := .quiet rfl rfl
  exact ((ended.trans (taken _)).trans (.awaitSlot _ _)).trans (.settleArea _)

theorem Event.closeCompletion (k : Fin 16) : s.Event (s.closeCompletion k) := .quiet rfl rfl

theorem Event.resumeSweep (k : Fin 16) : s.Event (s.resumeSweep k) := by
  unfold State.resumeSweep
  split
  · split
    · exact .afterSlot _ _
    · exact .refl s
  · exact .refl s

/-! ### The end of the page and of the sweep (R154, R160, R161) -/

theorem Event.enterRunning : s.Event s.enterRunning := by
  have running : s.Event { s with control := { s.control with runState := .running } } := .quiet rfl rfl
  unfold State.enterRunning
  dsimp only
  split
  · split
    · exact running.trans (.startSweepTimer _)
    · exact running
  · exact .refl s

theorem Event.decideNews : s.Event s.decideNews := by
  have unmarked : s.Event { s with area := { s.area with newsMark := false } } := .quiet rfl rfl
  unfold State.decideNews
  dsimp only
  split
  · exact unmarked.trans (.setCause _ _)
  · exact unmarked

theorem Event.reportSweep (r : SweepRecord) : s.Event (s.reportSweep r) := by
  unfold State.reportSweep
  split
  · exact (Event.produce s _).trans (.setCause _ _)
  · exact .refl s

theorem Event.startDueSweep : s.Event s.startDueSweep := by
  unfold State.startDueSweep
  split
  · exact .quiet rfl rfl
  · exact .refl s

theorem Event.endSweep (r : SweepRecord) : s.Event (s.endSweep r) := by
  have ended : s.Event { s with area := { s.area with planMark := true, sweep := none } } := .quiet rfl rfl
  exact (((ended.trans (.enterRunning _)).trans (.decideNews _)).trans (.reportSweep _ _)).trans (.startDueSweep _)

/-- RESUMED takes the place of the record at the tail when 16 wait (R160). -/
theorem Event.produceResumed : s.Event s.produceResumed := by
  by_cases room : s.area.holding.length < Config.holdingCapacity
  · unfold State.produceResumed
    rw [if_pos room]
    exact .records (fun _ => room) rfl rfl
  · unfold State.produceResumed
    rw [if_neg room]
    dsimp only
    have dropped (l : List Record) (r : Record) (full : l.length ≤ 16) : (r :: l.dropLast).length ≤ 16 := by
      rw [List.length_cons, List.length_dropLast]
      omega
    split
    · exact .records (dropped _ _) rfl rfl
    · exact .records (dropped _ _) rfl rfl

theorem Event.finishAdopt : s.Event s.finishAdopt := by
  have done : s.Event { s with area := { s.area with adoptPage := false } } := .quiet rfl rfl
  have starting (t : State) : t.Event { t with control := { t.control with runState := .starting } } := .quiet rfl rfl
  exact (done.trans (.produceResumed _)).trans (starting _)

theorem Event.endPage : s.Event s.endPage := by
  unfold State.endPage
  split
  · exact .finishAdopt s
  · split
    · exact .endSweep _ _
    · exact .refl s

theorem Event.nextPage (part : Nat) : s.Event (s.nextPage part) := .quiet rfl rfl

/-! ### Abandonment and entry into HEADLESS (R150, R167) -/

theorem Event.abandonTaking : s.Event s.abandonTaking := by
  unfold State.abandonTaking
  split
  · exact .refl s
  · exact Event.trans (t := { s with area := { s.area with taking := none } }) (.quiet rfl rfl)
      ((Event.dropHold _ _).trans (.reportEnded _ _ _ _ _ _))

theorem Event.abandonCompletion (c : Completion) : s.Event (s.abandonCompletion c) :=
  (Event.closeCompletion s _).trans (.reportEnded _ _ _ _ _ _)

theorem Event.abandonSweep : s.Event s.abandonSweep := by
  unfold State.abandonSweep
  split
  · exact .refl s
  · have abandoned := fun p => ((Event.dropAccesses s p).trans (.setSweep _ none)).trans (.abandonTaking _)
    dsimp only
    split
    · exact (abandoned _).trans (.abandonCompletion _ _)
    · exact abandoned _

theorem Event.abandonCompletions (cs : List Completion) : s.Event (cs.foldl State.abandonCompletion s) := by
  induction cs generalizing s with
  | nil => exact .refl s
  | cons c cs ih => exact (Event.abandonCompletion s c).trans (ih _)

theorem Event.abandonArea : s.Event s.abandonArea :=
  Event.trans (t := s.area.completions.foldl State.abandonCompletion s) (.abandonCompletions _ _) (.quiet rfl rfl)

theorem Event.stopSweeps : s.Event s.stopSweeps := .quiet rfl rfl

theorem Event.enterHeadless (reason : HeadlessReason) : s.Event (s.enterHeadless reason) :=
  ((((Event.abandonSweep s).trans (.abandonSnapshot _)).trans (.abandonArea _)).trans (.stopSweeps _)).trans (.quiet rfl rfl)

/-! ### The journal writer (R158, R159, R166) -/

theorem Event.tryStopped (t : StopTry) : s.Event (s.tryStopped t) := by
  unfold State.tryStopped
  split
  · exact .refl s
  · split
    · exact .quiet rfl rfl
    · exact .enterHeadless _ _

theorem Event.retryStopped : s.Event s.retryStopped := by
  unfold State.retryStopped
  split
  · exact .tryStopped _ _
  · exact .refl s

theorem Event.slotNotEmpty : s.Event s.slotNotEmpty := by
  unfold State.slotNotEmpty
  split
  · exact .enterHeadless _ _
  · exact Event.trans (t := { s with area := { s.area with writer := .idle, blocked := true } }) (.quiet rfl rfl) (.retryStopped _)

theorem Event.closeGap : s.Event s.closeGap := by
  unfold State.closeGap
  split
  · exact Event.trans (t := { s with area := { s.area with gapCount := 0, firstDrop := none, lastDrop := none } }) (.quiet rfl rfl)
      (.produce _ _)
  · exact .refl s

theorem Event.advanceJournal : s.Event s.advanceJournal := .quiet rfl rfl

theorem Event.recordWritten : s.Event s.recordWritten := by
  have left : s.Event { s.advanceJournal with
      area := { s.advanceJournal.area with holding := s.area.holding.tail } } :=
    .records (fun full => by
      rw [List.length_tail]
      omega) rfl rfl
  exact left.trans (.closeGap _)

/-! ### Run Control -/

theorem Event.abandonStart : s.Event s.abandonStart := .quiet rfl rfl

theorem Event.faultPage : s.Event s.faultPage := by
  unfold State.faultPage
  dsimp only
  split <;> exact .quiet rfl rfl

theorem Event.faultHeader : s.Event s.faultHeader := by
  unfold State.faultHeader
  dsimp only
  split <;> exact .quiet rfl rfl

theorem Event.refuse (code : BitVec 4) : s.Event (s.refuse code) := .quiet rfl rfl

theorem Event.beginStart (command : StartCommand) : s.Event (s.beginStart command) := .quiet rfl rfl


end Sys2Proof.Machine.State
end

section
/-! PROOF. That every command but the resets, the register writes, CLEAR, DARK_SENSE_LINE_CHANGE and HEADER_READ_DONE is
an event: the outcome of each meaning is a next state, and all acts on the way keep what an event keeps. -/

namespace Sys2Proof.Machine

namespace State

/-- The outcome is a next state to which `s` stands in the relation. -/
inductive Leads (s : State) (relation : State → State → Prop) : Host.Outcome State Fault Refusal → Prop
  | next {t : State} (h : relation s t) : Leads s relation (.next t)

/-- A meaning that does nothing. -/
theorem Leads.same (s : State) : s.Leads Event (.next s) := .next (.refl s)

theorem Leads.mono {s : State} {r q : State → State → Prop} {o : Host.Outcome State Fault Refusal} (h : s.Leads r o)
    (weaker : ∀ t, r s t → q s t) : s.Leads q o := by
  cases h with
  | next kept => exact .next (weaker _ kept)

/-- Where a meaning leads to, it does lead. -/
theorem Leads.exists {s : State} {r : State → State → Prop} {o : Host.Outcome State Fault Refusal} (h : s.Leads r o) :
    ∃ t, o = .next t ∧ r s t := by
  cases h with
  | next kept => exact ⟨_, rfl, kept⟩

end State

open State (Event Apart Leads)

variable (s : State)

/-! ### Bucket Store and Walk Engine -/

theorem execScrubTimerExpiry_event : s.Leads Event (execScrubTimerExpiry s) := by
  have restarted : s.Event { s with store := { s.store with
      scrubTimer := after s.now (1000 * s.store.scrubInterval) } } := .quiet rfl rfl
  unfold execScrubTimerExpiry
  dsimp only
  split
  · split
    · exact .next restarted
    · exact .next (restarted.trans (.setBurst _ _))
  · exact .same s

theorem execScrubReadDone_event : s.Leads Event (execScrubReadDone s) := by
  unfold execScrubReadDone
  split
  · exact .same s
  · split
    · exact .next (.endAccess s)
    · split
      · exact .next (.endAccess s)
      · split
        · exact .next ((Event.endAccess s).trans (.scrubFault _ _ _))
        · exact .next ((Event.endAccess s).trans (.nextScrub _ _))

theorem execScrubWriteDone_event : s.Leads Event (execScrubWriteDone s) := by
  unfold execScrubWriteDone
  split
  · exact .same s
  · split
    · exact .next (.endAccess s)
    · split
      · exact .next ((Event.endAccess s).trans (.nextScrub _ _))
      · exact .next (.endAccess s)

theorem execSnapshotReadDone_event : s.Leads Event (execSnapshotReadDone s) := by
  unfold execSnapshotReadDone
  split
  · exact .same s
  · split
    · exact .next (.endAccess s)
    · split
      · exact .next (.endAccess s)
      · exact .next ((((Event.endAccess s).trans (.setSnapshot _ _)).trans (.request _ _)).trans (.settleArea _))

theorem execSnapshotEntryWritten_event : s.Leads Event (execSnapshotEntryWritten s) := by
  unfold execSnapshotEntryWritten
  split
  · split
    · exact .next ((Event.endFlight s).trans (.settleArea _))
    · split
      · exact .next ((((Event.endFlight s).trans (.completeOrder _ _ _ _ _ _)).trans (.setSnapshot _ _)).trans
          (.settleArea _))
      · exact .next ((Event.endFlight s).trans (.settleArea _))
  · exact .same s

theorem execBucketAccessGrant_apart : s.Leads Apart (execBucketAccessGrant s) := by
  unfold execBucketAccessGrant
  split
  · exact .next (Event.refl s).toApart
  · exact .next ((Apart.grantNext s).trans (Event.settleArea _).toApart)

theorem execParityFault_apart (k : Fin 2048) (o : Fin 64) : s.Leads Apart (execParityFault k o s) :=
  .next (.setBucket s _ _ _)

theorem execWorkSelect_event : s.Leads Event (execWorkSelect s) := by
  unfold execWorkSelect
  split
  · exact .same s
  · exact .next ((Event.select s _).trans (.settleArea _))

theorem execWalkStepAccessDone_event : s.Leads Event (execWalkStepAccessDone s) := by
  unfold execWalkStepAccessDone
  split
  · exact .same s
  · split
    · split
      · exact .next ((Event.endAccess s).trans (.setWork _ _))
      · exact .next (((Event.endAccess s).trans (.nextStepBucket _ _ _ _ _)).trans (.settleArea _))
    · exact .next (((Event.endAccess s).trans (.nextStepBucket _ _ _ _ _)).trans (.settleArea _))
    · exact .next (.endAccess s)

theorem execSettlePassAccessDone_event : s.Leads Event (execSettlePassAccessDone s) := by
  unfold execSettlePassAccessDone
  split
  · exact .same s
  · split
    · split
      · exact .next ((Event.endAccess s).trans (.setWork _ _))
      · exact .next (((Event.endAccess s).trans (.nextPassBucket _ _ _)).trans (.settleArea _))
    · exact .next (((Event.endAccess s).trans (.nextPassBucket _ _ _)).trans (.settleArea _))
    · exact .next (.endAccess s)

theorem execBlockStepWriteDone_event : s.Leads Event (execBlockStepWriteDone s) := by
  unfold execBlockStepWriteDone
  split
  · exact .same s
  · split
    · split
      · exact .next ((Event.endAccess s).trans (.setWork _ _))
      · exact .next ((Event.endAccess s).trans (.endBlockStep _ _ _))
    · exact .next (.endAccess s)

theorem execFixAccessDone_event : s.Leads Event (execFixAccessDone s) := by
  unfold execFixAccessDone
  split
  · exact .same s
  · split
    · split
      · exact .next ((Event.endAccess s).trans (.setWork _ _))
      · exact .next ((Event.endAccess s).trans (.endWork _))
    · exact .next ((Event.endAccess s).trans (.endWork _))
    · exact .next (.endAccess s)

/-! ### Conduit Table and Uplink Monitor -/

theorem execConduitExpiry_event (c : Fin 64) : s.Leads Event (execConduitExpiry c s) := by
  unfold execConduitExpiry
  split
  · exact .same s
  · split
    · exact .next ((Event.clearConduit s _ _ _).trans (.settleArea _))
    · exact .same s

theorem execLightTimerExpiry_event (u : Fin 32) : s.Leads Event (execLightTimerExpiry u s) := by
  unfold execLightTimerExpiry
  split
  · exact .next ((Event.changeLight s _ _).trans (.settleArea _))
  · exact .same s

theorem execWindowEnd_event (u : Fin 32) : s.Leads Event (execWindowEnd u s) := by
  unfold execWindowEnd
  split
  · exact .next ((((Event.judgeWindow s _).trans (.modifyUplink _ _ _)).trans (.emitProbe _ _)).trans (.settleArea _))
  · exact .same s

theorem execSettleExpiry_event (u : Fin 32) : s.Leads Event (execSettleExpiry u s) := by
  unfold execSettleExpiry
  split
  · exact .next ((Event.checkSettle s _).trans (.settleArea _))
  · exact .same s

theorem execDrillEndTime_event (u : Fin 32) : s.Leads Event (execDrillEndTime u s) := by
  unfold execDrillEndTime
  split
  · exact .same s
  · split
    · exact .next ((Event.endDrill s _ _ _ _).trans (.settleArea _))
    · exact .same s

/-- From the state with the line at its new level, DARK_SENSE_LINE_CHANGE is an event. -/
theorem execDarkSenseLineChange_event (u : Fin 32) (asserted : Bool) :
    s.Leads (fun s t => s.Event t
        ∨ Event { s with monitor := { s.monitor with lines := s.monitor.lines.set u asserted } } t)
      (execDarkSenseLineChange u asserted s) := by
  unfold execDarkSenseLineChange
  dsimp only
  split
  · exact .next (.inl (.refl s))
  · split
    · exact .next (.inr (.setUplink _ _ _))
    · split
      · exact .next (.inr ((Event.changeLight _ _ _).trans (.settleArea _)))
      · exact .next (.inr (.setUplink _ _ _))

/-! ### Resolution Port -/

theorem execLossOfLock_event : s.Leads Event (execLossOfLock s) := by
  have lost : s.Event { s with port := { s.port.empty with
      lock := .outOfLock, answering := none, probes := [], sending := none } } :=
    .port s _ (fun _ => ⟨Nat.zero_le _, Nat.zero_le _⟩) fun _ _ => ⟨rfl, rfl, rfl⟩
  unfold execLossOfLock
  split
  · exact .same s
  · exact .next (lost.trans (.discardAccess _ _))

theorem execLockRegained_event : s.Leads Event (execLockRegained s) := by
  unfold execLockRegained
  split
  · exact .same s
  · exact .next (.port s _ (fun fits => ⟨fits.queue, fits.lane⟩) fun _ => Port.silent_of_inLock rfl)

theorem execMessageDiscard_event (bytes : List Byte) : s.Leads Event (execMessageDiscard bytes s) := by
  unfold execMessageDiscard
  split
  · exact .same s
  · exact .same s
  · exact .next (.arriveHello s _)
  · exact .next (.arriveLookup s _)
  · exact .next (.arriveProbe s _ _)

/-- What has been sent was sent in lock, so that the link's change leaves nothing behind out of lock (R30, R31). -/
theorem execMessageSent_event : s.Leads Event (execMessageSent s) := by
  unfold execMessageSent
  split
  · exact .same s
  · next m sending =>
    have sent : s.Event { s with port := s.port.sent } :=
      .port s _ Port.sent_fits fun silent => Port.silent_of_inLock
        (Port.sent_lock.trans (silent.inLock_of_sending (by simp [sending])))
    exact .next (sent.trans (.transmit _))

/-- A lookup is taken where the lane has room for its answer (R36). -/
theorem execLookupTaken_event : s.Leads Event (execLookupTaken s) := by
  unfold execLookupTaken
  split
  · next can queued =>
    have room : s.port.lane.length < Config.laneCapacity := by
      unfold Port.canTake at can
      simp only [Bool.and_eq_true, decide_eq_true_eq] at can
      exact can.2
    dsimp only
    split
    · exact .next (.answer s _ (.inr room))
    · exact .next (.take s _ room)
  · exact .same s

theorem execLookupBucketReadDone_event : s.Leads Event (execLookupBucketReadDone s) := by
  unfold execLookupBucketReadDone
  split
  · exact .same s
  · split
    · next taken => exact .next ((Event.endAccess s).trans (.finishRead s.endAccess taken _))
    · exact .next (.endAccess s)

theorem execEscapeReadDone_event : s.Leads Event (execEscapeReadDone s) := by
  unfold execEscapeReadDone
  split
  · exact .same s
  · split
    · next taken => exact .next ((Event.endAccess s).trans (.finishEscape s.endAccess taken _))
    · exact .next (.endAccess s)

/-! ### Area Interface -/

theorem execSweepTimerExpiry_event : s.Leads Event (execSweepTimerExpiry s) := by
  unfold execSweepTimerExpiry
  split
  · exact .next (((Event.startSweepTimer s).trans (.sweepOrDue _)).trans (.settleArea _))
  · exact .same s

theorem execRowReadDone_event {bytes : List Byte} (size : bytes.length = 128) :
    s.Leads Event (execRowReadDone bytes s) := by
  unfold execRowReadDone
  rw [if_neg (not_not_intro size)]
  split
  · exact .next ((((Event.endFlight s).trans (.treatRow _ _ _)).trans (.afterRow _ _)).trans (.settleArea _))
  · exact .same s

theorem execOrderSlotReadDone_event {bytes : List Byte} (size : bytes.length = 64) :
    s.Leads Event (execOrderSlotReadDone bytes s) := by
  unfold execOrderSlotReadDone
  rw [if_neg (not_not_intro size)]
  split
  · exact .next (((Event.endFlight s).trans (.treatSlot _ _ _)).trans (.settleArea _))
  · exact .same s

/-- An order whose TAKEN write has completed is handed over to its owner, and nothing happens without one. -/
theorem handOver_event (kind : OrderKind) (take : State → OrderInHand → State)
    (taken : ∀ (t : State) (o : OrderInHand), t.Event (take t o)) :
    s.Leads Event (match s.orderTaken kind with
      | some o => .next (s.handOver o take)
      | none => .next s) := by
  cases s.orderTaken kind with
  | none => exact .same s
  | some o => exact .next (.handOver s o take fun t => taken t o)

theorem execDrillStart_event : s.Leads Event (execDrillStart s) := handOver_event s .drillStart _ Event.takeDrillStart

theorem execDrillEnd_event : s.Leads Event (execDrillEnd s) := handOver_event s .drillEnd _ Event.takeDrillEnd

theorem execRelease_event : s.Leads Event (execRelease s) := handOver_event s .release _ Event.takeRelease

theorem execPin_event : s.Leads Event (execPin s) := handOver_event s .pin _ Event.takePin

theorem execUnpin_event : s.Leads Event (execUnpin s) := handOver_event s .unpin _ Event.takeUnpin

theorem execConduitClear_event : s.Leads Event (execConduitClear s) :=
  handOver_event s .conduitClear _ Event.takeConduitClear

theorem execSnapshot_event : s.Leads Event (execSnapshot s) := handOver_event s .snapshot _ Event.takeSnapshot

theorem execSlotResultWritten_event : s.Leads Event (execSlotResultWritten s) := by
  unfold execSlotResultWritten
  split
  · exact .next (((Event.endFlight s).trans (.request _ _)).trans (.settleArea _))
  · exact .same s

theorem execSlotStateWritten_event : s.Leads Event (execSlotStateWritten s) := by
  unfold execSlotStateWritten
  split
  · exact .next ((((Event.endFlight s).trans (.closeCompletion _ _)).trans (.resumeSweep _ _)).trans (.settleArea _))
  · exact .same s

theorem execJournalKindReadDone_event (kind : Byte) : s.Leads Event (execJournalKindReadDone kind s) := by
  have body : s.endFlight.Event { s.endFlight with area := { s.endFlight.area with writer := .body } } := .quiet rfl rfl
  unfold execJournalKindReadDone
  split
  · split
    · exact .next ((((Event.endFlight s).trans body).trans (.request _ _)).trans (.settleArea _))
    · exact .next ((((Event.endFlight s).trans (.slotNotEmpty _)).trans (.resumeFlush _)).trans (.settleArea _))
  · exact .same s

theorem execJournalBodyWritten_event : s.Leads Event (execJournalBodyWritten s) := by
  have kind : s.endFlight.Event { s.endFlight with area := { s.endFlight.area with writer := .kind } } := .quiet rfl rfl
  unfold execJournalBodyWritten
  split
  · exact .next ((((Event.endFlight s).trans kind).trans (.request _ _)).trans (.settleArea _))
  · exact .same s

theorem execJournalKindWritten_event : s.Leads Event (execJournalKindWritten s) := by
  unfold execJournalKindWritten
  split
  · split
    · exact .next ((((Event.endFlight s).trans (.advanceJournal _)).trans (.enterHeadless _ _)).trans (.settleArea _))
    · exact .next (((((Event.endFlight s).trans (.recordWritten _)).trans (.retryStopped _)).trans
        (.resumeFlush _)).trans (.settleArea _))
  · exact .same s

theorem execStatusPageWriteDone_event : s.Leads Event (execStatusPageWriteDone s) := by
  unfold execStatusPageWriteDone
  split
  · split
    · exact .next ((Event.endFlight s).trans (.settleArea _))
    · split
      · exact .next (((Event.endFlight s).trans (.nextPage _ _)).trans (.settleArea _))
      · exact .next (((Event.endFlight s).trans (.endPage _)).trans (.settleArea _))
  · exact .same s

theorem execAreaFault_event : s.Leads Event (execAreaFault s) := by
  unfold execAreaFault
  split
  · exact .same s
  · dsimp only
    split
    · exact .next ((Event.setCause s _).trans (.enterHeadless _ _))
    · split
      · exact .next ((Event.setCause s _).trans (.faultHeader _))
      · exact .next (((Event.setCause s _).trans (.faultPage _)).trans (.settleArea _))

/-! ### Run Control -/

theorem execStartFresh_event : s.Leads Event (execStartFresh s) := by
  unfold execStartFresh
  split
  · exact .next (.refuse s _)
  · exact .next ((Event.beginStart s _).trans (.settleArea _))

theorem execStartAdopt_event : s.Leads Event (execStartAdopt s) := by
  unfold execStartAdopt
  split
  · exact .next (.refuse s _)
  · exact .next ((Event.beginStart s _).trans (.settleArea _))

theorem execStop_event : s.Leads Event (execStop s) := by
  have abandoned : s.Event s.abandonSweep.abandonSnapshot.stopSweeps :=
    ((Event.abandonSweep s).trans (.abandonSnapshot _)).trans (.stopSweeps _)
  have tried (t : State) (r : StopTry) : t.Event { t with area := { t.area with stopTry := some r } } := .quiet rfl rfl
  unfold execStop
  split
  · exact .next (.refuse s _)
  · dsimp only
    split
    · exact .next (abandoned.trans (.settleArea _))
    · exact .next (((abandoned.trans (tried _ _)).trans (.tryStopped _ _)).trans (.settleArea _))

theorem execNudge_event : s.Leads Event (execNudge s) := by
  unfold execNudge
  split
  · exact .next ((Event.sweepOrDue s).trans (.settleArea _))
  · exact .same s

theorem execUnknownCommand_event {value : BitVec 32} (unknown : namesCommand value = false) :
    s.Leads Event (execUnknownCommand value s) := by
  unfold execUnknownCommand
  rw [if_neg (by simp [unknown])]
  exact .next (.refuse s _)

theorem execCauseRead_event : s.Leads Event (execCauseRead s) := .next (.quiet rfl rfl)


end Sys2Proof.Machine
end

section
/-! PROOF. O3, O55, O57, O58 and O59: what every command does at all, keeps and leaves alone. -/

namespace Sys2Proof.Machine

namespace State

variable (s : State)

/-! ### The acts that set what an event keeps -/

/-- Power-on empties every table and queue, and leaves the link DOWN with nothing owed or being sent (R42, R169). -/
theorem Sound.powerOn : s.Sound s.powerOn where
  canonical := fun _ => ⟨Memory.wf_empty, Sparse.wf_nil, Sparse.wf_nil, Sparse.wf_nil⟩
  capacity := fun _ => ⟨Nat.zero_le _, Nat.zero_le _, Nat.zero_le _, Nat.zero_le _⟩
  link := fun _ _ => ⟨rfl, rfl, rfl⟩
  agenda := fun _ => List.nodup_nil

/-- The CLEAR values empty every table and queue but the port's, which is kept (R42, R165). -/
theorem Sound.clearLive : s.Sound s.clearLive where
  canonical := fun _ => ⟨Memory.wf_empty, Sparse.wf_nil, Sparse.wf_nil, Sparse.wf_nil⟩
  capacity := fun ⟨queue, lane, _, _⟩ => ⟨queue, lane, Nat.zero_le _, Nat.zero_le _⟩
  link := id
  agenda := fun _ => List.nodup_nil

theorem Sound.freshStart (h : Header) : s.Sound (s.freshStart h) := (Sound.clearLive s).trans (.quiet rfl)

/-- START_ADOPT forgets the memory of the group rows (R157). -/
theorem Sound.adoptStart (h : Header) : s.Sound (s.adoptStart h) where
  canonical := fun ⟨memory, owners, groups, _⟩ => ⟨memory, owners, groups, Sparse.wf_nil⟩
  capacity := id
  link := id
  agenda := id

end State

/-! ### What each command may set -/

/-- What the command `c` leaves alone of what is set from outside (O55). -/
structure Spares (c : Instr) (a b : Outside) : Prop where
  pending : b.pending = a.pending
  now : c ≠ .powerOnReset → b.now = a.now
  base : c ≠ .powerOnReset → c ≠ .linkReset → (∀ r v, c ≠ .registerWrite r v) → b.areaLo = a.areaLo ∧ b.areaHi = a.areaHi
  causeEn : c ≠ .powerOnReset → c ≠ .linkReset → (∀ v, c ≠ .causeEnWrite v) → b.causeEn = a.causeEn
  sweepPer : c ≠ .powerOnReset → c ≠ .linkReset → (∀ v, c ≠ .sweepPerWrite v) → b.sweepPer = a.sweepPer
  mode : c ≠ .powerOnReset → c ≠ .linkReset → c ≠ .modeContinuous → c ≠ .modeOnDemand → b.mode = a.mode
  hold : c ≠ .powerOnReset → c ≠ .linkReset → c ≠ .holdOn → c ≠ .holdOff → b.hold = a.hold
  lines : (∀ u l, c ≠ .darkSenseLineChange u l) → b.lines = a.lines
  header : c ≠ .powerOnReset → c ≠ .clear → (∀ bytes, c ≠ .headerReadDone bytes) →
    b.identity = a.identity ∧ b.groupCount = a.groupCount ∧ b.journalLength = a.journalLength
      ∧ b.conduitHold = a.conduitHold ∧ b.weight = a.weight ∧ b.scrubInterval = a.scrubInterval
      ∧ b.scrubBurst = a.scrubBurst

/-- A command leaves everything alone that stays. -/
theorem Spares.refl (c : Instr) (a : Outside) : Spares c a a where
  pending := rfl
  now := fun _ => rfl
  base := fun _ _ _ => ⟨rfl, rfl⟩
  causeEn := fun _ _ _ => rfl
  sweepPer := fun _ _ _ => rfl
  mode := fun _ _ _ _ => rfl
  hold := fun _ _ _ _ => rfl
  lines := fun _ => rfl
  header := fun _ _ _ => ⟨rfl, rfl, rfl, rfl, rfl, rfl, rfl⟩

/-- A clearing of the live state with what a header supplies leaves alone what the registers and the lines set. -/
theorem Spares.header_values {c : Instr} (a b : Outside) (clears : c = .clear ∨ ∃ bytes, c = .headerReadDone bytes)
    (same : b = { a with
      identity := b.identity, groupCount := b.groupCount, journalLength := b.journalLength, conduitHold := b.conduitHold
      weight := b.weight, scrubInterval := b.scrubInterval, scrubBurst := b.scrubBurst }) : Spares c a b := by
  rw [same]
  exact
    { Spares.refl c a with
      header := fun _ clear read => by
        rcases clears with rfl | ⟨bytes, rfl⟩
        · exact absurd rfl clear
        · exact absurd rfl (read bytes) }

/-- What the execution of the command `c` keeps and leaves alone. -/
structure Executes (c : Instr) (s t : State) : Prop extends State.Sound s t where
  spares : Spares c s.outside t.outside
  memory : c ≠ .powerOnReset → c ≠ .clear → (∀ bytes, c ≠ .headerReadDone bytes) → c ≠ .bucketAccessGrant →
    (∀ k o, c ≠ .parityFault k o) → t.store.memory = s.store.memory

variable {c : Instr} {s t : State}

theorem Executes.event (h : s.Event t) : Executes c s t where
  toSound := h.toSound
  spares := h.outside ▸ .refl c _
  memory := fun _ _ _ _ _ => h.memory

/-- A command that sets only what it may set. -/
theorem Executes.sets (spares : Spares c s.outside t.outside) (same : t.inside = s.inside) : Executes c s t where
  toSound := .quiet same
  spares := spares
  memory := fun _ _ _ _ _ => congrArg Inside.memory same

/-- An event follows what a command sets. -/
theorem Executes.after {v : State} (sets : Executes c s v) (h : v.Event t) : Executes c s t where
  toSound := sets.toSound.trans h.toSound
  spares := h.outside ▸ sets.spares
  memory := fun power clear read grant fault => h.memory.trans (sets.memory power clear read grant fault)

/-- A command that may write buckets. -/
theorem Executes.apart (h : s.Apart t) (writes : c = .bucketAccessGrant ∨ ∃ k o, c = .parityFault k o) :
    Executes c s t where
  toSound := h.toSound
  spares := h.outside ▸ .refl c _
  memory := fun _ _ _ grant fault => by
    rcases writes with rfl | ⟨k, o, rfl⟩
    · exact absurd rfl grant
    · exact absurd rfl (fault k o)

open State (Event Leads Sound)

variable (s)

/-- Power-on keeps the queue and the lines. -/
theorem spares_powerOn : Spares .powerOnReset s.outside s.powerOn.outside where
  pending := rfl
  now := fun h => absurd rfl h
  base := fun h => absurd rfl h
  causeEn := fun h => absurd rfl h
  sweepPer := fun h => absurd rfl h
  mode := fun h => absurd rfl h
  hold := fun h => absurd rfl h
  lines := fun _ => by simp only [State.outside, State.powerOn, Monitor.clear]
  header := fun h => absurd rfl h

theorem keeps_powerOnReset : s.Leads (Executes .powerOnReset) (execPowerOnReset s) :=
  .next ⟨.powerOn s, spares_powerOn s, fun h => absurd rfl h⟩

theorem keeps_linkReset : s.Leads (Executes .linkReset) (execLinkReset s) := by
  have sets : Executes .linkReset s { s with control := s.control.linkReset } := .sets
    { Spares.refl .linkReset s.outside with
      base := fun _ h => absurd rfl h
      causeEn := fun _ h => absurd rfl h
      sweepPer := fun _ h => absurd rfl h
      mode := fun _ h => absurd rfl h
      hold := fun _ h => absurd rfl h } rfl
  unfold execLinkReset
  dsimp only
  split
  · exact .next (sets.after (.enterHeadless _ _))
  · exact .next (sets.after (.abandonStart _))

theorem keeps_darkSenseLineChange (u : Fin 32) (asserted : Bool) :
    s.Leads (Executes (.darkSenseLineChange u asserted)) (execDarkSenseLineChange u asserted s) := by
  have sets : Executes (.darkSenseLineChange u asserted) s
      { s with monitor := { s.monitor with lines := s.monitor.lines.set u asserted } } := .sets
    { Spares.refl (.darkSenseLineChange u asserted) s.outside with lines := fun h => absurd rfl (h u asserted) } rfl
  refine (execDarkSenseLineChange_event s u asserted).mono fun t h => ?_
  rcases h with h | h
  · exact .event h
  · exact sets.after h

/-- A START command's header read: the live state is cleared, or kept, and takes the header's values. -/
theorem keeps_headerReadDone {bytes : List Byte} (size : bytes.length = 256) :
    s.Leads (Executes (.headerReadDone bytes)) (execHeaderReadDone bytes s) := by
  have settled {v : State} (sound : s.Sound v) (spares : Spares (.headerReadDone bytes) s.outside v.outside) :
      Executes (.headerReadDone bytes) s v.settleArea := {
    toSound := sound.trans (Event.settleArea v).toSound
    spares := (Event.settleArea v).outside ▸ spares
    memory := fun _ _ h => absurd rfl (h bytes) }
  unfold execHeaderReadDone
  rw [if_neg (not_not_intro size)]
  split
  · split
    · split
      · exact .next (settled ((Event.endFlight s).toSound.trans (.freshStart _ _))
          (.header_values _ _ (.inr ⟨bytes, rfl⟩) rfl))
      · exact .next (settled ((Event.endFlight s).toSound.trans (.adoptStart _ _))
          (.header_values _ _ (.inr ⟨bytes, rfl⟩) rfl))
    · exact .next (.event ((Event.abandonStart s).trans (.setCause _ _)))
  · exact .next (.event (.refl s))

theorem keeps_clear : s.Leads (Executes .clear) (execClear s) := by
  unfold execClear
  split
  · exact .next (.event (.refuse s _))
  · exact .next {
      toSound := (Sound.clearLive s).trans (.quiet rfl)
      spares := .header_values _ _ (.inl rfl) rfl
      memory := fun _ h => absurd rfl h }

theorem keeps_holdOn : s.Leads (Executes .holdOn) (execHoldOn s) :=
  .next (.sets { Spares.refl .holdOn s.outside with hold := fun _ _ h => absurd rfl h } rfl)

theorem keeps_holdOff : s.Leads (Executes .holdOff) (execHoldOff s) :=
  .next (.sets { Spares.refl .holdOff s.outside with hold := fun _ _ _ h => absurd rfl h } rfl)

theorem keeps_modeContinuous : s.Leads (Executes .modeContinuous) (execModeContinuous s) := by
  have sets : Executes .modeContinuous s { s with control := { s.control with mode := .continuous } } :=
    .sets { Spares.refl .modeContinuous s.outside with mode := fun _ _ h => absurd rfl h } rfl
  unfold execModeContinuous
  dsimp only
  split
  · exact .next (.event (.refl s))
  · split
    · exact .next (sets.after (.startSweepTimer _))
    · exact .next sets

theorem keeps_modeOnDemand : s.Leads (Executes .modeOnDemand) (execModeOnDemand s) := by
  unfold execModeOnDemand
  split
  · exact .next (.event (.refl s))
  · exact .next (.sets { Spares.refl .modeOnDemand s.outside with mode := fun _ _ _ h => absurd rfl h } rfl)

theorem keeps_causeEnWrite (v : BitVec 32) : s.Leads (Executes (.causeEnWrite v)) (execCauseEnWrite v s) :=
  .next (.sets { Spares.refl (.causeEnWrite v) s.outside with causeEn := fun _ _ h => absurd rfl (h v) } rfl)

theorem keeps_sweepPerWrite (v : BitVec 32) : s.Leads (Executes (.sweepPerWrite v)) (execSweepPerWrite v s) :=
  .next (.sets { Spares.refl (.sweepPerWrite v) s.outside with sweepPer := fun _ _ h => absurd rfl (h v) } rfl)

theorem keeps_registerWrite (r : AreaRegister) (v : BitVec 32) :
    s.Leads (Executes (.registerWrite r v)) (execRegisterWrite r v s) := by
  cases r with
  | areaLo =>
    exact .next (.sets
      { Spares.refl (.registerWrite .areaLo v) s.outside with base := fun _ _ h => absurd rfl (h _ v) } rfl)
  | areaHi =>
    exact .next (.sets
      { Spares.refl (.registerWrite .areaHi v) s.outside with base := fun _ _ h => absurd rfl (h _ v) } rfl)

/-! ### Every command -/

/-- Every command that the device can receive leads to a next state, which keeps the invariants and what the command
leaves alone. -/
theorem exec_keeps (c : Instr) (received : c.wellFormed = true) : s.Leads (Executes c) (exec c s) := by
  have event {o : Host.Outcome State Fault Refusal} (h : s.Leads Event o) : s.Leads (Executes c) o := h.mono fun _ => .event
  cases c with
  | powerOnReset => exact keeps_powerOnReset s
  | linkReset => exact keeps_linkReset s
  | darkSenseLineChange u a => exact keeps_darkSenseLineChange s u a
  | lightTimerExpiry u => exact event (execLightTimerExpiry_event s u)
  | windowEnd u => exact event (execWindowEnd_event s u)
  | probeIn n p => exact event (.next (.arriveProbe s n p))
  | settleExpiry u => exact event (execSettleExpiry_event s u)
  | flapEntryAged u => exact event (.next (.ageFlaps s u))
  | drillEndTime u => exact event (execDrillEndTime_event s u)
  | conduitExpiry k => exact event (execConduitExpiry_event s k)
  | lossOfLock => exact event (execLossOfLock_event s)
  | lockRegained => exact event (execLockRegained_event s)
  | hello v => exact event (.next (.arriveHello s v))
  | lookup t g h => exact event (.next (.arriveLookup s _))
  | messageDiscard bytes => exact event (execMessageDiscard_event s bytes)
  | messageSent => exact event (execMessageSent_event s)
  | lookupTaken => exact event (execLookupTaken_event s)
  | lookupBucketReadDone => exact event (execLookupBucketReadDone_event s)
  | escapeReadDone => exact event (execEscapeReadDone_event s)
  | bucketAccessGrant => exact (execBucketAccessGrant_apart s).mono fun _ h => .apart h (.inl rfl)
  | parityFault k o => exact (execParityFault_apart s k o).mono fun _ h => .apart h (.inr ⟨k, o, rfl⟩)
  | scrubTimerExpiry => exact event (execScrubTimerExpiry_event s)
  | scrubReadDone => exact event (execScrubReadDone_event s)
  | scrubWriteDone => exact event (execScrubWriteDone_event s)
  | snapshotReadDone => exact event (execSnapshotReadDone_event s)
  | snapshotEntryWritten => exact event (execSnapshotEntryWritten_event s)
  | workSelect => exact event (execWorkSelect_event s)
  | walkStepAccessDone => exact event (execWalkStepAccessDone_event s)
  | blockStepWriteDone => exact event (execBlockStepWriteDone_event s)
  | settlePassAccessDone => exact event (execSettlePassAccessDone_event s)
  | fixAccessDone => exact event (execFixAccessDone_event s)
  | sweepTimerExpiry => exact event (execSweepTimerExpiry_event s)
  | rowReadDone bytes => exact event (execRowReadDone_event s (by simpa [Instr.wellFormed] using received))
  | orderSlotReadDone bytes => exact event (execOrderSlotReadDone_event s (by simpa [Instr.wellFormed] using received))
  | drillStart => exact event (execDrillStart_event s)
  | drillEnd => exact event (execDrillEnd_event s)
  | release => exact event (execRelease_event s)
  | pin => exact event (execPin_event s)
  | unpin => exact event (execUnpin_event s)
  | conduitClear => exact event (execConduitClear_event s)
  | snapshot => exact event (execSnapshot_event s)
  | slotResultWritten => exact event (execSlotResultWritten_event s)
  | slotStateWritten => exact event (execSlotStateWritten_event s)
  | journalKindReadDone kind => exact event (execJournalKindReadDone_event s kind)
  | journalBodyWritten => exact event (execJournalBodyWritten_event s)
  | journalKindWritten => exact event (execJournalKindWritten_event s)
  | statusPageWriteDone => exact event (execStatusPageWriteDone_event s)
  | areaFault => exact event (execAreaFault_event s)
  | headerReadDone bytes => exact keeps_headerReadDone s (by simpa [Instr.wellFormed] using received)
  | startFresh => exact event (execStartFresh_event s)
  | startAdopt => exact event (execStartAdopt_event s)
  | stop => exact event (execStop_event s)
  | clear => exact keeps_clear s
  | nudge => exact event (execNudge_event s)
  | holdOn => exact keeps_holdOn s
  | holdOff => exact keeps_holdOff s
  | modeContinuous => exact keeps_modeContinuous s
  | modeOnDemand => exact keeps_modeOnDemand s
  | unknownCommand v => exact event (execUnknownCommand_event s (by simpa [Instr.wellFormed] using received))
  | causeRead => exact event (execCauseRead_event s)
  | causeEnWrite v => exact keeps_causeEnWrite s v
  | sweepPerWrite v => exact keeps_sweepPerWrite s v
  | registerWrite r v => exact keeps_registerWrite s r v

/-- A term that is no command is refused: a read of another size, and a named command's code as an unknown one. -/
theorem exec_refuses (c : Instr) (malformed : c.wellFormed = false) : exec c s = .refused .illFormed := by
  cases c with
  | rowReadDone bytes => exact if_pos (by simpa [Instr.wellFormed] using malformed)
  | orderSlotReadDone bytes => exact if_pos (by simpa [Instr.wellFormed] using malformed)
  | headerReadDone bytes => exact if_pos (by simpa [Instr.wellFormed] using malformed)
  | unknownCommand v => exact if_pos (by simpa [Instr.wellFormed] using malformed)
  | _ => simp [Instr.wellFormed] at malformed

variable {s}

/-- A next state keeps the invariants and what the command leaves alone. -/
theorem keeps_of_exec (next : exec c s = .next t) : Executes c s t := by
  cases received : c.wellFormed with
  | true =>
    obtain ⟨v, same, kept⟩ := (exec_keeps s c received).exists
    rw [next] at same
    cases same
    exact kept
  | false =>
    rw [exec_refuses s c received] at next
    cases next

/-- The idle step only advances time and queues commands. -/
theorem idle_sound (s : State) : s.Sound s.idle := by
  unfold State.idle
  split
  · exact .quiet rfl
  · exact .quiet rfl

/-- Every step keeps the invariants. -/
theorem step_sound (next : step s = .next t) : s.Sound t := by
  unfold step at next
  split at next
  · cases next
    exact idle_sound s
  · next c rest _ => exact (Sound.quiet (s := s) (t := { s with pending := rest }) rfl).trans (keeps_of_exec next).toSound

/-- Settles O57: the canonical form is one of the invariants that each command and the idle step keep. -/
theorem stepKeepsCanonicalForm : Obligations.StepKeepsCanonicalForm := fun _ _ h next => (step_sound next).canonical h

/-- Settles O58: the capacities are among the invariants that each command and the idle step keep. -/
theorem stepKeepsQueuesWithinCapacity : Obligations.StepKeepsQueuesWithinCapacity :=
  fun _ _ h next => (step_sound next).capacity h

/-- Settles O59: the link out of lock and the walk agenda are among the invariants that each command and the idle step
keep. -/
theorem stepKeepsLinkAndAgendaSound : Obligations.StepKeepsLinkAndAgendaSound :=
  fun _ _ next => ⟨(step_sound next).link, (step_sound next).agenda⟩

/-- Settles O3: every meaning is total on the commands, and checks the others' sizes and codes. -/
theorem everyCommandCompletes : Obligations.EveryCommandCompletes := by
  refine fun c s => ⟨fun received => ?_, exec_refuses s c⟩
  obtain ⟨t, next, -⟩ := (exec_keeps s c received).exists
  exact ⟨t, next⟩

/-- Settles O55: what each command keeps of what is set from outside, and the bucket memory. -/
theorem commandsLeaveTheRestAlone : Obligations.CommandsLeaveTheRestAlone := by
  intro c s t next
  have kept := keeps_of_exec next
  have spares := kept.spares
  refine ⟨spares.pending, spares.now, spares.base, spares.causeEn, spares.sweepPer, spares.mode, spares.hold,
    spares.lines, fun power clear read => ?_⟩
  obtain ⟨identity, groupCount, journalLength, hold, weight, interval, burst⟩ := spares.header power clear read
  exact ⟨identity, groupCount, journalLength, hold, weight, interval, burst, fun grant fault i =>
    congrArg (Memory.read · i) (kept.memory power clear read grant fault)⟩

end Sys2Proof.Machine
end

section
/-! PROOF. O1, O2, O4, O6, O7, O8, O9, O37 and O56: steps and the idle step, power-on and CLEAR, the registers, refused
commands and offers of fixes. -/

namespace Sys2Proof.Machine

/-- Settles O1: `step` runs the command at the front on the rest of the queue. -/
theorem stepRunsTheFrontCommand : Obligations.StepRunsTheFrontCommand := by
  intro c rest s queued
  unfold step
  rw [queued]

/-- Settles O56: after reset the tables, the queues and the agenda are empty, and the link is DOWN. -/
theorem resetIsSound : Obligations.ResetIsSound :=
  ⟨⟨Memory.wf_empty, Sparse.wf_nil, Sparse.wf_nil, Sparse.wf_nil⟩,
    ⟨Nat.zero_le _, Nat.zero_le _, Nat.zero_le _, Nat.zero_le _⟩, fun _ => ⟨rfl, rfl, rfl⟩, List.nodup_nil⟩

/-! ### The idle step -/

/-- An open order rearranges the list. -/
theorem anyOrder_perm {α : Type} (l : List α) (n : Nat) : (anyOrder l n).1.Perm l := by
  induction l generalizing n with
  | nil => exact .refl _
  | cons a t ih =>
    cases t with
    | nil => exact .refl _
    | cons b t =>
      have place : Config.openOrder (anyOrder (b :: t) n).2 % ((anyOrder (b :: t) n).1.length + 1)
          ≤ (anyOrder (b :: t) n).1.length := Nat.le_of_lt_succ (Nat.mod_lt _ (Nat.succ_pos _))
      exact (List.perm_insertIdx a _ place).trans ((ih n).cons a)

/-- Exactly the commands given are queued. -/
theorem mem_enqueue (s : State) (cs : List Instr) (c : Instr) : c ∈ (s.enqueue cs).pending ↔ c ∈ cs :=
  (anyOrder_perm cs s.openCount).mem_iff

theorem mem_offer {condition : Bool} {c d : Instr} : c ∈ offer condition d ↔ c = d ∧ condition = true := by
  unfold offer
  cases condition <;> simp

theorem flapDue_iff (r : UplinkRecord) (now : PartTime) :
    r.flapDue now = true ↔ ∃ t rest, r.flaps = t :: rest ∧ 1000000 * r.params.flapWindow < span t now := by
  unfold UplinkRecord.flapDue flapSpan
  cases r.flaps with
  | nil => simp
  | cons t rest => simp

theorem mem_uplinkDue (s : State) (u : Fin 32) (c : Instr) : c ∈ s.uplinkDue u ↔
    (c = .lightTimerExpiry u ∧ (s.uplink u).lightTimer = some s.now)
    ∨ (c = .windowEnd u ∧ (s.uplink u).windowEnd = some s.now)
    ∨ (c = .settleExpiry u ∧ (s.uplink u).state = .settling ∧ (s.uplink u).settleExpiry = some s.now)
    ∨ (c = .flapEntryAged u ∧ ∃ t rest, (s.uplink u).flaps = t :: rest
        ∧ 1000000 * (s.uplink u).params.flapWindow < span t s.now)
    ∨ (c = .drillEndTime u ∧ ∃ d, (s.uplink u).drill = some d ∧ d.endTime = s.now) := by
  unfold State.uplinkDue
  simp only [List.mem_append, mem_offer, beq_iff_eq, Bool.and_eq_true, flapDue_iff, Option.any_eq_true, or_assoc]

theorem areaTimedOut_iff (s : State) :
    s.areaTimedOut = true ↔ ∃ f, s.area.flight = some f ∧ f.granted + 10000 = s.now := by
  unfold State.areaTimedOut
  simp [Option.any_eq_true, Config.areaTimeout]

theorem mem_dueEvents (s : State) (c : Instr) : c ∈ s.dueEvents ↔
    (∃ u, c ∈ s.uplinkDue u) ∨ (∃ k a, c = .conduitExpiry k ∧ s.alarm k = some a ∧ a.expiry = s.now)
    ∨ (c = .scrubTimerExpiry ∧ s.store.scrubTimer = s.now)
    ∨ (c = .sweepTimerExpiry ∧ s.area.sweepTimer = some s.now)
    ∨ (∃ f, c = .areaFault ∧ s.area.flight = some f ∧ f.granted + 10000 = s.now) := by
  unfold State.dueEvents
  simp only [List.mem_append, List.mem_flatMap, List.mem_finRange, true_and, mem_offer, beq_iff_eq, areaTimedOut_iff,
    Option.any_eq_true, or_assoc, exists_and_left]

/-- What the arbiter would grant, spelled out. -/
theorem wouldGrant_iff (s : State) : s.wouldGrant = true ↔ s.store.access = none
    ∧ (s.port.wantsAccess = true ∨ s.engineWaits = true ∨ s.scrubWaits = true ∨ s.snapshotWaits = true) := by
  unfold State.wouldGrant
  simp only [Bool.and_eq_true, Option.isNone_iff_eq_none, Bool.or_eq_true, or_assoc]

theorem canTake_iff (p : Port) :
    p.canTake = true ↔ p.queue ≠ [] ∧ p.resolution = none ∧ p.lane.length < 8 := by
  unfold Port.canTake
  simp only [Bool.and_eq_true, Bool.not_eq_true', List.isEmpty_eq_false_iff, Option.isNone_iff_eq_none,
    decide_eq_true_eq, and_assoc]
  exact Iff.rfl

theorem hasWork_iff (e : WalkEngine) : e.hasWork = true ↔ e.urgent ≠ [] ∨ e.restore ≠ [] ∨ e.intake ≠ [] := by
  unfold WalkEngine.hasWork
  simp [or_assoc]

theorem mem_readyActs (s : State) (c : Instr) : c ∈ s.readyActs ↔
    (c = .lookupTaken ∧ s.port.canTake = true)
    ∨ (c = .workSelect ∧ s.engine.work = none ∧ s.engine.hasWork = true)
    ∨ (c = .bucketAccessGrant ∧ s.wouldGrant = true) := by
  unfold State.readyActs
  simp only [List.mem_append, mem_offer, Bool.and_eq_true, Option.isNone_iff_eq_none, or_assoc]

/-- Settles O2: the idle step and what it queues, source by source. -/
theorem emptyQueueAdvancesTime : Obligations.EmptyQueueAdvancesTime := by
  refine ⟨fun s empty => ⟨fun idle => ?_, fun ready => ?_⟩, fun s c => ?_, fun s c => ?_⟩
  · refine ⟨s.tick.enqueue s.tick.dueEvents, ?_, mem_enqueue _ _, rfl⟩
    unfold step State.idle
    rw [empty, idle]
  · obtain ⟨a, as, acts⟩ := List.exists_cons_of_ne_nil ready
    refine ⟨s.enqueue s.readyActs, ?_, mem_enqueue _ _, rfl⟩
    unfold step State.idle
    rw [empty, acts]
  · rw [mem_dueEvents]
    simp only [mem_uplinkDue, exists_or, or_assoc, exists_and_left]
  · rw [mem_readyActs, canTake_iff, hasWork_iff, wouldGrant_iff]

/-! ### Power-on and CLEAR -/

/-- An uplink's record after a clear: the reset record, its light timer started for a deasserted line (R3, R29). -/
theorem clear_uplink (m : Monitor) (now : PartTime) (u : Fin 32) : (m.clear now).uplinks.get u =
    { UplinkRecord.reset with lightTimer := if m.lines.get u = true then none else some (now + 50) } := by
  simp only [Monitor.clear, Vector.get_ofFn, startLightTimer]
  rfl

/-- With every line asserted no light timer runs after power-on (R3). -/
theorem clear_of_asserted (m : Monitor) (lines : ∀ u, m.lines.get u = true) : m.clear 0 = Monitor.reset := by
  have uplinks : (m.clear 0).uplinks = Monitor.reset.uplinks := by
    refine Vector.ext fun i h => ?_
    have record := clear_uplink m 0 ⟨i, h⟩
    rw [lines, if_pos rfl] at record
    exact record.trans (Vector.get_replicate ..).symm
  have levels : m.lines = Monitor.reset.lines := by
    refine Vector.ext fun i h => ?_
    exact (lines ⟨i, h⟩).trans (Vector.get_replicate ..).symm
  calc m.clear 0 = { uplinks := (m.clear 0).uplinks, lines := m.lines } := rfl
    _ = Monitor.reset := by rw [uplinks, levels]

/-- Settles O4: each part of power-on, and the reset state as the one it leaves. -/
theorem powerOnResetLeavesResetValues : Obligations.PowerOnResetLeavesResetValues := by
  refine ⟨fun s => ⟨s.powerOn, rfl, rfl, rfl, rfl, rfl, rfl, rfl, rfl, rfl, rfl, rfl, rfl, rfl, rfl, rfl, ?_, ?_, ?_, rfl,
    fun _ => rfl, fun _ _ => rfl, fun _ => rfl, rfl, ?_, rfl, rfl, rfl, rfl, rfl, rfl, rfl, rfl, rfl, rfl, rfl, rfl⟩, ?_⟩
  case refine_1 => simp only [State.powerOn, Monitor.clear]
  case refine_2 =>
    intro u
    exact (clear_uplink s.monitor 0 u).trans (by simp)
  case refine_3 => intro c; exact Vector.get_replicate ..
  case refine_4 => intro u; exact Vector.get_replicate ..
  case refine_5 =>
    intro s lines lock data sent count empty
    have monitor := clear_of_asserted s.monitor lines
    change Host.Outcome.next s.powerOn = _
    unfold State.powerOn
    rw [monitor, lock, data, sent, count, empty]
    rfl

/-- The Port's own requesters are the lookup's two reads. -/
theorem isPort_iff (r : Requester) : r.isPort = true ↔ r = .lookup ∨ r = .escape := by
  cases r <;> simp [Requester.isPort]

/-- Settles O9: each block's CLEAR values, and what CLEAR keeps. -/
theorem clearTakesClearValues : Obligations.ClearTakesClearValues := by
  intro s idle started
  have accepted : exec .clear s = .next { s.clearLive with control := { s.clearLive.control with runState := .off } } := by
    refine if_neg ?_
    simp [State.startInFlight, idle, started]
  refine ⟨_, accepted, rfl, ?_, rfl, rfl, clear_uplink s.monitor s.now, fun c => Vector.get_replicate .., rfl,
    fun _ => rfl, fun _ _ => rfl, fun _ => rfl, fun u => Vector.get_replicate .., rfl, rfl, rfl, rfl, rfl, rfl, rfl, rfl,
    ?_, rfl, rfl⟩
  case refine_1 => simp only [State.clearLive, Monitor.clear]
  case refine_2 => simp only [State.clearLive, BucketStore.clear, isPort_iff]

/-! ### Registers -/

/-- SWEEP_PER is held within 1 to 1000 (R164). -/
theorem sweepPer_stored (n : Nat) : min 1000 (max 1 n) = if n < 1 then 1 else if 1000 < n then 1000 else n := by
  split
  · omega
  · split <;> omega

/-- Settles O6: each command's register, and the offsets of the register window. -/
theorem holdAndModeCommandsSetTheirRegisters : Obligations.HoldAndModeCommandsSetTheirRegisters := by
  refine ⟨⟨fun s => ⟨rfl, rfl⟩, fun s => ⟨fun mode => if_pos mode, fun mode => if_pos mode, fun mode state => ?_,
    fun mode state => ?_, fun mode => ?_⟩⟩, fun s v => ⟨?_, rfl, rfl⟩, fun v => ⟨rfl, rfl, rfl, rfl, rfl, ?_⟩⟩
  case refine_1 => exact (if_neg (by simp [mode])).trans (if_neg state)
  case refine_2 => exact (if_neg (by simp [mode])).trans (if_pos state)
  case refine_3 => exact if_neg (by simp [mode])
  case refine_4 =>
    change execSweepPerWrite v s = _
    unfold execSweepPerWrite
    rw [sweepPer_stored]
  case refine_5 =>
    intro offset other
    simp only [List.mem_cons, List.not_mem_nil, or_false, not_or] at other
    obtain ⟨areaLo, areaHi, runCtrl, causeEn, sweepPer⟩ := other
    unfold Instr.ofRegisterWrite
    split
    · exact absurd rfl areaLo
    · exact absurd rfl areaHi
    · exact absurd rfl runCtrl
    · exact absurd rfl causeEn
    · exact absurd rfl sweepPer
    · rfl

/-- The interrupt rises as R162 says. -/
theorem interruptRises_iff (a b c d : BitVec 32) :
    interruptRises a b c d = true ↔ a &&& b = 0 ∧ c &&& d ≠ 0 := by
  simp [interruptRises]

/-- Where no enabled cause was set, setting a cause leaves the enabled ones of it. -/
theorem or_and_of_clear {a b e : BitVec 32} (clear : a &&& e = 0) : (a ||| b) &&& e = b &&& e := by
  have split : (a ||| b) &&& e = (a &&& e) ||| (b &&& e) := by
    ext i
    simp only [BitVec.getElem_and, BitVec.getElem_or]
    cases a[i] <;> simp
  rw [split, clear]
  exact BitVec.zero_or

/-- A cause sets its bit, and sends the interrupt exactly when none was enabled and set, and it is enabled (R162). -/
theorem setCause_eq (s : State) (c : Cause) : s.setCause c = { s with control := { s.control with
    cause := s.control.cause ||| c.bit
    interruptsSent := s.control.interruptsSent +
      if s.control.cause &&& s.control.causeEn = 0 ∧ c.bit &&& s.control.causeEn ≠ 0 then 1 else 0 } } := by
  have rises : interruptRises s.control.cause s.control.causeEn (s.control.cause ||| c.bit) s.control.causeEn = true
      ↔ s.control.cause &&& s.control.causeEn = 0 ∧ c.bit &&& s.control.causeEn ≠ 0 := by
    rw [interruptRises_iff]
    exact and_congr_right fun clear => by rw [or_and_of_clear clear]
  unfold State.setCause RunControl.setCause
  by_cases h : s.control.cause &&& s.control.causeEn = 0 ∧ c.bit &&& s.control.causeEn ≠ 0
  · rw [if_pos (rises.mpr h), if_pos h]
  · rw [if_neg fun r => h (rises.mp r), if_neg h, Nat.add_zero]

/-- A cause that is set already changes nothing. -/
theorem setCause_of_set (s : State) (c : Cause) (set : s.control.cause &&& c.bit = c.bit) : s.setCause c = s := by
  have same : s.control.cause ||| c.bit = s.control.cause := by
    rw [← set]
    ext i
    simp only [BitVec.getElem_or, BitVec.getElem_and]
    cases s.control.cause[i] <;> simp
  have quiet : ¬ interruptRises s.control.cause s.control.causeEn s.control.cause s.control.causeEn = true := by
    rw [interruptRises_iff]
    exact fun h => h.2 h.1
  unfold State.setCause RunControl.setCause
  rw [same, if_neg quiet]

/-- The low byte of RUN_STAT is the sum of its fields (spec 12, §12.7). -/
theorem runStat_low (state : RunState) (mode : SweepMode) (hold converged sweep : Bool) :
    BitVec.ofNat 32 state.code ||| ((if mode = .onDemand then 0x04 else 0 : Nat) : BitVec 32)
      ||| ((if hold then 0x08 else 0 : Nat) : BitVec 32) ||| ((if converged then 0x10 else 0 : Nat) : BitVec 32)
      ||| ((if sweep then 0x20 else 0 : Nat) : BitVec 32)
    = BitVec.ofNat 32 (state.code + (match mode with | .continuous => 0 | .onDemand => 4) + (if hold then 8 else 0)
        + (if converged then 16 else 0) + (if sweep then 32 else 0)) := by
  revert hold converged sweep
  cases state <;> cases mode <;> decide

/-- A field above the low byte is added to it. -/
theorem or_shifted_byte (low : Nat) (high : BitVec 4) (small : low < 256) :
    BitVec.ofNat 32 low ||| (high.setWidth 32 <<< 8) = BitVec.ofNat 32 (low + 256 * high.toNat) := by
  have bound := high.isLt
  refine BitVec.eq_of_toNat_eq ?_
  have shifted : (high.setWidth 32 <<< 8).toNat = high.toNat <<< 8 := by
    rw [BitVec.toNat_shiftLeft, BitVec.toNat_setWidth, Nat.mod_eq_of_lt (by omega : high.toNat < 2 ^ 32),
      Nat.mod_eq_of_lt]
    rw [Nat.shiftLeft_eq]
    omega
  rw [BitVec.toNat_or, shifted, BitVec.toNat_ofNat, BitVec.toNat_ofNat, Nat.mod_eq_of_lt (by omega : low < 2 ^ 32),
    Nat.mod_eq_of_lt (by omega : low + 256 * high.toNat < 2 ^ 32), Nat.or_comm,
    ← Nat.shiftLeft_add_eq_or_of_lt (i := 8) small, Nat.shiftLeft_eq]
  omega

/-- RUN_STAT as the sum of its fields (R164; spec 12, §12.7). -/
theorem runStat_eq (s : State) : s.runStat = BitVec.ofNat 32 (s.control.runState.code
    + (match s.control.mode with | .continuous => 0 | .onDemand => 4) + (if s.control.hold then 8 else 0)
    + (if s.area.converged then 16 else 0) + (if s.area.sweep = none then 0 else 32)
    + 256 * s.control.lastRefused.toNat) := by
  have active : (if s.area.sweep = none then 0 else 32) = if s.area.sweep.isSome then 32 else 0 := by
    cases s.area.sweep <;> rfl
  unfold State.runStat
  rw [runStat_low, active, or_shifted_byte]
  have state : s.control.runState.code ≤ 3 := by cases s.control.runState <;> decide
  have mode : (match s.control.mode with | .continuous => 0 | .onDemand => 4) ≤ 4 := by
    cases s.control.mode <;> decide
  have bit (c : Prop) [Decidable c] (n : Nat) : (if c then n else 0) ≤ n := by split <;> omega
  have hold := bit (s.control.hold = true) 8
  have converged := bit (s.area.converged = true) 16
  have sweep := bit (s.area.sweep.isSome = true) 32
  omega

/-- Settles O7: CAUSE and CAUSE_EN, what setting a cause does, and the reads of the register window. -/
theorem causeRegistersReadAndEnable : Obligations.CauseRegistersReadAndEnable := by
  refine ⟨⟨fun s => rfl, fun s v => ?_⟩, fun s c => ⟨setCause_eq s c, setCause_of_set s c⟩, fun s => ?_, fun _ => rfl⟩
  · change execCauseEnWrite v s = _
    have rises := interruptRises_iff s.control.cause s.control.causeEn s.control.cause (v &&& 0x7F)
    unfold execCauseEnWrite causeMask
    by_cases h : s.control.cause &&& s.control.causeEn = 0 ∧ s.control.cause &&& (v &&& 0x7F) ≠ 0
    · rw [if_pos (rises.mpr h), if_pos h]
    · rw [if_neg fun r => h (rises.mp r), if_neg h, Nat.add_zero]
  · refine ⟨rfl, rfl, rfl, congrArg some (runStat_eq s), rfl, rfl, rfl, fun offset other => ?_⟩
    simp only [List.mem_cons, List.not_mem_nil, or_false, not_or] at other
    obtain ⟨areaLo, areaHi, runCtrl, runStat, cause, causeEn, sweepPer⟩ := other
    unfold State.readRegister
    split
    · exact absurd rfl areaLo
    · exact absurd rfl areaHi
    · exact absurd rfl runCtrl
    · exact absurd rfl runStat
    · exact absurd rfl cause
    · exact absurd rfl causeEn
    · exact absurd rfl sweepPer
    · rfl

/-! ### Refused commands -/

/-- A value above 9, like 0, names no command (R165). -/
theorem ofRunCtrl_unknown (v : BitVec 32) (unknown : v = 0 ∨ 9 < v.toNat) : Instr.ofRunCtrl v = .unknownCommand v := by
  have other (n : Nat) (one : 1 ≤ n) (nine : n ≤ 9) : v.toNat ≠ n := by
    rcases unknown with rfl | large
    · exact (Nat.ne_of_lt one)
    · omega
  unfold Instr.ofRunCtrl
  split
  · exact absurd ‹v.toNat = 1› (other 1 (by omega) (by omega))
  · exact absurd ‹v.toNat = 2› (other 2 (by omega) (by omega))
  · exact absurd ‹v.toNat = 3› (other 3 (by omega) (by omega))
  · exact absurd ‹v.toNat = 4› (other 4 (by omega) (by omega))
  · exact absurd ‹v.toNat = 5› (other 5 (by omega) (by omega))
  · exact absurd ‹v.toNat = 6› (other 6 (by omega) (by omega))
  · exact absurd ‹v.toNat = 7› (other 7 (by omega) (by omega))
  · exact absurd ‹v.toNat = 8› (other 8 (by omega) (by omega))
  · exact absurd ‹v.toNat = 9› (other 9 (by omega) (by omega))
  · rfl

theorem namesCommand_unknown (v : BitVec 32) (unknown : v = 0 ∨ 9 < v.toNat) : namesCommand v = false := by
  unfold namesCommand
  rcases unknown with rfl | large
  · rfl
  · simp [large]

/-- A value of RUN_CTRL either names a command or is none of the nine. -/
theorem ofRunCtrl_wellFormed (v : BitVec 32) : (Instr.ofRunCtrl v).wellFormed = true := by
  by_cases unknown : v = 0 ∨ 9 < v.toNat
  · rw [ofRunCtrl_unknown v unknown]
    simp [Instr.wellFormed, namesCommand_unknown v unknown]
  · rw [not_or] at unknown
    obtain ⟨nonzero, small⟩ := unknown
    have positive : v.toNat ≠ 0 := fun h => nonzero (BitVec.eq_of_toNat_eq h)
    have named : v.toNat = 1 ∨ v.toNat = 2 ∨ v.toNat = 3 ∨ v.toNat = 4 ∨ v.toNat = 5 ∨ v.toNat = 6 ∨ v.toNat = 7
        ∨ v.toNat = 8 ∨ v.toNat = 9 := by omega
    unfold Instr.ofRunCtrl
    rcases named with h | h | h | h | h | h | h | h | h
    all_goals
      rw [h]
      rfl

/-- Settles O8: each refused command takes its refusing branch. -/
theorem refusedCommandsChangeNothing : Obligations.RefusedCommandsChangeNothing := by
  intro s v
  refine ⟨fun refused => ?_, fun refused => ?_, fun unknown => ⟨ofRunCtrl_unknown v unknown, ?_⟩, by decide,
    ofRunCtrl_wellFormed v⟩
  · have branch : (s.control.runState.active || s.startInFlight) = true := by
      rcases refused with active | started
      · simp [active]
      · simp [State.startInFlight, Option.isSome_iff_ne_none, started]
    exact ⟨if_pos branch, if_pos branch, if_pos branch⟩
  · have branch : (!s.control.runState.active || s.startInFlight) = true := by
      rcases refused with idle | started
      · simp [idle]
      · simp [State.startInFlight, Option.isSome_iff_ne_none, started]
    exact if_pos branch
  · exact if_neg (by simp [namesCommand_unknown v unknown])

/-! ### Offers of fixes -/

/-- Settles O37: the three branches of an offer. -/
theorem fixOffersJoinOnce : Obligations.FixOffersJoinOnce := by
  intro s item
  refine ⟨fun waits => if_pos ?_, fun new room => ?_, fun full => ?_⟩
  · simpa using waits
  · have absent : ¬ (s.store.fixQueue.any fun i => i.group == item.group && i.bucket == item.bucket) = true := by
      simpa [imp_iff_not_or] using new
    exact (if_neg absent).trans (if_pos room)
  · unfold State.offerFix
    split
    · rfl
    · exact if_neg (Nat.not_lt.mpr full)

end Sys2Proof.Machine
end

section
/-! PROOF. What the end of an event makes of the accesses that wait (R145), and that the records of an event set no cause
but GAP (R159, R161). -/

namespace Sys2Proof.Machine.State

variable (s : State)

/-! ### The end of an event -/

/-- Out of STARTING and RUNNING the journal writer takes no record (R158). -/
theorem wakeWriter_of_inactive (inactive : s.control.runState.active = false) : s.wakeWriter = s := by
  unfold wakeWriter
  exact if_neg (by simp [inactive])

/-- No record waits: the journal writer takes none. -/
theorem wakeWriter_of_empty (empty : s.area.holding = []) : s.wakeWriter = s := by
  unfold wakeWriter
  exact if_neg (by simp [empty])

/-- While a STOPPED record is tried the journal writer takes none (R166). -/
theorem wakeWriter_of_stopTry (tried : s.area.stopTry ≠ none) : s.wakeWriter = s := by
  unfold wakeWriter
  refine if_neg ?_
  simp [tried]

/-- The journal writer at work takes no other record. -/
theorem wakeWriter_of_writer (busy : s.area.writer ≠ .idle) : s.wakeWriter = s := by
  unfold wakeWriter
  exact if_neg (by simp [busy])

/-- A blocked journal takes no record (R158). -/
theorem wakeWriter_of_blocked (blocked : s.area.blocked = true) : s.wakeWriter = s := by
  unfold wakeWriter
  exact if_neg (by simp [blocked])

/-- Nothing requested: nothing joins the waiting accesses. -/
theorem queueRequests_nil (none : s.area.requested = []) : s.queueRequests = s := by
  unfold queueRequests
  rw [none]
  simp only [anyOrder, List.append_nil]
  rw [← none]

/-- The one access requested joins the waiting ones. -/
theorem queueRequests_single {a : AreaAccess} (one : s.area.requested = [a]) : s.queueRequests =
    { s with area := { s.area with waiting := s.area.waiting ++ [a], requested := [] } } := by
  unfold queueRequests
  rw [one]
  rfl

/-- While an access is in progress none is granted (R145). -/
theorem grantArea_of_flight {f : Flight} (busy : s.area.flight = some f) : s.grantArea = s := by
  unfold grantArea
  rw [busy]

/-- With none waiting none is granted. -/
theorem grantArea_of_waiting_nil (none : s.area.waiting = []) : s.grantArea = s := by
  unfold grantArea
  rw [none]
  cases s.area.flight <;> rfl

/-- The access that waits first is granted (R145). -/
theorem grantArea_of_waiting {a : AreaAccess} {rest : List AreaAccess} (free : s.area.flight = none)
    (first : s.area.waiting = a :: rest) :
    s.grantArea = { s with area := { s.area with flight := some (s.launch a), waiting := rest } } := by
  unfold grantArea
  rw [free, first]

theorem grantArea_eq : s.grantArea = { s with area := { s.area with
    flight := s.grantArea.area.flight, waiting := s.grantArea.area.waiting } } := by
  unfold grantArea
  split <;> rfl

theorem queueRequests_eq : s.queueRequests = { s with
    area := { s.area with waiting := s.queueRequests.area.waiting, requested := [] }
    openCount := s.queueRequests.openCount } := rfl

theorem wakeWriter_eq : s.wakeWriter = { s with area := { s.area with
    writer := s.wakeWriter.area.writer, requested := s.wakeWriter.area.requested } } := by
  unfold wakeWriter
  split <;> rfl

/-- The end of an event changes the writer's phase, the accesses and the counter of open orders at most. -/
theorem settleArea_eq : s.settleArea = { s with
    area := { s.area with
      writer := s.settleArea.area.writer, flight := s.settleArea.area.flight, waiting := s.settleArea.area.waiting
      requested := [] }
    openCount := s.settleArea.openCount } := by
  unfold settleArea
  rw [grantArea_eq, queueRequests_eq, wakeWriter_eq]

/-- The Area Interface at the end of an event. -/
theorem settleArea_area : s.settleArea.area = { s.area with
    writer := s.settleArea.area.writer, flight := s.settleArea.area.flight, waiting := s.settleArea.area.waiting
    requested := [] } := congrArg State.area s.settleArea_eq

/-- What an event that leaves the journal writer alone ends as. -/
theorem settleArea_of_wakeWriter (asleep : s.wakeWriter = s) : s.settleArea = s.queueRequests.grantArea := by
  unfold settleArea
  rw [asleep]

/-- The access in progress stays in progress at the end of an event (R145). -/
theorem settleArea_flight {f : Flight} (busy : s.area.flight = some f) : s.settleArea.area.flight = some f := by
  have kept : s.wakeWriter.queueRequests.area.flight = some f := by
    rw [queueRequests_eq, wakeWriter_eq]
    exact busy
  unfold settleArea
  rw [grantArea_of_flight _ kept]
  exact kept

/-- The writer's phase stays where the writer takes no record. -/
theorem settleArea_writer (asleep : s.wakeWriter = s) : s.settleArea.area.writer = s.area.writer := by
  rw [s.settleArea_of_wakeWriter asleep, grantArea_eq, queueRequests_eq]

/-- With nothing requested and no access waiting, an event leaves the accesses as they are. -/
theorem settleArea_nothing (asleep : s.wakeWriter = s) (requested : s.area.requested = []) (waiting : s.area.waiting = []) :
    s.settleArea = s := by
  rw [s.settleArea_of_wakeWriter asleep, s.queueRequests_nil requested, s.grantArea_of_waiting_nil waiting]

/-- With nothing requested, the access that waits first is granted. -/
theorem settleArea_grants {a : AreaAccess} {rest : List AreaAccess} (asleep : s.wakeWriter = s)
    (requested : s.area.requested = []) (free : s.area.flight = none) (waiting : s.area.waiting = a :: rest) :
    s.settleArea = { s with area := { s.area with flight := some (s.launch a), waiting := rest } } := by
  rw [s.settleArea_of_wakeWriter asleep, s.queueRequests_nil requested, s.grantArea_of_waiting free waiting]

/-- The one access requested is granted where no other waits or is in progress. -/
theorem settleArea_begins {a : AreaAccess} (asleep : s.wakeWriter = s) (requested : s.area.requested = [a])
    (free : s.area.flight = none) (waiting : s.area.waiting = []) :
    s.settleArea = { s with area := { s.area with flight := some (s.launch a), waiting := [], requested := [] } } := by
  rw [s.settleArea_of_wakeWriter asleep, s.queueRequests_single requested, grantArea_of_waiting (rest := [])]
  · rfl
  · exact free
  · exact congrArg (· ++ [a]) waiting

/-- The one access requested waits while another is in progress. -/
theorem settleArea_waits {a : AreaAccess} {f : Flight} (asleep : s.wakeWriter = s) (requested : s.area.requested = [a])
    (busy : s.area.flight = some f) :
    s.settleArea = { s with area := { s.area with waiting := s.area.waiting ++ [a], requested := [] } } := by
  rw [s.settleArea_of_wakeWriter asleep, s.queueRequests_single requested]
  exact grantArea_of_flight _ (f := f) busy

/-! ### The cause of records -/

/-- Between `s` and `t` Run Control changes by the cause GAP at most, set when the first record is dropped (R159,
R161). -/
structure Gaps (s t : State) : Prop where
  stays : s.area.gapCount ≠ 0 → t.area.gapCount ≠ 0
  control : t.control =
    if s.area.gapCount = 0 ∧ t.area.gapCount ≠ 0 then s.control.setCause Cause.gap.bit else s.control

variable {s} {t v : State}

theorem Gaps.quiet (control : t.control = s.control) (gap : t.area.gapCount = s.area.gapCount) : s.Gaps t where
  stays := fun h => by rwa [gap]
  control := by
    rw [gap, if_neg fun h => h.2 h.1]
    exact control

theorem Gaps.trans (a : s.Gaps t) (b : t.Gaps v) : s.Gaps v where
  stays := b.stays ∘ a.stays
  control := by
    rw [b.control, a.control]
    by_cases opened : t.area.gapCount = 0
    · have closed : s.area.gapCount = 0 := by
        by_contra h
        exact a.stays h opened
      simp [opened, closed]
    · simp [opened, b.stays opened]

variable (s)

theorem Gaps.produce (e : Entry) : s.Gaps (s.produce e) := by
  unfold State.produce
  split
  · exact .quiet rfl rfl
  · dsimp only
    have counted : saturate 65535 s.area.gapCount ≠ 0 := by
      unfold saturate
      omega
    split
    · next first => exact ⟨fun _ => counted, (if_pos ⟨first, counted⟩).symm⟩
    · next first => exact ⟨fun _ => counted, (if_neg fun h => first h.1).symm⟩

theorem Gaps.reportEnded (slot : Option (Fin 16)) (kind : Byte) (failed : Bool) (reason : OrderReason)
    (results : Results) : s.Gaps (s.reportEnded slot kind failed reason results) := .produce s _

theorem Gaps.abandonTaking : s.Gaps s.abandonTaking := by
  unfold State.abandonTaking
  split
  · exact .quiet rfl rfl
  · next o _ =>
    have dropped : s.Gaps (State.dropHold { s with area := { s.area with taking := none } } o.slot) := .quiet rfl rfl
    exact dropped.trans (.reportEnded _ _ _ _ _ _)

theorem Gaps.abandonCompletion (c : Completion) : s.Gaps (s.abandonCompletion c) := by
  have closed : s.Gaps (s.closeCompletion c.slot) := .quiet rfl rfl
  exact closed.trans (.reportEnded _ _ _ _ _ _)

theorem Gaps.abandonCompletions (cs : List Completion) : s.Gaps (cs.foldl State.abandonCompletion s) := by
  induction cs generalizing s with
  | nil => exact .quiet rfl rfl
  | cons c cs ih => exact (Gaps.abandonCompletion s c).trans (ih _)

theorem Gaps.abandonSweep : s.Gaps s.abandonSweep := by
  unfold State.abandonSweep
  split
  · exact .quiet rfl rfl
  · have abandoned (p : AreaAccess → Bool) : s.Gaps ((s.dropAccesses p).setSweep none).abandonTaking := by
      have dropped : s.Gaps ((s.dropAccesses p).setSweep none) := .quiet rfl rfl
      exact dropped.trans (.abandonTaking _)
    dsimp only
    split
    · exact (abandoned _).trans (.abandonCompletion _ _)
    · exact abandoned _

theorem Gaps.abandonSnapshot : s.Gaps s.abandonSnapshot := by
  unfold State.abandonSnapshot
  split
  · exact .quiet rfl rfl
  · next r _ =>
    have dropped : s.Gaps ((((s.setSnapshot none).discardAccess (· == .snapshot)).dropAccesses
        AreaAccess.isSnapshot).dropHold r.slot) := .quiet rfl rfl
    exact dropped.trans (.reportEnded _ _ _ _ _ _)

theorem Gaps.now (h : s.Gaps t) : t.now = s.now := by
  change t.control.now = s.control.now
  rw [h.control]
  split <;> rfl

/-- Run Control once HEADLESS has been entered: the run state with its reason and time, and GAP where the abandoned
orders' records opened a gap (R167; log 46). -/
theorem enterHeadless_control (reason : HeadlessReason) : (s.enterHeadless reason).control =
    { (if s.area.gapCount = 0 ∧ (s.enterHeadless reason).area.gapCount ≠ 0 then s.control.setCause Cause.gap.bit
        else s.control) with
      runState := .headless, headlessReason := some reason, headlessSince := some s.now } := by
  have gaps := ((Gaps.abandonSweep s).trans (.abandonSnapshot _)).trans
    (.abandonCompletions _ s.abandonSweep.abandonSnapshot.area.completions)
  have since := gaps.now
  have control := gaps.control
  calc (s.enterHeadless reason).control
      = { (s.abandonSweep.abandonSnapshot.area.completions.foldl State.abandonCompletion
            s.abandonSweep.abandonSnapshot).control with
          runState := .headless, headlessReason := some reason
          headlessSince := some (s.abandonSweep.abandonSnapshot.area.completions.foldl State.abandonCompletion
            s.abandonSweep.abandonSnapshot).now } := rfl
    _ = _ := by
      rw [since, control]
      rfl

end Sys2Proof.Machine.State
end

section
/-! PROOF. O5, O10, O14 and O15: LINK_RESET, the START commands, sweeps that start, and AREA_FAULT. -/

namespace Sys2Proof.Machine

/-! ### LINK_RESET and AREA_FAULT -/

/-- With no cause enabled a cause sets its bit and sends no interrupt (R162). -/
theorem setCause_disabled {c : RunControl} (disabled : c.causeEn = 0) (bits : BitVec 32) :
    c.setCause bits = { c with cause := c.cause ||| bits } := by
  have quiet : interruptRises c.cause c.causeEn (c.cause ||| bits) c.causeEn = false := by
    simp [interruptRises, disabled]
  unfold RunControl.setCause
  rw [quiet]
  rfl

/-- Settles O5: from the registers at their defaults, HEADLESS is entered or a START abandoned. -/
theorem linkResetKeepsLiveState : Obligations.LinkResetKeepsLiveState := by
  intro s
  let reset : State := { s with control := s.control.linkReset }
  refine ⟨fun inactive => ?_, fun active => ?_⟩
  · have abandoned : exec .linkReset s = .next reset.abandonStart := by
      change execLinkReset s = _
      unfold execLinkReset
      dsimp only
      rw [if_neg (by simp [RunControl.linkReset, inactive])]
    exact abandoned
  · have entered : exec .linkReset s = .next (reset.enterHeadless .linkReset) := by
      change execLinkReset s = _
      unfold execLinkReset
      dsimp only
      rw [if_pos (by simp [RunControl.linkReset, active])]
    obtain ⟨ended, abandons⟩ := reset.enterHeadless_abandons .linkReset
    refine ⟨reset.enterHeadless .linkReset, ended, entered, ?_, by simp [reset], by simp [reset], by simp [reset],
      by simp [reset], by simp [reset], by simp [reset], abandons.of_eq rfl rfl rfl⟩
    rw [State.enterHeadless_control]
    by_cases opened : s.area.gapCount = 0 ∧ (reset.enterHeadless .linkReset).area.gapCount ≠ 0
    · have gap : (if s.area.gapCount = 0 ∧ (reset.enterHeadless .linkReset).area.gapCount ≠ 0 then Cause.gap.bit else 0)
          = Cause.gap.bit := if_pos opened
      have cause : reset.control.cause ||| Cause.gap.bit = Cause.gap.bit := BitVec.zero_or
      rw [if_pos (by exact opened), setCause_disabled rfl, gap, cause]
      rfl
    · have gap : (if s.area.gapCount = 0 ∧ (reset.enterHeadless .linkReset).area.gapCount ≠ 0 then Cause.gap.bit else 0)
          = 0 := if_neg opened
      rw [if_neg (by exact opened), gap]
      rfl

/-- A cause is set once it has been set. -/
theorem setCause_and_bit (s : State) (c : Cause) : (s.setCause c).control.cause &&& c.bit = c.bit := by
  change (s.control.cause ||| c.bit) &&& c.bit = c.bit
  ext i
  simp only [BitVec.getElem_and, BitVec.getElem_or]
  cases c.bit[i] <;> simp

/-- Out of STARTING and RUNNING the run state is OFF or HEADLESS. -/
theorem inactive_cases {r : RunState} (inactive : r.active = false) : r = .off ∨ r = .headless := by
  cases r <;> simp [RunState.active] at inactive ⊢

/-- A fault on a page write leaves the area as R160 says, and HEADLESS its reason. -/
theorem faultPage_eq (s : State) : s.faultPage = { s with
    area := { s.area with adoptPage := false, flight := none }
    control := if s.control.runState = .headless then
        { s.control with headlessReason := some .areaFault, headlessSince := some s.now }
      else s.control } := by
  unfold State.faultPage
  dsimp only
  split <;> rfl

theorem faultHeader_eq (s : State) : s.faultHeader = { s.abandonStart with
    control := if s.control.runState = .headless then { s.control with headlessReason := some .areaFault }
      else s.control } := by
  have control : s.abandonStart.control = s.control := rfl
  unfold State.faultHeader
  dsimp only
  rw [control]
  split <;> rfl

/-- Settles O15: the three branches of AREA_FAULT, the third with the access that waits granted. -/
theorem areaFaultEntersHeadless : Obligations.AreaFaultEntersHeadless := by
  intro s faults
  obtain ⟨f, flight⟩ := Option.ne_none_iff_exists'.mp faults
  have inFlight : s.inFlight = some f.access := by simp [State.inFlight, flight]
  let caused := s.setCause .areaFault
  have bit := setCause_and_bit s .areaFault
  have run : caused.control.runState = s.control.runState := rfl
  by_cases active : s.control.runState.active = true
  · have entered : exec .areaFault s = .next (caused.enterHeadless .areaFault) := by
      change execAreaFault s = _
      unfold execAreaFault
      rw [flight]
      exact if_pos active
    have spec := caused.enterHeadless_spec .areaFault
    obtain ⟨ended, abandons⟩ := caused.enterHeadless_abandons .areaFault
    refine ⟨_, entered, spec.areaFault.trans bit, by simp [caused], by simp [caused], by simp [caused], by simp [caused],
      by simp [caused], by simp [caused], by simp [caused], by simp [caused], spec.position, fun _ =>
      ⟨spec.settings, ended, abandons.of_eq rfl rfl rfl⟩, fun inactive => ?_, fun off => ?_, fun headless => ?_⟩
    · simp [active] at inactive
    · simp [off, RunState.active] at active
    · simp [headless, RunState.active] at active
  rw [Bool.not_eq_true] at active
  by_cases header : f.access = .headerRead
  · have refused : exec .areaFault s = .next caused.faultHeader := by
      change execAreaFault s = _
      unfold execAreaFault
      rw [flight]
      dsimp only
      rw [if_neg (by simp [active]), if_pos header]
    rw [faultHeader_eq] at refused
    have reading : s.inFlight = some .headerRead := by rw [inFlight, header]
    refine ⟨_, refused, ?_, rfl, rfl, rfl, rfl, rfl, rfl, rfl, rfl, rfl, fun h => ?_, fun _ => ⟨rfl, fun _ => rfl, ?_⟩,
      fun off => ?_, fun headless => ?_⟩
    · dsimp only
      split <;> exact bit
    · simp [active] at h
    · exact fun other => absurd reading other
    · simp only [run, off]
      rw [if_neg (by decide)]
      exact off
    · simp [run, headless, reading]
      rfl
  · have faulted : exec .areaFault s = .next caused.faultPage.settleArea := by
      change execAreaFault s = _
      unfold execAreaFault
      rw [flight]
      dsimp only
      rw [if_neg (by simp [active]), if_neg header]
    have reading : s.inFlight ≠ some .headerRead := by simp [inFlight, header]
    have asleep : caused.faultPage.wakeWriter = caused.faultPage := by
      refine State.wakeWriter_of_inactive _ ?_
      rw [faultPage_eq]
      dsimp only
      split <;> exact active
    have area : caused.faultPage.area = { s.area with adoptPage := false, flight := none } := by
      rw [faultPage_eq]
      rfl
    have control : caused.faultPage.control = if s.control.runState = .headless then
        { caused.control with headlessReason := some .areaFault, headlessSince := some s.now } else caused.control := by
      rw [faultPage_eq]
      rfl
    have store : caused.faultPage.store = s.store := by rw [faultPage_eq]; rfl
    refine ⟨_, faulted, ?_, by simp [faultPage_eq, caused], by simp [faultPage_eq, caused], by simp [faultPage_eq, caused],
      by simp [faultPage_eq, caused], by simp [faultPage_eq, caused], by simp [store], by simp [store], ?_, by simp [area],
      fun h => ?_, fun _ => ⟨by simp [store], fun h => absurd h reading, fun _ => ⟨?_, fun none waiting => ?_,
      fun a rest none waiting => ?_⟩⟩, fun off => ?_, fun headless => ?_⟩
    · rw [State.settleArea_control, control]
      split <;> exact bit
    · simp [AreaInterface.layout, area]
    · simp [active] at h
    · rw [State.settleArea_area, State.settleArea_writer _ asleep, area]
    · rw [State.settleArea_nothing _ asleep (by simp [area, none]) (by simp [area, waiting])]
      simp [area, waiting]
    · rw [State.settleArea_grants (a := a) (rest := rest) _ asleep (by simp [area, none]) (by simp [area])
        (by simp [area, waiting])]
      exact ⟨rfl, rfl⟩
    · rw [State.settleArea_control, control, if_neg (by simp [off])]
      exact off
    · rw [State.settleArea_control, control, if_pos headless, if_neg reading]
      exact ⟨headless, rfl, rfl⟩

/-! ### Fields of structures in the shared area -/

theorem areaField_zero (bytes : List Byte) (i : Nat) : areaField bytes i 0 = 0 := by
  unfold areaField slice
  rw [List.take_zero]
  rfl

/-- A field begins with its least significant byte (R170). -/
theorem areaField_succ (bytes : List Byte) (i n : Nat) :
    areaField bytes i (n + 1) = byteAt bytes i + 256 * areaField bytes (i + 1) n := by
  unfold areaField slice byteAt
  rw [← List.drop_drop, List.getD_eq_getElem?_getD]
  have first : bytes[i]? = (bytes.drop i)[0]? := by simp
  rw [first]
  cases bytes.drop i with
  | nil => simp [littleEndian]
  | cons b t => simp [littleEndian]

/-- A byte as a field. -/
theorem areaField_one (bytes : List Byte) (i : Nat) : areaField bytes i 1 = byteAt bytes i := by
  rw [areaField_succ, areaField_zero, Nat.mul_zero, Nat.add_zero]

/-- A half-word as a field (R170). -/
theorem areaField_two (bytes : List Byte) (i : Nat) :
    areaField bytes i 2 = byteAt bytes i + 256 * byteAt bytes (i + 1) := by
  rw [areaField_succ, areaField_one]

theorem byteAt_lt (bytes : List Byte) (i : Nat) : byteAt bytes i < 256 := (bytes.getD i 0).isLt

theorem inRange_iff (low high n : Nat) : inRange low high n = true ↔ low ≤ n ∧ n ≤ high := by
  simp [inRange]

/-- The header is good when its bytes are (R144). -/
theorem headerGood_iff (bytes : List Byte) : headerGood bytes = true ↔
    byteAt bytes 0 = 0x3C ∧ byteAt bytes 1 = 0x5A ∧ byteAt bytes 2 = 1 ∧ byteAt bytes 3 = 0
    ∧ (1 ≤ areaField bytes 12 2 ∧ areaField bytes 12 2 ≤ 2048)
    ∧ (64 ≤ areaField bytes 14 2 ∧ areaField bytes 14 2 ≤ 4096)
    ∧ (100 ≤ areaField bytes 16 2 ∧ areaField bytes 16 2 ≤ 10000)
    ∧ (1 ≤ byteAt bytes 18 ∧ byteAt bytes 18 ≤ 15)
    ∧ (byteAt bytes 19 = 1 ∨ byteAt bytes 19 = 2 ∨ byteAt bytes 19 = 4 ∨ byteAt bytes 19 = 8)
    ∧ (1 ≤ areaField bytes 20 2 ∧ areaField bytes 20 2 ≤ 1000) := by
  have signature : areaField bytes 0 2 = 0x5A3C ↔ byteAt bytes 0 = 0x3C ∧ byteAt bytes 1 = 0x5A := by
    have low := byteAt_lt bytes 0
    rw [areaField_two]
    simp only [Nat.reduceAdd]
    omega
  have version : areaField bytes 2 2 = 1 ↔ byteAt bytes 2 = 1 ∧ byteAt bytes 3 = 0 := by
    have low := byteAt_lt bytes 2
    rw [areaField_two]
    simp only [Nat.reduceAdd]
    omega
  unfold headerGood Header.read
  simp only [Bool.and_eq_true, beq_iff_eq, inRange_iff, signature, version, List.contains_eq_mem, decide_eq_true_eq,
    List.mem_cons, List.not_mem_nil, or_false]
  tauto

/-! ### START commands -/

namespace State

variable (s : State)

/-- An accepted START command leads to its header read (R144, R165). -/
theorem execStartFresh_accepted (inactive : s.control.runState.active = false) (free : s.area.startCommand = none) :
    execStartFresh s = .next (s.beginStart .fresh).settleArea := if_neg (by simp [startInFlight, inactive, free])

theorem execStartAdopt_accepted (inactive : s.control.runState.active = false) (free : s.area.startCommand = none) :
    execStartAdopt s
      = .next (s.beginStart (if s.control.runState = .off then .fresh else .adopt)).settleArea :=
  if_neg (by simp [startInFlight, inactive, free])

/-- A START command that begins requests the header read and takes the base, whatever else waits. -/
theorem beginStart_begins (inactive : s.control.runState.active = false) (command : StartCommand) :
    let t := (s.beginStart command).settleArea
    t.control = s.control ∧ t.monitor = s.monitor ∧ t.conduits = s.conduits ∧ t.groups = s.groups ∧ t.store = s.store
      ∧ t.port = s.port ∧ t.engine = s.engine
      ∧ t.area = { s.area with
          base := s.control.areaBase, startCommand := some command, adoptPage := false, flight := t.area.flight
          waiting := t.area.waiting, requested := [] }
      ∧ t.Wants .headerRead ∧ (∀ f, s.area.flight = some f → t.area.flight = some f) := by
  have asleep : (s.beginStart command).wakeWriter = s.beginStart command := wakeWriter_of_inactive _ inactive
  refine ⟨settleArea_control _, settleArea_monitor _, settleArea_conduits _, settleArea_groups _, settleArea_store _,
    settleArea_port _, settleArea_engine _, ?_, wants_settleArea _ ?_, fun f busy => settleArea_flight _ busy⟩
  · rw [settleArea_area, settleArea_writer _ asleep]
    rfl
  · exact List.mem_append_right _ (List.mem_singleton.mpr rfl)

end State

/-- Settles O10: how a START command begins, what a bad header does, and when a header is good. -/
theorem startCommandsReadTheHeader : Obligations.StartCommandsReadTheHeader := by
  refine ⟨fun s inactive free => ?_, fun s bytes command size reading started bad => ?_, fun bytes _ =>
    ⟨?_, fun i => areaField_two bytes i, rfl⟩⟩
  · have fresh := s.execStartFresh_accepted inactive free
    have adopt := s.execStartAdopt_accepted inactive free
    have asleep (command : StartCommand) : (s.beginStart command).wakeWriter = s.beginStart command :=
      State.wakeWriter_of_inactive _ inactive
    have requested (command : StartCommand) (none : s.area.requested = []) :
        (s.beginStart command).area.requested = [.headerRead] := congrArg (· ++ [AreaAccess.headerRead]) none
    refine ⟨⟨_, fresh, s.beginStart_begins inactive _⟩, ⟨_, adopt, s.beginStart_begins inactive _⟩,
      fun idle waiting none => ?_, fun busy none => ?_⟩
    · have begins (command : StartCommand) := State.settleArea_begins _ (asleep command) (requested command none) idle
        waiting
      have address : s.control.areaBase + BitVec.ofNat 64 0 = s.control.areaBase := BitVec.add_zero _
      have launch (command : StartCommand) : (s.beginStart command).launch .headerRead =
          { access := .headerRead, address := s.control.areaBase, data := [], granted := s.now } := by
        change ({ access := .headerRead, address := s.control.areaBase + BitVec.ofNat 64 0, data := []
                  granted := s.now } : Flight) = _
        rw [address]
      rw [begins, launch] at fresh adopt
      refine ⟨fresh.trans ?_, adopt.trans ?_⟩
      · dsimp only
        rw [none, waiting]
        rfl
      · dsimp only
        rw [none, waiting]
        rfl
    · obtain ⟨f, flight⟩ := Option.ne_none_iff_exists'.mp busy
      have waits (command : StartCommand) := State.settleArea_waits _ (asleep command) (requested command none) flight
      rw [waits] at fresh adopt
      refine ⟨fresh.trans ?_, adopt.trans ?_⟩
      · dsimp only
        rw [none]
        rfl
      · dsimp only
        rw [none]
        rfl
  · change execHeaderReadDone bytes s = _
    unfold execHeaderReadDone
    rw [if_neg (not_not_intro size), reading, started]
    dsimp only
    rw [if_neg (by simp [bad])]
    rfl
  · rw [headerGood_iff]
    simp only [areaField_two]

/-! ### Sweeps that start -/

/-- A sweep that starts: its record, its number and the read of uplink row 0 (R146). -/
theorem startSweep_settled (s : State) : s.startSweep.settleArea.area.dueMark = s.area.dueMark
    ∧ s.startSweep.settleArea.area.sweepNumber = s.area.sweepNumber + 1
    ∧ s.startSweep.settleArea.area.sweep
        = some (SweepRecord.begin (s.area.sweepNumber + 1) s.now s.control.mode)
    ∧ s.startSweep.settleArea.Wants (.rowRead (.uplink 0)) :=
  ⟨State.settleArea_area_dueMark _, State.settleArea_area_sweepNumber _, State.settleArea_area_sweep _,
    State.wants_settleArea _ (List.mem_append_right _ (List.mem_singleton.mpr rfl))⟩

/-- A sweep due: the due mark of the sweep in progress, or a sweep that starts (R147, R148). -/
theorem sweepOrDue_settled (s : State) :
    s.sweepOrDue.settleArea.control = s.control ∧ s.sweepOrDue.settleArea.monitor = s.monitor
    ∧ s.sweepOrDue.settleArea.store = s.store ∧ s.sweepOrDue.settleArea.port = s.port
    ∧ s.sweepOrDue.settleArea.engine = s.engine ∧ s.sweepOrDue.settleArea.groups = s.groups
    ∧ s.sweepOrDue.settleArea.area.sweepTimer = s.area.sweepTimer
    ∧ (∀ r, s.area.sweep = some r → s.sweepOrDue.settleArea.area.sweep = some r
        ∧ s.sweepOrDue.settleArea.area.dueMark = true
        ∧ s.sweepOrDue.settleArea.area.sweepNumber = s.area.sweepNumber)
    ∧ (s.area.sweep = none → s.sweepOrDue.settleArea.area.dueMark = s.area.dueMark
        ∧ s.sweepOrDue.settleArea.area.sweepNumber = s.area.sweepNumber + 1
        ∧ s.sweepOrDue.settleArea.area.sweep
            = some (SweepRecord.begin (s.area.sweepNumber + 1) s.now s.control.mode)
        ∧ s.sweepOrDue.settleArea.Wants (.rowRead (.uplink 0))) := by
  cases sweep : s.area.sweep with
  | none =>
    have starts : s.sweepOrDue = s.startSweep := by
      unfold State.sweepOrDue
      rw [sweep]
    rw [starts]
    refine ⟨State.settleArea_control _, State.settleArea_monitor _, State.settleArea_store _, State.settleArea_port _,
      State.settleArea_engine _, State.settleArea_groups _, State.settleArea_area_sweepTimer _, fun r h => ?_,
      fun _ => startSweep_settled s⟩
    cases h
  | some r =>
    have due : s.sweepOrDue = { s with area := { s.area with dueMark := true } } := by
      unfold State.sweepOrDue
      rw [sweep]
    rw [due]
    refine ⟨State.settleArea_control _, State.settleArea_monitor _, State.settleArea_store _, State.settleArea_port _,
      State.settleArea_engine _, State.settleArea_groups _, State.settleArea_area_sweepTimer _, fun q h => ?_,
      fun h => ?_⟩
    · cases h
      exact ⟨(State.settleArea_area_sweep _).trans sweep, State.settleArea_area_dueMark _,
        State.settleArea_area_sweepNumber _⟩
    · cases h

/-- When a NUDGE bears on sweeps (R147, R148). -/
theorem takesNudge_iff (s : State) : s.takesNudge = true ↔ s.control.runState = .running
    ∨ s.control.runState = .starting ∧ (s.control.headlessReason ≠ none ∨ s.area.sweep ≠ none) := by
  unfold State.takesNudge State.resuming
  cases run : s.control.runState
  case off => simp
  case starting =>
    simp only [Bool.or_eq_true, Bool.and_eq_true, beq_self_eq_true, true_and, Option.isSome_iff_ne_none, reduceCtorEq,
      false_or]
    exact or_comm
  case running => simp
  case headless => simp

/-- Settles O14: NUDGE and the sweep timer's expiry both start a sweep or mark it due. -/
theorem sweepsStartOnTimerAndNudge : Obligations.SweepsStartOnTimerAndNudge := by
  refine ⟨fun s => ⟨fun inactive => ?_, fun starting fresh idle => ?_, fun takes => ?_⟩, fun s expires => ?_⟩
  · refine if_neg fun takes => ?_
    rcases (takesNudge_iff s).mp takes with running | ⟨starting, -⟩
    · simp [running, RunState.active] at inactive
    · simp [starting, RunState.active] at inactive
  · exact if_neg (by simp [takesNudge_iff, starting, fresh, idle])
  · obtain ⟨control, monitor, store, port, engine, groups, -, due, starts⟩ := sweepOrDue_settled s
    exact ⟨_, if_pos ((takesNudge_iff s).mpr takes), control, monitor, store, port, engine, groups, due, starts⟩
  · obtain ⟨control, monitor, store, port, engine, groups, timer, due, starts⟩ := sweepOrDue_settled s.startSweepTimer
    exact ⟨_, if_pos expires, control, monitor, store, port, engine, groups, timer, due, starts⟩

/-! ### START commands with a good header -/

theorem execHeaderReadDone_fresh (s : State) {bytes : List Byte} (size : bytes.length = 256)
    (reading : s.inFlight = some .headerRead) (started : s.area.startCommand = some .fresh)
    (good : headerGood bytes = true) :
    execHeaderReadDone bytes s = .next (s.endFlight.freshStart (Header.read bytes)).settleArea := by
  unfold execHeaderReadDone
  rw [if_neg (not_not_intro size), reading, started]
  exact if_pos good

theorem execHeaderReadDone_adopt (s : State) {bytes : List Byte} (size : bytes.length = 256)
    (reading : s.inFlight = some .headerRead) (started : s.area.startCommand = some .adopt)
    (good : headerGood bytes = true) :
    execHeaderReadDone bytes s = .next (s.endFlight.adoptStart (Header.read bytes)).settleArea := by
  unfold execHeaderReadDone
  rw [if_neg (not_not_intro size), reading, started]
  exact if_pos good

/-- Settles O11: no record waits after CLEAR, so that the first sweep's read is the one access and begins at once. -/
theorem freshStartClearsAndSweeps : Obligations.FreshStartClearsAndSweeps := by
  intro s bytes size reading started good _
  let t := s.endFlight.freshStart (Header.read bytes)
  have begins := t.settleArea_begins (a := .rowRead (.uplink 0)) (t.wakeWriter_of_empty rfl) rfl rfl rfl
  have uplinks := clear_uplink s.monitor s.now
  refine ⟨t.settleArea, execHeaderReadDone_fresh s size reading started good, ?_⟩
  rw [begins]
  refine ⟨rfl, rfl, fun c => Vector.get_replicate .., rfl, ?_, rfl, rfl, uplinks, fun _ => rfl, ?_, ?_⟩
  · simp only [t, State.freshStart, State.startSweep, State.request, State.restartScrubTimer, State.takeHeader,
      State.clearLive, Monitor.clear, State.endFlight]
  · simp only [t, State.freshStart, State.startSweep, State.request, State.restartScrubTimer, State.takeHeader,
      State.clearLive, BucketStore.clear, isPort_iff]
    rfl
  · rfl

/-- An uplink's record once the slot holds are forgotten (R23, R157). -/
theorem forgetHolds_uplink (s : State) (u : Fin 32) : s.forgetHolds.uplink u =
    { s.uplink u with drill := (s.uplink u).drill.map fun d => { d with slot := none } } := by
  simp [State.forgetHolds, State.uplink]

/-- Settles O12: out of STARTING and RUNNING no record is taken, and the page's first write is requested. -/
theorem adoptStartKeepsLiveState : Obligations.AdoptStartKeepsLiveState := by
  intro s bytes size reading started good inactive
  let t := s.endFlight.adoptStart (Header.read bytes)
  have asleep : t.wakeWriter = t := t.wakeWriter_of_inactive inactive
  refine ⟨t.settleArea, execHeaderReadDone_adopt s size reading started good, t.settleArea_control,
    t.settleArea_groups, t.settleArea_port, ?alarms, ?hold, t.settleArea_engine, t.settleArea_store,
    ?lines, fun u => (t.settleArea_uplink u).trans (forgetHolds_uplink s u), ?_,
    t.wants_settleArea (List.mem_append_right _ (List.mem_singleton.mpr rfl)), fun waiting requested => ?_⟩
  case alarms =>
    rw [t.settleArea_conduits]
    rfl
  case hold =>
    rw [t.settleArea_conduits]
    rfl
  case lines =>
    rw [t.settleArea_monitor]
    rfl
  · rw [t.settleArea_area, t.settleArea_writer asleep]
    rfl
  · have first : t.area.requested = [.pageWrite 0] := congrArg (· ++ [AreaAccess.pageWrite 0]) requested
    rw [t.settleArea_begins asleep first rfl waiting]
    exact ⟨_, rfl, rfl, rfl⟩

end Sys2Proof.Machine
end

section
/-! PROOF. O13: STOP. The abandonment it begins with, then the trial of the STOPPED record, case by case (R166). -/

namespace Sys2Proof.Machine

namespace State

variable (s : State)

/-! ### The abandonment that STOP begins with -/

/-- The state in which STOP tries its record: the sweep, the snapshot and the sweep timer are gone (R166). -/
def sweepsStopped : State := s.abandonSweep.abandonSnapshot.stopSweeps

theorem sweepsStopped_settings : s.sweepsStopped.control.settings = s.control.settings := by simp [sweepsStopped]

theorem sweepsStopped_now : s.sweepsStopped.now = s.now := now_of_settings s.sweepsStopped_settings

theorem sweepsStopped_runState : s.sweepsStopped.control.runState = s.control.runState :=
  runState_of_settings s.sweepsStopped_settings

/-- The journal's part of the Area Interface is kept. -/
theorem sweepsStopped_keeps : Keeps s s.sweepsStopped :=
  have kept := (Keeps.abandonSweep s).trans (.abandonSnapshot _)
  ⟨kept.holding, kept.areaFault, kept.sweepNumber, kept.uplinkRows, kept.planMark, kept.position, kept.newsMark,
    kept.blocked, kept.writer, kept.stopTry, kept.startCommand, kept.adoptPage⟩

theorem abandonSnapshot_store : s.abandonSnapshot.store =
    { s.store with snapshot := none, access := s.abandonSnapshot.store.access } := by
  unfold abandonSnapshot
  split
  · next none =>
    rw [← none]
  · simp only [reportEnded, produce_store]
    rfl

theorem sweepsStopped_store : s.sweepsStopped.store =
    { s.store with snapshot := none, access := s.sweepsStopped.store.access } := by
  unfold sweepsStopped
  rw [stopSweeps_store, abandonSnapshot_store, abandonSweep_store]

/-- The records of the orders that STOP ends with the sweep and the snapshot. -/
theorem sweepsStopped_ends : Ends s s.sweepsStopped (s.sweepEnds ++ s.snapshotEnds) := by
  have snapshot : s.abandonSweep.snapshotEnds = s.snapshotEnds := by simp [snapshotEnds]
  have ends := (Ends.abandonSweep s).trans (Ends.abandonSnapshot _)
  rw [snapshot] at ends
  have last := ends.trans (Ends.quiet (t := s.sweepsStopped) rfl rfl rfl rfl rfl)
  rwa [List.append_nil] at last

theorem sweepsStopped_completions : s.sweepsStopped.area.completions = s.abandonSweep.area.completions :=
  completions_abandonSnapshot _

/-- The sweep waits for the completion at slot `k`. -/
theorem waitedSlot_eq_some {k : Fin 16} :
    s.waitedSlot = some k ↔ ∃ r, s.area.sweep = some r ∧ r.phase = .slotWrite k := by
  unfold waitedSlot
  cases s.area.sweep with
  | none => simp
  | some r =>
    dsimp only
    split
    · next j phase => simp [phase]
    · next other => simpa using other k

/-- The completion that the sweep waits for is not in progress any more. -/
theorem sweepsStopped_completion {k : Fin 16} (waits : s.waitedSlot = some k) : s.sweepsStopped.completion k = none := by
  by_contra h
  obtain ⟨c, mem, slot⟩ := (completion_ne_none _ k).mp h
  rw [sweepsStopped_completions, mem_completions_abandonSweep] at mem
  obtain ⟨before, others⟩ := mem
  obtain ⟨r, sweep, phase⟩ := (waitedSlot_eq_some s).mp waits
  obtain ⟨d, found⟩ := Option.ne_none_iff_exists'.mp ((completion_ne_none s k).mpr ⟨c, before, slot⟩)
  obtain ⟨-, at_k⟩ := completion_mem s found
  exact others d ((sweepCompletion_eq_some s).mpr ⟨r, sweep, by rw [phase, at_k], by rw [at_k, found]⟩)
    (slot.trans at_k.symm)

/-- A completion that no sweep waits for stays in progress. -/
theorem sweepsStopped_keeps_completion {c : Completion} (mem : c ∈ s.area.completions)
    (free : ¬ s.waitedSlot = some c.slot) : c ∈ s.sweepsStopped.area.completions := by
  rw [sweepsStopped_completions, mem_completions_abandonSweep]
  refine ⟨mem, fun d waited same => ?_⟩
  obtain ⟨r, sweep, phase, -⟩ := (sweepCompletion_eq_some s).mp waited
  exact free ((waitedSlot_eq_some s).mpr ⟨r, sweep, by rw [same, phase]⟩)

/-- The slot holds that go with the abandonment: the snapshot's, the order's in hand and the awaited completion's. -/
theorem sweepsStopped_slotHolds (k : Fin 16) : s.sweepsStopped.area.slotHolds.get k =
    if (∃ r, s.store.snapshot = some r ∧ r.slot = k) ∨ (s.area.sweep ≠ none ∧ ∃ o, s.area.taking = some o ∧ o.slot = k)
        ∨ (s.completion k ≠ none ∧ s.waitedSlot = some k) then none
    else s.area.slotHolds.get k := by
  have awaited : (∃ c, s.sweepCompletion = some c ∧ c.slot = k) ↔ s.completion k ≠ none ∧ s.waitedSlot = some k := by
    constructor
    · rintro ⟨c, waited, rfl⟩
      obtain ⟨r, sweep, phase, found⟩ := (sweepCompletion_eq_some s).mp waited
      exact ⟨by simp [found], (waitedSlot_eq_some s).mpr ⟨r, sweep, phase⟩⟩
    · rintro ⟨present, waits⟩
      obtain ⟨r, sweep, phase⟩ := (waitedSlot_eq_some s).mp waits
      obtain ⟨c, found⟩ := Option.ne_none_iff_exists'.mp present
      obtain ⟨-, slot⟩ := completion_mem s found
      exact ⟨c, (sweepCompletion_eq_some s).mpr ⟨r, sweep, by rw [phase, slot], by rw [slot, found]⟩, slot⟩
  unfold sweepsStopped
  rw [stopSweeps_area_slotHolds, slotHolds_abandonSnapshot, slotHolds_abandonSweep, abandonSweep_store]
  by_cases copied : ∃ r, s.store.snapshot = some r ∧ r.slot = k
  · rw [if_pos copied, if_pos (.inl copied)]
  · rw [if_neg copied]
    exact if_congr (by rw [awaited, or_iff_right copied]) rfl rfl

/-- An access that neither the sweep nor the snapshot has made stays in progress. -/
theorem dropAccesses_flight {p : AreaAccess → Bool} {f : Flight} (busy : s.area.flight = some f)
    (spared : p f.access = false) : (s.dropAccesses p).area.flight = some f := by
  simp [dropAccesses, busy, spared]

theorem abandonTaking_flight : s.abandonTaking.area.flight = s.area.flight := by
  unfold abandonTaking
  split
  · rfl
  · exact produce_area_flight _ _

theorem abandonCompletion_flight (c : Completion) : (s.abandonCompletion c).area.flight = s.area.flight :=
  produce_area_flight _ _

/-- A journal access in progress runs on (R166). -/
theorem sweepsStopped_flight {f : Flight} (busy : s.area.flight = some f)
    (journal : f.access = .journalKindRead ∨ f.access = .journalBody ∨ f.access = .journalKind) :
    s.sweepsStopped.area.flight = some f := by
  have notSweep (waited : Option (Fin 16)) : f.access.isSweep waited = false := by
    rcases journal with h | h | h <;> rw [h] <;> rfl
  have notSnapshot : f.access.isSnapshot = false := by
    rcases journal with h | h | h <;> rw [h] <;> rfl
  have swept : s.abandonSweep.area.flight = some f := by
    unfold abandonSweep
    split
    · exact busy
    · have taken (waited : Option (Fin 16)) :
          ((s.dropAccesses (AreaAccess.isSweep waited)).setSweep none).abandonTaking.area.flight = some f :=
        (abandonTaking_flight _).trans (s.dropAccesses_flight busy (notSweep waited))
      dsimp only
      split
      · exact (abandonCompletion_flight _ _).trans (taken _)
      · exact taken _
  unfold sweepsStopped
  rw [stopSweeps_area_flight]
  unfold abandonSnapshot
  split
  · exact swept
  · exact (produce_area_flight _ _).trans (dropAccesses_flight _ swept notSnapshot)

/-- With no sweep and no snapshot only the sweep timer stops. -/
theorem sweepsStopped_of_idle (sweep : s.area.sweep = none) (snapshot : s.store.snapshot = none) :
    s.sweepsStopped = s.stopSweeps := by
  have unswept : s.abandonSweep = s := by
    unfold abandonSweep
    rw [sweep]
  have uncopied : s.abandonSnapshot = s := by
    unfold abandonSnapshot
    rw [snapshot]
  unfold sweepsStopped
  rw [unswept, uncopied]

/-! ### What STOP does in every case -/

/-- What STOP does of what the trial of its record does not concern. -/
structure Stops (s t : State) (ended : List Entry) : Prop where
  sweep : t.area.sweep = none
  snapshot : t.store.snapshot = none
  sweepTimer : t.area.sweepTimer = none
  dueMark : t.area.dueMark = false
  monitor : t.monitor = s.monitor
  groups : t.groups = s.groups
  port : t.port = s.port
  engine : t.engine = s.engine
  conduits : t.conduits = s.conduits
  store : t.store = { s.store with snapshot := none, access := t.store.access }
  produced : s.Produced t ended
  perm : ended.Perm (s.sweepEnds ++ s.snapshotEnds ++ if t.control.runState = .headless then s.completionEnds else [])
  gone : ∀ k, s.waitedSlot = some k ∨ t.control.runState = .headless → t.completion k = none
  stays : ∀ c ∈ s.area.completions, ¬ s.waitedSlot = some c.slot → t.control.runState ≠ .headless → c ∈ t.area.completions
  holds : ∀ k, t.area.slotHolds.get k =
    if (∃ r, s.store.snapshot = some r ∧ r.slot = k) ∨ (s.area.sweep ≠ none ∧ ∃ o, s.area.taking = some o ∧ o.slot = k)
        ∨ (s.completion k ≠ none ∧ (s.waitedSlot = some k ∨ t.control.runState = .headless)) then none
    else s.area.slotHolds.get k

variable {s}

/-- STOP where its record waits or is being written: the run state is kept. -/
theorem Stops.quiet {w : State} (active : s.control.runState ≠ .headless) (rest : w = { s.sweepsStopped with
      area := { s.sweepsStopped.area with
        writer := w.area.writer, stopTry := w.area.stopTry, requested := w.area.requested } }) :
    s.Stops w.settleArea (s.sweepEnds ++ s.snapshotEnds) := by
  have area := w.settleArea_area
  have run : w.settleArea.control.runState ≠ .headless := by
    rw [settleArea_control, rest, sweepsStopped_runState]
    exact active
  have completions : w.settleArea.area.completions = s.sweepsStopped.area.completions := by rw [area, rest]
  refine ⟨?_, ?_, ?_, ?_, ?_, ?_, ?_, ?_, ?_, ?_, ?_, ?_, fun k waits => ?_, fun c mem free _ => ?_, fun k => ?_⟩
  · rw [area, rest]
    simp [sweepsStopped]
  · rw [settleArea_store, rest]
    simp [sweepsStopped]
  · rw [area, rest]
    rfl
  · rw [area, rest]
    rfl
  · rw [settleArea_monitor, rest]
    simp [sweepsStopped]
  · rw [settleArea_groups, rest]
    simp [sweepsStopped]
  · rw [settleArea_port, rest]
    simp [sweepsStopped]
  · rw [settleArea_engine, rest]
    simp [sweepsStopped]
  · rw [settleArea_conduits, rest]
    simp [sweepsStopped]
  · rw [settleArea_store, rest]
    exact sweepsStopped_store s
  · exact (sweepsStopped_ends s).2.of_eq (by rw [area, rest]) (by rw [area, rest]) (by rw [area, rest])
      (by rw [area, rest])
  · rw [if_neg run, List.append_nil]
  · unfold completion
    rw [completions]
    exact sweepsStopped_completion s (waits.resolve_right run)
  · rw [completions]
    exact sweepsStopped_keeps_completion s mem free
  · have same : w.settleArea.area.slotHolds = s.sweepsStopped.area.slotHolds := by rw [area, rest]
    rw [same, sweepsStopped_slotHolds]
    simp only [run, or_false]

/-- STOP where its record is discarded: HEADLESS is entered, the other completions reported too (log 15). -/
theorem Stops.headless {w : State} (rest : w = { s.sweepsStopped with
      area := { s.sweepsStopped.area with stopTry := w.area.stopTry } }) :
    s.Stops (w.enterHeadless .stop) (s.sweepEnds ++ s.snapshotEnds ++ s.completionEnds) := by
  have run : (w.enterHeadless .stop).control.runState = .headless := rfl
  have area := enterHeadless_area w .stop
  have sweep : w.area.sweep = none := by
    rw [rest]
    simp [sweepsStopped]
  have snapshot : w.store.snapshot = none := by
    rw [rest]
    simp [sweepsStopped]
  have ends : w.sweepEnds ++ w.snapshotEnds ++ w.completionEnds = s.completionEnds := by
    have unwaited : w.waitedSlot = none := by simp [waitedSlot, sweep]
    have left : w.area.completions = s.abandonSweep.area.completions := by
      rw [rest]
      exact sweepsStopped_completions s
    simp only [sweepEnds, sweep, snapshotEnds, snapshot, completionEnds, unwaited, left, if_true, Option.toList_none,
      List.map_nil, List.nil_append]
    rw [List.filter_eq_self.mpr (by simp)]
    exact completions_abandonSweep_ended s
  have begun : Ends s w (s.sweepEnds ++ s.snapshotEnds) := by
    have quiet : Ends s.sweepsStopped w [] := by
      rw [rest]
      exact Ends.quiet rfl rfl rfl rfl rfl
    have all := (sweepsStopped_ends s).trans quiet
    rwa [List.append_nil] at all
  have produced := begun.trans (Ends.enterHeadless w .stop)
  rw [ends] at produced
  refine ⟨?_, ?_, ?_, ?_, ?_, ?_, ?_, ?_, ?_, ?_, produced.2, ?_, fun k _ => ?_, fun c _ _ active => absurd run active,
    fun k => ?_⟩
  · rw [area]
  · exact (enterHeadless_spec w .stop).snapshot
  · rw [area]
  · rw [area]
  · rw [enterHeadless_monitor, rest]
    simp [sweepsStopped]
  · rw [enterHeadless_groups, rest]
    simp [sweepsStopped]
  · rw [enterHeadless_port, rest]
    simp [sweepsStopped]
  · rw [enterHeadless_engine, rest]
    simp [sweepsStopped]
  · rw [enterHeadless_conduits, rest]
    simp [sweepsStopped]
  · have store : w.store = s.sweepsStopped.store := by rw [rest]
    rw [enterHeadless_store, store, sweepsStopped_store]
  · rw [if_pos run]
  · unfold completion
    rw [area]
    rfl
  · have holds : w.area.slotHolds = s.sweepsStopped.area.slotHolds := by rw [rest]
    have completion : w.completion k = s.sweepsStopped.completion k := by
      unfold State.completion
      rw [rest]
    rw [enterHeadless_slotHolds, sweep, snapshot, holds, completion, sweepsStopped_slotHolds]
    by_cases waits : s.waitedSlot = some k
    · rw [sweepsStopped_completion s waits]
      simp [waits]
    · have same : s.sweepsStopped.completion k ≠ none ↔ s.completion k ≠ none := by
        rw [completion_ne_none, completion_ne_none]
        constructor
        · rintro ⟨c, mem, slot⟩
          rw [sweepsStopped_completions, mem_completions_abandonSweep] at mem
          exact ⟨c, mem.1, slot⟩
        · rintro ⟨c, mem, slot⟩
          exact ⟨c, sweepsStopped_keeps_completion s mem (by rwa [slot]), slot⟩
      by_cases present : s.completion k ≠ none
      · rw [if_pos (.inl (same.mpr present)), if_pos (.inr (.inr ⟨present, .inr run⟩))]
      · rw [if_neg (by simp [same.not.mpr present])]
        simp [present, waits]

/-! ### The trial of the STOPPED record -/

variable (s)

/-- The STOPPED record that STOP makes. -/
def stoppedRecord : Record := { time := s.now, entry := .stopped s.area.sweepNumber }

/-- The state in which the STOPPED record is tried. -/
def stopTried : State :=
  { s.sweepsStopped with area := { s.sweepsStopped.area with
      stopTry := some { record := s.stoppedRecord, begun := false } } }

/-- The state in which the slot at the write position is read for the STOPPED record. -/
def stopBegun : State :=
  State.request
    { s.stopTried with area := { s.stopTried.area with
        writer := .kindRead, stopTry := some { record := s.stoppedRecord, begun := true } } } .journalKindRead

theorem execStop_again (active : s.control.runState.active = true) (free : s.area.startCommand = none) {tried : StopTry}
    (again : s.area.stopTry = some tried) : execStop s = .next s.sweepsStopped.settleArea := by
  have stopTry : s.sweepsStopped.area.stopTry = some tried := s.sweepsStopped_keeps.stopTry.trans again
  unfold execStop
  rw [if_neg (by simp [startInFlight, active, free])]
  change (match s.sweepsStopped.area.stopTry with | some _ => _ | none => _) = _
  rw [stopTry]
  rfl

theorem execStop_first (active : s.control.runState.active = true) (free : s.area.startCommand = none)
    (first : s.area.stopTry = none) :
    execStop s = .next (s.stopTried.tryStopped { record := s.stoppedRecord, begun := false }).settleArea := by
  have stopTry : s.sweepsStopped.area.stopTry = none := s.sweepsStopped_keeps.stopTry.trans first
  have record : s.stoppedRecord
      = { time := s.sweepsStopped.now, entry := .stopped s.sweepsStopped.area.sweepNumber } := by
    unfold stoppedRecord
    rw [sweepsStopped_now, s.sweepsStopped_keeps.sweepNumber]
  unfold execStop stopTried
  rw [if_neg (by simp [startInFlight, active, free]), record]
  change (match s.sweepsStopped.area.stopTry with | some _ => _ | none => _) = _
  rw [stopTry]
  rfl

/-- A journal access in progress is waited for. -/
theorem execStop_waits (active : s.control.runState.active = true) (free : s.area.startCommand = none)
    (first : s.area.stopTry = none) (busy : s.area.writer ≠ .idle) : execStop s = .next s.stopTried.settleArea := by
  rw [execStop_first s active free first]
  unfold tryStopped
  rw [if_pos]
  change s.sweepsStopped.area.writer ≠ .idle
  rwa [s.sweepsStopped_keeps.writer]

/-- With no record waiting and the journal not blocked, the slot at the write position is read. -/
theorem execStop_reads (active : s.control.runState.active = true) (free : s.area.startCommand = none)
    (first : s.area.stopTry = none) (idle : s.area.writer = .idle) (blocked : s.area.blocked = false)
    (empty : s.sweepsStopped.area.holding = []) : execStop s = .next s.stopBegun.settleArea := by
  have writer : s.stopTried.area.writer = .idle := s.sweepsStopped_keeps.writer.trans idle
  have clear : s.stopTried.area.blocked = false := s.sweepsStopped_keeps.blocked.trans blocked
  have none : s.stopTried.area.holding = [] := empty
  rw [execStop_first s active free first]
  unfold tryStopped
  rw [if_neg (by simp [writer]), if_pos (by simp [clear, none])]
  rfl

/-- Otherwise the STOPPED record is discarded and HEADLESS entered. -/
theorem execStop_discards (active : s.control.runState.active = true) (free : s.area.startCommand = none)
    (first : s.area.stopTry = none) (idle : s.area.writer = .idle)
    (full : s.area.blocked = true ∨ s.sweepsStopped.area.holding ≠ []) :
    execStop s = .next (s.stopTried.enterHeadless .stop) := by
  have writer : s.stopTried.area.writer = .idle := s.sweepsStopped_keeps.writer.trans idle
  have blocked : s.stopTried.area.blocked = s.area.blocked := s.sweepsStopped_keeps.blocked
  have holding : s.stopTried.area.holding = s.sweepsStopped.area.holding := rfl
  rw [execStop_first s active free first]
  unfold tryStopped
  rw [if_neg (by simp [writer]), if_neg]
  · have spec := enterHeadless_spec s.stopTried .stop
    rw [settleArea_nothing _ (wakeWriter_of_inactive _ rfl) spec.requested spec.waiting]
  · rw [Bool.and_eq_true, Bool.not_eq_true', List.isEmpty_iff, blocked, holding]
    rintro ⟨empty, clear⟩
    rcases full with blocked | full
    · simp [clear] at blocked
    · exact full empty

end State

/-- What STOP does in every case, in the words of the statement. -/
theorem State.Stops.conclude {s t : State} {ended : List Entry} (h : s.Stops t ended) {o : Host.Outcome State Fault Refusal}
    (next : o = .next t) {rest : Prop} (trial : rest) :
    o = .next t ∧ t.area.sweep = none ∧ t.store.snapshot = none ∧ t.area.sweepTimer = none
      ∧ t.area.dueMark = false ∧ t.monitor = s.monitor ∧ t.groups = s.groups ∧ t.port = s.port ∧ t.engine = s.engine
      ∧ t.conduits = s.conduits ∧ t.store = { s.store with snapshot := none, access := t.store.access }
      ∧ s.Produced t ended
      ∧ ended.Perm (s.sweepEnds ++ s.snapshotEnds ++ if t.control.runState = .headless then s.completionEnds else [])
      ∧ (∀ k, (∃ r, s.area.sweep = some r ∧ r.phase = .slotWrite k) ∨ t.control.runState = .headless →
          t.completion k = none)
      ∧ (∀ c ∈ s.area.completions, ¬(∃ r, s.area.sweep = some r ∧ r.phase = .slotWrite c.slot) →
          t.control.runState ≠ .headless → c ∈ t.area.completions)
      ∧ (∀ k, let ends := (∃ r, s.store.snapshot = some r ∧ r.slot = k)
            ∨ (∃ o, (s.area.sweep ≠ none ∧ s.area.taking = some o) ∧ o.slot = k)
            ∨ (s.completion k ≠ none ∧ ((∃ r, s.area.sweep = some r ∧ r.phase = .slotWrite k)
                ∨ t.control.runState = .headless))
          (ends → t.area.slotHolds.get k = none) ∧ (¬ends → t.area.slotHolds.get k = s.area.slotHolds.get k))
      ∧ rest := by
  simp only [← State.waitedSlot_eq_some]
  refine ⟨next, h.sweep, h.snapshot, h.sweepTimer, h.dueMark, h.monitor, h.groups, h.port, h.engine, h.conduits, h.store,
    h.produced, h.perm, h.gone, h.stays, fun k => ?_, trial⟩
  rw [h.holds]
  have inHand : (∃ o, (s.area.sweep ≠ none ∧ s.area.taking = some o) ∧ o.slot = k)
      ↔ s.area.sweep ≠ none ∧ ∃ o, s.area.taking = some o ∧ o.slot = k := by
    simp only [and_assoc, exists_and_left]
  rw [inHand]
  exact ⟨fun ends => if_pos ends, fun none => if_neg none⟩

namespace State

variable (s : State)

/-- A journal access in progress survives STOP, whatever else of it is settled (R166). -/
theorem stopTried_flight {f : Flight} (busy : s.area.flight = some f)
    (journal : f.access = .journalKindRead ∨ f.access = .journalBody ∨ f.access = .journalKind) :
    s.stopTried.settleArea.area.flight = some f :=
  settleArea_flight _ (s.sweepsStopped_flight busy journal)

/-- With nothing else to do, STOP begins the read of the slot at the write position. -/
theorem stopBegun_settled (sweep : s.area.sweep = none) (snapshot : s.store.snapshot = none)
    (free : s.area.flight = none) (waiting : s.area.waiting = []) (requested : s.area.requested = []) :
    s.stopBegun.settleArea.control = s.control
    ∧ s.stopBegun.settleArea.area.flight = some
        { access := .journalKindRead
          address := s.area.base + BitVec.ofNat 64 (journalOffset s.area.groupCount s.area.position)
          data := [], granted := s.now } := by
  have begins : s.stopBegun.settleArea = { s.stopBegun with area := { s.stopBegun.area with
      flight := some (s.stopBegun.launch .journalKindRead), waiting := [], requested := [] } } := by
    unfold stopBegun stopTried
    rw [s.sweepsStopped_of_idle sweep snapshot]
    refine settleArea_begins _ (wakeWriter_of_stopTry _ (by simp [State.request])) ?_ free waiting
    exact congrArg (· ++ [AreaAccess.journalKindRead]) requested
  have stopped := s.sweepsStopped_of_idle sweep snapshot
  rw [begins]
  unfold stopBegun stopTried
  rw [stopped]
  exact ⟨rfl, rfl⟩

end State

/-- Settles O13: STOP abandons the sweep and the snapshot, and what it makes of its record is one of four cases: tried
before, waiting for the journal, written, discarded. -/
theorem stopEntersHeadless : Obligations.StopEntersHeadless := by
  unfold Obligations.StopEntersHeadless
  intro s active free
  have run : s.control.runState ≠ .headless := by
    intro h
    rw [h] at active
    cases active
  cases stopTry : s.area.stopTry with
  | some tried =>
    have kept : s.sweepsStopped.area.stopTry = some tried := s.sweepsStopped_keeps.stopTry.trans stopTry
    have stops : s.Stops s.sweepsStopped.settleArea _ := .quiet run rfl
    refine ⟨_, _, stops.conclude (s.execStop_again active free stopTry)
      ⟨nofun, nofun, nofun, fun other same => ?_, nofun⟩⟩
    rw [State.settleArea_area, State.settleArea_control]
    exact ⟨kept.trans same, s.sweepsStopped_settings⟩
  | none =>
    by_cases idle : s.area.writer = .idle
    · by_cases full : s.area.blocked = true ∨ s.sweepsStopped.area.holding ≠ []
      · have enters := State.enterHeadless_spec s.stopTried .stop
        have since : s.stopTried.now = s.now := s.sweepsStopped_now
        have settings := enters.settings
        have stops : s.Stops (s.stopTried.enterHeadless .stop) _ := .headless rfl
        refine ⟨_, _, stops.conclude (s.execStop_discards active free stopTry idle full)
          ⟨fun _ _ _ => ⟨rfl, rfl, ?_, enters.flight, enters.waiting⟩, fun _ _ clear empty => ?_, fun busy => absurd idle busy,
            nofun, fun _ _ clear empty sweep snapshot => ?_⟩⟩
        · rw [← since]
          exact congrArg (·.headlessSince) settings
        · rcases full with blocked | full
          · simp [clear] at blocked
          · exact absurd (List.prefix_nil.mp (empty ▸ enters.holding)) full
        · rcases full with blocked | full
          · simp [clear] at blocked
          · rw [s.sweepsStopped_of_idle sweep snapshot] at full
            exact absurd empty full
      · obtain ⟨clear, empty⟩ := not_or.mp full
        have clear : s.area.blocked = false := by simpa using clear
        have empty : s.sweepsStopped.area.holding = [] := by simpa using empty
        have asleep : s.stopBegun.wakeWriter = s.stopBegun := State.wakeWriter_of_stopTry _ (by
          simp [State.stopBegun, State.request])
        have stops : s.Stops s.stopBegun.settleArea _ := .quiet run rfl
        refine ⟨_, _, stops.conclude (s.execStop_reads active free stopTry idle clear empty)
          ⟨fun _ _ blocked => ?_, fun _ _ _ _ => ⟨?_, ?_, ?_, ?_⟩, fun busy => absurd idle busy, nofun,
            fun _ _ _ _ sweep snapshot free waiting requested =>
              s.stopBegun_settled sweep snapshot free waiting requested⟩⟩
        · have none : s.stopBegun.settleArea.area.holding = [] := by
            rw [State.settleArea_area]
            exact empty
          rcases blocked with blocked | waits
          · simp [clear] at blocked
          · exact absurd none waits
        · rw [State.settleArea_control]
          exact s.sweepsStopped_settings
        · rw [State.settleArea_writer _ asleep]
          rfl
        · exact State.wants_settleArea _ (by simp [State.stopBegun, State.request])
        · rw [State.settleArea_area]
          rfl
    · have asleep : s.stopTried.wakeWriter = s.stopTried := State.wakeWriter_of_stopTry _ (by simp [State.stopTried])
      have stops : s.Stops s.stopTried.settleArea _ := .quiet run rfl
      refine ⟨_, _, stops.conclude (s.execStop_waits active free stopTry idle)
        ⟨fun here => absurd here idle, fun here => absurd here idle, fun _ _ => ⟨?_, ?_, ?_, fun f busy journal =>
          s.stopTried_flight busy journal⟩, nofun, fun here => absurd here idle⟩⟩
      · rw [State.settleArea_control]
        exact s.sweepsStopped_settings
      · rw [State.settleArea_writer _ asleep]
        exact s.sweepsStopped_keeps.writer
      · rw [State.settleArea_area]
        rfl

end Sys2Proof.Machine
end

section
/-! PROOF. O16, O18, O19, O20: light, probes, settle expiry, flap age and the end of a drill. -/

namespace Sys2Proof.Machine

namespace State

variable (s : State)

/-! ### A change of light (R3) -/

/-- The state with other levels of the light lines. -/
def relined (lines : Vector Bool 32) : State := { s with monitor := { s.monitor with lines } }

theorem changeLight_conduits (u : Fin 32) (light : Light) : (s.changeLight u light).conduits =
    if light = .lost then s.conduits.told (s.uplink u) u .lightLost s.now else s.conduits := by
  cases light with
  | lost =>
    have told := fail_conduits (s.modifyUplink u fun r => { r with light := .lost, lightTimer := none }) u .lightLost
    rw [modifyUplink_uplink_self] at told
    exact told
  | present =>
    unfold changeLight
    dsimp only
    split <;> simp

/-- What is left when the light of uplink `u` has changed to `light` and the event has ended, from whatever levels the
lines had (R3, R11, R15, R16, R21). -/
theorem relined_changeLight (lines : Vector Bool 32) (u : Fin 32) (light : Light) :
    let t := ((s.relined lines).changeLight u light).settleArea
    let moves := (s.uplink u).movesTo ((s.uplink u).lightChanged light s.now)
    let raised := if light = .lost then (s.uplink u).raisedBy .lightLost else none
    t.uplink u = (s.uplink u).lightChanged light s.now
      ∧ t.conduits = (if light = .lost then s.conduits.told (s.uplink u) u .lightLost s.now else s.conduits)
      ∧ s.OnlyUplink t u ∧ t.monitor.lines = lines ∧ t.control.settings = s.control.settings
      ∧ t.store = s.store ∧ t.port = s.port
      ∧ s.Effects t u moves raised [] ∧ s.Produced t (s.inOrder u moves raised)
      ∧ s.Rechecks t u (moves ≠ []) raised ∧ s.KeepsOrders t := by
  have brought : s.Brought ((s.relined lines).changeLight u light).settleArea u _ _ _ :=
    Brought.settleArea (Brought.from (s := s) (Brought.changeLight (s.relined lines) u light) rfl rfl rfl rfl rfl rfl rfl
      (fun _ => rfl) rfl)
  refine ⟨?_, ?_, fun v other => ?_, ?_, ?_, ?_, ?_, brought.effects, ?_, brought.rechecks, ?_⟩
  · rw [settleArea_uplink, changeLight_uplink_self]
    rfl
  · rw [settleArea_conduits, changeLight_conduits]
    rfl
  · rw [settleArea_uplink, changeLight_uplink_other _ _ _ _ other]
    rfl
  · rw [settleArea_monitor]
    exact changeLight_lines _ _ _
  · rw [settleArea_control]
    exact changeLight_settings _ _ _
  · rw [settleArea_store]
    exact changeLight_store _ _ _
  · rw [settleArea_port]
    exact changeLight_port _ _ _
  · have produced := inOrder_changeLight (s.relined lines) u light
    exact produced.of_eq (by simp) (by simp) (by simp) (by simp)
  · exact (KeepsOrders.of_area (t := s.relined lines) rfl).trans
      ((KeepsOrders.changeLight (s.relined lines) u light).trans (.settleArea _))

end State

theorem lightOf_eq_lost (asserted : Bool) : lightOf asserted = .lost ↔ asserted = true := by
  cases asserted <;> simp [lightOf]

/-- Settles O16: a line change that changes the light at once and the expiry of the light timer are one change of
light, from the line's new level and from its standing one. -/
theorem lightFollowsTheLineAfterTheDebounce : Obligations.LightFollowsTheLineAfterTheDebounce := by
  unfold Obligations.LightFollowsTheLineAfterTheDebounce
  constructor
  · intro u asserted s
    refine ⟨fun same => ?_, fun other agrees => ?_, fun other differs debounce => ?_, fun other differs debounce => ?_⟩
    · exact if_pos same
    · exact (if_neg other).trans (if_pos agrees)
    · exact (if_neg other).trans ((if_neg differs).trans (if_neg (Nat.pos_iff_ne_zero.mp debounce)))
    · have now : exec (.darkSenseLineChange u asserted) s
          = .next ((s.relined (s.monitor.lines.set u asserted)).changeLight u (lightOf asserted)).settleArea :=
        (if_neg other).trans ((if_neg differs).trans (if_pos debounce))
      obtain ⟨uplink, conduits, only, lines, settings, store, port, effects, produced, rechecks, orders⟩ :=
        s.relined_changeLight (s.monitor.lines.set u asserted) u (lightOf asserted)
      simp only [lightOf_eq_lost] at conduits effects produced rechecks
      exact ⟨_, now, uplink, only, lines, conduits, settings, store, port, effects, produced, rechecks, orders⟩
  · intro u s due
    have changes := s.relined_changeLight s.monitor.lines u (lightOf (s.monitor.lines.get u))
    simp only [lightOf_eq_lost] at changes
    exact ⟨_, if_pos due, changes⟩

namespace State

variable (s : State)

/-! ### Probes (R7, R8, R40) -/

/-- What the arrival of a probe on uplink `u` makes of the state before the event ends. -/
structure ProbeArrives (u : Fin 32) (t : State) : Prop where
  port : t.port = s.port
  store : t.store = s.store
  lines : t.monitor.lines = s.monitor.lines
  settings : t.control.settings = s.control.settings
  only : s.OnlyUplink t u
  conduits : t.conduits = s.conduits
  brought : s.Brought t u ((s.uplink u).movesTo (t.uplink u)) none []
  produced : s.Produced t (s.inOrder u ((s.uplink u).movesTo (t.uplink u)) none)
  orders : s.KeepsOrders t

variable {s} {u : Fin 32}

/-- A probe that changes at most marks and the peer sequence of its uplink's record. -/
theorem ProbeArrives.modifyUplink {f : UplinkRecord → UplinkRecord} (state : (f (s.uplink u)).state = (s.uplink u).state) :
    s.ProbeArrives u (s.modifyUplink u f) := by
  have still : (s.uplink u).movesTo ((s.modifyUplink u f).uplink u) = [] := by
    rw [modifyUplink_uplink_self, UplinkRecord.movesTo, if_pos state]
  refine ⟨rfl, rfl, rfl, rfl, fun v other => modifyUplink_uplink_other _ _ _ _ other, rfl, ?_, ?_, .modifyUplink s u f⟩
  · rw [still]
    exact .modifyUplink s u f
  · rw [still]
    exact (Brought.modifyUplink s u f).inOrder (Nat.zero_le _)

/-- A probe that is discarded. -/
theorem ProbeArrives.refl : s.ProbeArrives u s := by
  have still : (s.uplink u).movesTo (s.uplink u) = [] := if_pos rfl
  have quiet : s.Brought s u [] none [] := .quiet rfl rfl rfl rfl rfl rfl rfl
  refine ⟨rfl, rfl, rfl, rfl, fun _ _ => rfl, rfl, ?_, ?_, .refl s⟩
  · rwa [still]
  · rw [still]
    exact quiet.inOrder (Nat.zero_le _)

/-- What the state machine makes of the record that an affirming probe has marked. -/
theorem affirmed_eq (r : UplinkRecord) (p : ProbeContent) (now : PartTime) : r.affirmed p now =
    if r.state = .dark ∧ r.light = .present then
      { r.affirm p with
        state := .settling, settleStart := some now
        settleExpiry := some (Machine.after now (1000 * (r.affirm p).params.settleTime))
        runCount := 1, missCount := 0, blindCount := 0, mismatchMark := false }.settledAt now
    else if r.state = .settling then (r.affirm p).settledAt now
    else if r.state = .proving then (r.affirm p).proven
    else r.affirm p := rfl

/-- The record of an uplink that an affirming probe has been delivered to (R8, R13, R14, R16). -/
theorem deliverAffirming_uplink_self (p : ProbeContent) :
    ((s.modifyUplink u fun r => r.affirm p).deliverAffirming u).uplink u = (s.uplink u).affirmed p s.now := by
  have record := modifyUplink_uplink_self s u fun r => r.affirm p
  have now : (s.modifyUplink u fun r => r.affirm p).now = s.now := rfl
  generalize (s.modifyUplink u fun r => r.affirm p) = a at record now ⊢
  have same : (a.uplink u).state = (s.uplink u).state := by rw [record]; rfl
  have light : (a.uplink u).light = (s.uplink u).light := by rw [record]; rfl
  rw [affirmed_eq]
  unfold deliverAffirming
  rw [same, light]
  cases state : (s.uplink u).state with
  | dark =>
    by_cases present : (s.uplink u).light = .present
    · simp only [present, if_true, and_self, enterSettling_uplink_self, record, now]
    · simp only [present, if_false, and_false, reduceCtorEq]
      exact record
  | settling => simp only [reduceCtorEq, false_and, if_false, if_true, checkSettle_uplink_self, now, record]
  | proving => simp only [reduceCtorEq, false_and, if_false, if_true, checkProof_uplink_self, record]
  | _ => simpa only [reduceCtorEq, false_and, if_false] using record

/-- An affirming probe that is delivered to the state machine. -/
theorem ProbeArrives.affirm (p : ProbeContent) :
    s.ProbeArrives u ((s.modifyUplink u fun r => r.affirm p).deliverAffirming u) := by
  have moves : (s.uplink u).movesTo (((s.modifyUplink u fun r => r.affirm p).deliverAffirming u).uplink u)
      = (s.uplink u).movesTo ((s.uplink u).affirmed p s.now) := by rw [deliverAffirming_uplink_self]
  refine ⟨by simp, by simp, by simp, by simp, fun v other => ?_, by simp, ?_, ?_,
    (KeepsOrders.modifyUplink s u _).trans (.deliverAffirming _ u)⟩
  · exact (deliverAffirming_uplink_other _ _ _ other).trans (modifyUplink_uplink_other _ _ _ _ other)
  · rw [moves]
    exact .affirm s u p
  · rw [moves]
    exact inOrder_affirm s u p

variable (s u)

/-- Whatever its class, a probe is about the record of its uplink. -/
theorem receiveProbe_arrives (p : ProbeContent) : s.ProbeArrives u (s.receiveProbe u p) := by
  unfold receiveProbe
  dsimp only
  split
  · exact .refl
  · split
    · exact .modifyUplink (f := fun _ => { s.uplink u with mismatchSeen := true }) rfl
    · exact .modifyUplink (f := fun _ => (s.uplink u).accept p) rfl
    · exact .affirm p
    · exact .refl

variable {s u}

/-- What a probe makes of the record is what its arrival leaves when the event has ended. -/
theorem ProbeArrives.settleArea {t : State} (h : s.ProbeArrives u t) : s.ProbeArrives u t.settleArea := by
  obtain ⟨port, store, lines, settings, only, conduits, brought, produced, orders⟩ := h
  refine ⟨(settleArea_port t).trans port, (settleArea_store t).trans store, ?_, ?_, fun v other => ?_,
    (settleArea_conduits t).trans conduits, ?_, ?_, orders.trans (.settleArea t)⟩
  · rw [settleArea_monitor, lines]
  · rw [settleArea_control, settings]
  · rw [settleArea_uplink, only v other]
  · rw [settleArea_uplink]
    exact brought.settleArea
  · rw [settleArea_uplink]
    exact produced.of_eq (settleArea_area_holding t) (settleArea_area_gapCount t) (settleArea_area_firstDrop t)
      (settleArea_area_lastDrop t)

end State

/-! ### The class of a probe (R7) -/

namespace UplinkRecord

variable (r : UplinkRecord) (p : ProbeContent)

/-- A probe that does not come from the configured peer. -/
def Mismatched : Prop := p.identity ≠ r.params.peerIdentity ∨ p.uplink ≠ r.params.peerUplink

/-- A probe that is not newer than the last accepted one. -/
def Stale : Prop := ∃ l, r.peerSequence = some l ∧ ((p.sequence - l).toNat = 0 ∨ 32767 < (p.sequence - l).toNat)

theorem newer_iff : newer p.sequence r.peerSequence = true ↔ ¬ r.Stale p := by
  unfold newer Stale
  cases r.peerSequence with
  | none => simp
  | some l =>
    simp only [Option.some.injEq, Bool.and_eq_true, decide_eq_true_eq, exists_eq_left']
    omega

theorem classify_of_mismatched (mismatched : r.Mismatched p) : r.classify p = .mismatched := if_pos mismatched

theorem classify_of_stale (matched : ¬ r.Mismatched p) (stale : r.Stale p) : r.classify p = .stale :=
  (if_neg matched).trans (if_neg fun newer => (r.newer_iff p).mp newer stale)

theorem classify_of_newer (matched : ¬ r.Mismatched p) (fresh : ¬ r.Stale p) :
    r.classify p = if p.seen then .affirming else .good :=
  (if_neg matched).trans (if_pos ((r.newer_iff p).mpr fresh))

end UplinkRecord

namespace State

variable (s : State) (u : Fin 32) (p : ProbeContent)

theorem receiveProbe_idle (idle : (s.uplink u).state.probing = false) : s.receiveProbe u p = s := by
  simp [receiveProbe, idle]

theorem receiveProbe_mismatched (probing : (s.uplink u).state.probing = true) (mismatched : (s.uplink u).Mismatched p) :
    s.receiveProbe u p = s.setUplink u { s.uplink u with mismatchSeen := true } := by
  simp [receiveProbe, probing, UplinkRecord.classify_of_mismatched _ _ mismatched]

theorem receiveProbe_stale (probing : (s.uplink u).state.probing = true) (matched : ¬ (s.uplink u).Mismatched p)
    (stale : (s.uplink u).Stale p) : s.receiveProbe u p = s := by
  simp [receiveProbe, probing, UplinkRecord.classify_of_stale _ _ matched stale]

theorem receiveProbe_good (probing : (s.uplink u).state.probing = true) (matched : ¬ (s.uplink u).Mismatched p)
    (fresh : ¬ (s.uplink u).Stale p) (blind : p.seen = false) :
    s.receiveProbe u p = s.setUplink u ((s.uplink u).accept p) := by
  simp [receiveProbe, probing, UplinkRecord.classify_of_newer _ _ matched fresh, blind]

theorem receiveProbe_affirming (probing : (s.uplink u).state.probing = true) (matched : ¬ (s.uplink u).Mismatched p)
    (fresh : ¬ (s.uplink u).Stale p) (seen : p.seen = true) :
    s.receiveProbe u p = (s.modifyUplink u fun r => r.affirm p).deliverAffirming u := by
  simp [receiveProbe, probing, UplinkRecord.classify_of_newer _ _ matched fresh, seen, State.modifyUplink]

theorem setUplink_uplink_self (r : UplinkRecord) : (s.setUplink u r).uplink u = r :=
  modifyUplink_uplink_self s u fun _ => r

end State

/-- Settles O18: a probe that is not discarded acts on the record of its uplink by its class. -/
theorem probeSetsTheMarksOfItsClass : Obligations.ProbeSetsTheMarksOfItsClass := by
  unfold Obligations.ProbeSetsTheMarksOfItsClass
  intro n p s
  by_cases discarded : s.port.link = .down ∨ 32 ≤ n.toNat
  · have same : s.arriveProbe n p = s := by
      unfold State.arriveProbe
      rcases discarded with down | above
      · rw [down]
      · split
        · rfl
        · exact dif_neg (Nat.not_lt.mpr above)
    refine ⟨s, congrArg Host.Outcome.next same, rfl, rfl, rfl, rfl, fun _ => rfl, fun u number ready => ?_⟩
    rcases discarded with down | above
    · rw [down] at ready
      cases ready
    · omega
  · obtain ⟨up, inside⟩ := not_or.mp discarded
    have ready : s.port.link = .ready := by
      cases link : s.port.link with
      | down => exact absurd link up
      | ready => rfl
    have inside : n.toNat < 32 := Nat.lt_of_not_le inside
    have arrives : s.arriveProbe n p = (s.receiveProbe ⟨n.toNat, inside⟩ p).settleArea := by
      unfold State.arriveProbe
      rw [ready]
      exact dif_pos inside
    have whole := (s.receiveProbe_arrives ⟨n.toNat, inside⟩ p).settleArea
    refine ⟨_, congrArg Host.Outcome.next arrives, whole.port, whole.store, whole.lines, whole.settings,
      fun out => absurd out discarded, fun u number _ => ?_⟩
    obtain rfl : u = ⟨n.toNat, inside⟩ := Fin.ext number.symm
    refine ⟨whole.only, whole.conduits, whole.brought.effects, whole.produced, whole.brought.rechecks, whole.orders,
      fun idle => ?_, fun probing mismatched => ?_, fun probing matched stale => ?_,
      fun probing matched fresh blind => ?_, fun probing matched fresh seen => ?_⟩ <;> rw [State.settleArea_uplink]
    · rw [State.receiveProbe_idle _ _ _ idle]
    · rw [State.receiveProbe_mismatched _ _ _ probing mismatched, State.setUplink_uplink_self]
    · rw [State.receiveProbe_stale _ _ _ probing matched stale]
    · rw [State.receiveProbe_good _ _ _ probing matched fresh blind, State.setUplink_uplink_self]
      rfl
    · rw [State.receiveProbe_affirming _ _ _ probing matched fresh seen, State.deliverAffirming_uplink_self]

namespace State

variable (s : State) (u : Fin 32)

/-! ### SETTLE_EXPIRY and FLAP_ENTRY_AGED (R14, R17) -/

/-- The changes of state of a SETTLING uplink that is checked. -/
theorem movesTo_settledAt (settling : (s.uplink u).state = .settling) :
    (s.uplink u).movesTo ((s.uplink u).settledAt s.now) =
      if ((s.uplink u).settledAt s.now).state = .up then [{ left := (s.uplink u).state, entered := .up, cause := none }]
      else [] := by
  rcases settledAt_cases (s.uplink u) s.now with stays | ⟨up, cause⟩
  · simp [stays, settling, UplinkRecord.movesTo]
  · simp [up, cause, settling, UplinkRecord.movesTo]

theorem checkSettle_brought (settling : (s.uplink u).state = .settling) :
    s.Brought (s.checkSettle u) u ((s.uplink u).movesTo ((s.uplink u).settledAt s.now)) none [] := by
  rw [movesTo_settledAt s u settling]
  exact .checkSettle s u (by simp [settling])

theorem checkSettle_produced (settling : (s.uplink u).state = .settling) :
    s.Produced (s.checkSettle u) (s.inOrder u ((s.uplink u).movesTo ((s.uplink u).settledAt s.now)) none) := by
  rw [movesTo_settledAt s u settling]
  exact inOrder_checkSettle s u (by simp [settling])

end State

/-- Settles O19: SETTLE_EXPIRY is the check of a SETTLING uplink, FLAP_ENTRY_AGED the pruning of the flap history. -/
theorem settleExpiryAndFlapAge : Obligations.SettleExpiryAndFlapAge := by
  unfold Obligations.SettleExpiryAndFlapAge
  constructor
  · intro u s settling due
    have brought := (s.checkSettle_brought u settling).settleArea
    refine ⟨_, if_pos ⟨settling, due⟩, ?_, fun v other => ?_, ?_, ?_, ?_, ?_, ?_, brought.effects, ?_, brought.rechecks,
      (State.KeepsOrders.checkSettle s u).trans (.settleArea _)⟩
    · simp
    · rw [State.settleArea_uplink, State.checkSettle_uplink_other _ _ _ other]
    · simp
    · simp
    · simp
    · simp
    · simp
    · exact (s.checkSettle_produced u settling).of_eq (by simp) (by simp) (by simp) (by simp)
  · intro u s
    have pruned : exec (.flapEntryAged u) s = .next (s.setUplink u { s.uplink u with
        flaps := pruneFlaps s.now (flapSpan (s.uplink u).params) (s.uplink u).flaps }) := rfl
    rw [pruned, pruneFlaps_eq]
    rfl

namespace State

variable (s : State) (u : Fin 32) (d : DrillRecord)

/-! ### The end of a drill (R22, R23) -/

/-- What completes from a state completes from one with the same run state, part time and slot holds. -/
theorem Completes.from {s s' t : State} {slot : Option (Fin 16)} {kind : OrderKind} {failed : Bool} {reason : OrderReason}
    {results : Results} (h : s'.Completes t slot kind failed reason results) (now : s'.now = s.now)
    (run : s'.control.runState = s.control.runState) (held : s'.held slot = s.held slot) :
    s.Completes t slot kind failed reason results := by
  unfold Completes at *
  rwa [held, run, now] at h

theorem KeepsOrders.held {s t : State} (h : s.KeepsOrders t) (slot : Option (Fin 16)) : t.held slot = s.held slot := by
  unfold State.held
  rw [h.2.2]

/-- The conditions under which a drill returns its uplink to UP. -/
theorem drillSound_iff (r : UplinkRecord) : r.drillSound d = true ↔
    r.light = .present ∧ r.missCount < r.params.missLimit ∧ r.blindCount < r.params.missLimit ∧ d.finding = none := by
  simp [UplinkRecord.drillSound, and_assoc]

theorem drillJudged_of_sound {r : UplinkRecord} (drill : r.drill = some d) (sound : r.drillSound d = true) :
    r.drillJudged = { r with state := .up, darkCause := none, drill := none } := by
  unfold UplinkRecord.drillJudged
  rw [drill]
  exact if_pos ((drillSound_iff d r).mp sound)

theorem drillJudged_of_unsound {r : UplinkRecord} (drill : r.drill = some d) (unsound : r.drillSound d = false) :
    r.drillJudged = { r with state := .dark, darkCause := d.finding, drill := none } := by
  unfold UplinkRecord.drillJudged
  rw [drill]
  exact if_neg fun sound => by simp [(drillSound_iff d r).mpr sound] at unsound

theorem endDrill_uplink_self (failed : Bool) (reason : OrderReason) (drill : (s.uplink u).drill = some d) :
    (s.endDrill u d failed reason).uplink u = (s.uplink u).drillJudged := by
  unfold endDrill
  rw [modifyUplink_uplink_self, completeOrder_uplink, judgeDrill_uplink_self]
  split
  · next sound => rw [drillJudged_of_sound d drill sound]
  · next unsound => rw [drillJudged_of_unsound d drill (by simpa using unsound)]

theorem endDrill_uplink_other (failed : Bool) (reason : OrderReason) {v : Fin 32} (other : v ≠ u) :
    (s.endDrill u d failed reason).uplink v = s.uplink v := by
  unfold endDrill
  rw [modifyUplink_uplink_other _ _ _ _ other, completeOrder_uplink, judgeDrill_uplink_other _ _ _ _ other]

/-- A drill that falls with LIGHT_LOST or FAR_BLIND raises the conduits of the mask, and no other does (R22, R44). -/
theorem judgeDrill_conduits : (s.judgeDrill u d).conduits = s.conduits.drillEnded (s.uplink u) u d.finding s.now := by
  unfold judgeDrill ConduitTable.drillEnded
  split
  · next sound =>
    obtain ⟨-, -, -, none⟩ := (drillSound_iff d _).mp sound
    rw [none, changeState_conduits]
  · dsimp only
    cases finding : d.finding with
    | none => exact changeState_conduits _ _ _ _
    | some cause =>
      have after (c : Option DarkCause) : (s.changeState u .dark c).now = s.now := changeState_now _ _ _ _
      dsimp only
      rw [handMask_conduits, changeState_conduits, changeState_uplink_self, after]
      cases cause <;> rfl

theorem endDrill_conduits (failed : Bool) (reason : OrderReason) :
    (s.endDrill u d failed reason).conduits = s.conduits.drillEnded (s.uplink u) u d.finding s.now := by
  unfold endDrill
  rw [modifyUplink_conduits, completeOrder_conduits, judgeDrill_conduits]

/-- The DRILL_START order of a drill that ends completes with the results of R23. -/
theorem endDrill_completes (failed : Bool) (reason : OrderReason) : s.Completes (s.endDrill u d failed reason) d.slot
    .drillStart failed reason (drillResults d (s.walkOf u) ((s.uplink u).drillSound d)) := by
  have judged := KeepsOrders.judgeDrill s u d
  have done := completeOrder_completes (s.judgeDrill u d) d.slot .drillStart failed reason
    (drillResults d (s.walkOf u) ((s.uplink u).drillSound d))
  exact (done.of_eq (v := s.endDrill u d failed reason) rfl rfl rfl rfl).from (judgeDrill_now s u d)
    (judgeDrill_runState s u d) (judged.held _)

end State

/-- Settles O20: DRILL_END_TIME is the end of the drill, judged by its record. -/
theorem drillEndTimeJudgesTheDrill : Obligations.DrillEndTimeJudgesTheDrill := by
  unfold Obligations.DrillEndTimeJudgesTheDrill
  intro u s d drill due
  have brought := (State.Brought.endDrill s u d false .none drill).settleArea
  have effects := brought.effects
  have completes : s.Completes (s.endDrill u d false .none).settleArea d.slot .drillStart false .none
      (drillResults d (s.walkOf u) ((s.uplink u).drillSound d)) :=
    (s.endDrill_completes u d false .none).of_eq (by simp) (by simp) (by simp) (by simp)
  have uplink : (s.endDrill u d false .none).settleArea.uplink u = (s.uplink u).drillJudged :=
    (State.settleArea_uplink _ u).trans (s.endDrill_uplink_self u d false .none drill)
  have now : exec (.drillEndTime u) s = .next (s.endDrill u d false .none).settleArea := by
    change execDrillEndTime u s = _
    unfold execDrillEndTime
    rw [drill]
    exact if_pos due
  refine ⟨_, now, fun v other => ?_, ?_, ?_, ?_, ?_, ?_, ?_, fun sound => ?_, fun unsound => ?_⟩
  · rw [State.settleArea_uplink, s.endDrill_uplink_other u d _ _ other]
  · simp
  · rw [State.settleArea_conduits, State.endDrill_conduits]
  · simp
  · simp
  · simp
  · simpa using brought.rechecks
  · have sound := (State.drillSound_iff d _).mpr sound
    rw [State.drillJudged_of_sound d drill sound] at uplink
    rw [sound] at completes effects
    exact ⟨uplink, completes, effects⟩
  · have unsound : (s.uplink u).drillSound d = false := by
      simpa using mt (State.drillSound_iff d _).mp unsound
    rw [State.drillJudged_of_unsound d drill unsound] at uplink
    rw [unsound] at completes effects
    exact ⟨uplink, completes, effects⟩

end Sys2Proof.Machine
end

section
/-! PROOF. O21, O22, O26: the change of an uplink's state, conduits raised and cleared. -/

namespace Sys2Proof.Machine

/-- A cause joined to others stands among them. -/
theorem or_or_and_self (a b c : BitVec 32) : (a ||| b ||| c) &&& b = b := by
  ext i h
  simp only [BitVec.getElem_and, BitVec.getElem_or]
  cases b[i] <;> simp

namespace State

variable (s : State)

/-- The Walk Engine once an uplink has been handed over, in the terms of its walk before (R112, R117). -/
theorem engine_handed (u : Fin 32) (cls : WalkClass) : s.engine.handed u cls s.now =
    let walk : Walk := match s.walkOf u with
      | none => { uplink := u, cursor := none, groupsTouched := 0, bucketsMoved := 0, conversions := 0, start := s.now }
      | some w => { w with cursor := none, conversions := min 255 (w.conversions + 1) }
    { s.engine with
      urgent := (s.engine.urgent.filter fun w => w.uplink ≠ u) ++ if cls = .urgent then [walk] else []
      restore := (s.engine.restore.filter fun w => w.uplink ≠ u) ++ if cls = .restore then [walk] else []
      work := match s.walkOf u, s.engine.work with
        | some _, some (.walkStep v g b converted phase) => some (.walkStep v g b (converted || decide (v = u)) phase)
        | _, other => other } := by
  unfold WalkEngine.handed walkOf
  generalize (s.engine.urgent ++ s.engine.restore).find? (fun w => w.uplink == u) = found
  cases found with
  | none => simp
  | some w =>
    cases s.engine.work with
    | none => rfl
    | some unit => cases unit <;> rfl

end State

/-- Settles O21: the parts of a change of state, read off what it brings. -/
theorem stateChangeHasItsCommonEffects : Obligations.StateChangeHasItsCommonEffects := by
  unfold Obligations.StateChangeHasItsCommonEffects
  intro s u new cause
  have brings := State.Brings.changeState s u new cause
  have engine := brings.engine
  simp only [WalkEngine.moved, List.foldl_cons, List.foldl_nil] at engine
  refine ⟨s.changeState_uplink_self u new cause, fun v other => s.changeState_uplink_other u v new cause other,
    brings.produced, fun left entered => ⟨?_, ?_⟩, fun left entered => ?_, fun same => ?_, brings.groups,
    s.changeState_store u new cause, s.changeState_port u new cause, s.changeState_conduits u new cause⟩
  · rw [brings.cause, decide_eq_true ⟨left, entered⟩]
    exact or_or_and_self _ _ _
  · rw [engine, if_pos ⟨left, entered⟩, State.engine_handed]
    simp only [reduceCtorEq, if_true, if_false, List.append_nil] <;> rfl
  · rw [engine, if_neg fun h => left h.1, if_pos ⟨left, entered⟩, State.engine_handed]
    simp only [reduceCtorEq, if_true, if_false, List.append_nil] <;> rfl
  · rw [engine, if_neg fun h => h.2 (same.mp h.1), if_neg fun h => h.1 (same.mpr h.2)]

namespace State

variable (s : State) (c : Fin 64)

/-! ### Conduits (R44 to R48) -/

theorem setAlarm_alarm_self (a : Option Alarm) : (s.setAlarm c a).alarm c = a := by
  simp [alarm, setAlarm, Vector.get_eq_getElem]

theorem setAlarm_alarm_other (a : Option Alarm) {d : Fin 64} (other : d ≠ c) : (s.setAlarm c a).alarm d = s.alarm d := by
  have apart : c.val ≠ d.val := fun same => other (Fin.ext same.symm)
  simp [alarm, setAlarm, Vector.get_eq_getElem, apart]

/-- A raise from CLEAR: the alarm, its record, the recheck flags and URGENT (R44, R48). -/
theorem raiseConduit_of_clear (u : Fin 32) (cause : DarkCause) (clear : s.alarm c = none) :
    let expiry := s.now + BitVec.ofNat 32 (1000 * s.conduits.hold)
    s.raiseConduit u cause c =
      (((s.setAlarm c (some { expiry, firstRaiser := u, cause, raisedAt := s.now, raiseCount := 1 })).produce
        (.conduitAlarm c u cause expiry)).handConduit c).setCause .urgent := by
  unfold raiseConduit
  rw [clear]
  rfl

/-- A raise in RAISED changes the expiry and the count of its alarm only. -/
theorem raiseConduit_of_raised (u : Fin 32) (cause : DarkCause) {a : Alarm} (raised : s.alarm c = some a) :
    let expiry := s.now + BitVec.ofNat 32 (1000 * s.conduits.hold)
    s.raiseConduit u cause c = s.setAlarm c (some { a with
      expiry := if span s.now a.expiry < span s.now expiry then expiry else a.expiry
      raiseCount := min 255 (a.raiseCount + 1) }) := by
  unfold raiseConduit
  rw [raised]
  rfl

theorem handConduit_group (g : Nat) : (s.handConduit c).group g
    = (s.group g).rechecked fun v => (s.uplink v).params.conduitMask.getLsbD c.val := recheckUplinks_group _ _ _

/-- A clear ends the alarm and no other. -/
theorem clearConduit_alarm (a : Alarm) (reason : ClearReason) (d : Fin 64) :
    (s.clearConduit c a reason).alarm d = if d = c then none else s.alarm d := by
  have kept : (s.clearConduit c a reason).alarm d = (s.setAlarm c none).alarm d := by
    unfold clearConduit
    change (produce _ _).alarm d = _
    exact produce_alarm _ _ _
  rw [kept]
  split
  · next same => rw [same, setAlarm_alarm_self]
  · next other => exact setAlarm_alarm_other s c none other

theorem clearConduit_hold (a : Alarm) (reason : ClearReason) :
    (s.clearConduit c a reason).conduits.hold = s.conduits.hold := by
  unfold clearConduit
  change (produce _ _).conduits.hold = _
  rw [produce_conduits]
  rfl

theorem clearConduit_group (a : Alarm) (reason : ClearReason) (g : Nat) : (s.clearConduit c a reason).group g
    = (s.group g).rechecked fun v => (s.uplink v).params.conduitMask.getLsbD c.val := by
  unfold clearConduit
  rw [handConduit_group]
  simp only [produce_uplink, produce_group]
  rfl

theorem clearConduit_reports (a : Alarm) (reason : ClearReason) : (s.clearConduit c a reason).Reports s.now
    (.conduitCleared c reason a.firstRaiser a.raiseCount (span a.raisedAt s.now / 1000) a.cause) :=
  (produce_reports (s.setAlarm c none) _).of_eq rfl rfl

/-- Some conduit of a mask is RAISED. -/
theorem maskRaised_iff (mask : BitVec 64) :
    s.maskRaised mask = true ↔ ∃ c : Fin 64, mask.getLsbD c.val = true ∧ s.alarm c ≠ none := by
  simp [maskRaised, Option.isSome_iff_ne_none]

end State

/-- Settles O22: a raise, by the alarm before it, the expiry of an alarm, and whether it is shadowed. -/
theorem conduitsRaiseAndExpire : Obligations.ConduitsRaiseAndExpire := by
  unfold Obligations.ConduitsRaiseAndExpire
  refine ⟨fun s u cause c => ?_, fun c s a raised due => ?_, fun s u => ?_⟩
  · refine ⟨fun d other => ?_, s.raiseConduit_monitor u cause c, s.raiseConduit_engine u cause c,
      s.raiseConduit_hold u cause c, fun clear => ?_, fun a raised => s.raiseConduit_of_raised c u cause raised⟩
    · rw [State.raiseConduit_alarm, if_neg other]
    · have alarm := s.raiseConduit_alarm u cause c c
      rw [if_pos rfl, clear] at alarm
      refine ⟨alarm, ?_, ?_, fun g => ?_⟩ <;> rw [s.raiseConduit_of_clear c u cause clear]
      · exact (State.produce_reports (s.setAlarm c _) _).of_eq rfl rfl
      · exact setCause_and_bit _ _
      · exact (State.handConduit_group _ c g).trans (by simp only [State.produce_uplink, State.produce_group]; rfl)
  · have now : exec (.conduitExpiry c) s = .next (s.clearConduit c a .expiry).settleArea := by
      change execConduitExpiry c s = _
      unfold execConduitExpiry
      rw [raised]
      exact if_pos due
    refine ⟨_, now, ?_, fun d other => ?_, (s.clearConduit_reports c a .expiry).settleArea, fun g => ?_, ?_, ?_, ?_, ?_, ?_,
      ?_⟩
    · rw [State.settleArea_alarm, State.clearConduit_alarm, if_pos rfl]
    · rw [State.settleArea_alarm, State.clearConduit_alarm, if_neg other]
    · rw [State.settleArea_group, State.clearConduit_group]
    · simp
    · simp
    · simp
    · simp
    · simp
    · rw [State.settleArea_conduits, State.clearConduit_hold]
  · unfold State.shadowed
    rw [Bool.and_eq_true, decide_eq_true_eq, State.maskRaised_iff]

end Sys2Proof.Machine
end

section
/-! PROOF. O23 to O27: the orders handed over to their owners, in terms of what each owner makes of its order. -/

namespace Sys2Proof.Machine

namespace State

variable (s : State) (o : OrderInHand) (take : State → OrderInHand → State)

/-! ### A hand-over (R155) -/

theorem handOver_control : (s.handOver o take).control = (take s.endTaken o).control := by simp [handOver]
theorem handOver_monitor : (s.handOver o take).monitor = (take s.endTaken o).monitor := by simp [handOver]
theorem handOver_uplink (u : Fin 32) : (s.handOver o take).uplink u = (take s.endTaken o).uplink u := by simp [handOver]
theorem handOver_conduits : (s.handOver o take).conduits = (take s.endTaken o).conduits := by simp [handOver]
theorem handOver_alarm (c : Fin 64) : (s.handOver o take).alarm c = (take s.endTaken o).alarm c := by simp [handOver]
theorem handOver_groups : (s.handOver o take).groups = (take s.endTaken o).groups := by simp [handOver]
theorem handOver_group (g : Nat) : (s.handOver o take).group g = (take s.endTaken o).group g := by simp [handOver]
theorem handOver_store : (s.handOver o take).store = (take s.endTaken o).store := by simp [handOver]
theorem handOver_port : (s.handOver o take).port = (take s.endTaken o).port := by simp [handOver]
theorem handOver_engine : (s.handOver o take).engine = (take s.endTaken o).engine := by simp [handOver]

theorem handOver_holding : (s.handOver o take).area.holding = (take s.endTaken o).area.holding := by
  simp [handOver, awaitSlot_holding]

theorem handOver_lastDrop : (s.handOver o take).area.lastDrop = (take s.endTaken o).area.lastDrop := by
  simp [handOver, awaitSlot_lastDrop]

theorem handOver_completions : (s.handOver o take).area.completions = (take s.endTaken o).area.completions := by
  simp [handOver, awaitSlot_completions]

variable {s o take}

/-- What an owner brings is what its hand-over brings. -/
theorem Brought.handOver {u : Fin 32} {moves : List Move} {raised : Option DarkCause} {others : List Entry}
    (taken : s.endTaken.Brought (take s.endTaken o) u moves raised others) :
    s.Brought (s.handOver o take) u moves raised others :=
  have whole := Brought.settleArea (Brought.awaitSlot taken o.slot)
  Brought.from (s := s) whole rfl rfl rfl rfl rfl rfl rfl (fun _ => rfl) rfl

theorem Completes.handOver {slot : Option (Fin 16)} {kind : OrderKind} {failed : Bool} {reason : OrderReason}
    {results : Results} (taken : s.endTaken.Completes (take s.endTaken o) slot kind failed reason results) :
    s.Completes (s.handOver o take) slot kind failed reason results :=
  (taken.handedOver o.slot).from rfl rfl rfl

/-- What the hand-over of an order that does no more than complete leaves. -/
structure OnlyCompletes (s t : State) (slot : Fin 16) (kind : OrderKind) (failed : Bool) (reason : OrderReason)
    (results : Results) : Prop where
  control : t.control.settings = s.control.settings
  monitor : t.monitor = s.monitor
  conduits : t.conduits = s.conduits
  groups : t.groups = s.groups
  store : t.store = s.store
  port : t.port = s.port
  engine : t.engine = s.engine
  completes : s.Completes t (some slot) kind failed reason results
  produced : s.Produced t (s.ending (some slot) kind failed reason results)

/-- An order that completes at once. -/
theorem OnlyCompletes.of_take {kind : OrderKind} {failed : Bool} {reason : OrderReason} {results : Results}
    (done : take s.endTaken o = s.endTaken.completeOrder (some o.slot) kind failed reason results) :
    s.OnlyCompletes (s.handOver o take) o.slot kind failed reason results where
  control := by
    rw [handOver_control, done]
    exact completeOrder_settings _ _ _ _ _ _
  monitor := by
    rw [handOver_monitor, done]
    exact completeOrder_monitor _ _ _ _ _ _
  conduits := by
    rw [handOver_conduits, done]
    exact completeOrder_conduits _ _ _ _ _ _
  groups := by
    rw [handOver_groups, done]
    exact completeOrder_groups _ _ _ _ _ _
  store := by
    rw [handOver_store, done]
    exact completeOrder_store _ _ _ _ _ _
  port := by
    rw [handOver_port, done]
    exact completeOrder_port _ _ _ _ _ _
  engine := by
    rw [handOver_engine, done]
    exact completeOrder_engine _ _ _ _ _ _
  completes := by
    refine Completes.handOver ?_
    rw [done]
    exact completeOrder_completes _ _ _ _ _ _
  produced := by
    have brought := Brought.handOver (s := s) (o := o) (take := take) (u := 0) (by
      rw [done]
      exact .completeOrder _ 0 _ _ _ _ _)
    obtain ⟨records, produced, perm⟩ := brought.effects.records
    have single : records = s.ending (some o.slot) kind failed reason results := by
      simp only [alarmed, Option.toList_none, List.flatMap_nil, List.map_nil, List.nil_append] at perm
      change records.Perm (s.ending (some o.slot) kind failed reason results) at perm
      unfold ending at perm ⊢
      cases held : s.held (some o.slot) with
      | none =>
        rw [held] at perm
        exact List.perm_singleton.mp perm
      | some k =>
        rw [held] at perm
        dsimp only at perm ⊢
        split at perm
        · next running => rw [if_pos running, List.perm_nil.mp perm]
        · next other => rw [if_neg other, List.perm_singleton.mp perm]
    rwa [single] at produced

/-! ### The uplink of an order -/

theorem orderUplink_none (above : 32 ≤ o.argA.toNat) : o.uplink = none := dif_neg (Nat.not_lt.mpr above)

theorem orderUplink_some {u : Fin 32} (names : o.argA.toNat = u.val) : o.uplink = some u := by
  have inside : o.argA.toNat < 32 := names ▸ u.isLt
  exact (dif_pos inside).trans (congrArg some (Fin.ext names))

/-- An order names an uplink, or its argument is above 31. -/
theorem orderUplink_cases (o : OrderInHand) : 32 ≤ o.argA.toNat ∨ ∃ u : Fin 32, o.argA.toNat = u.val := by
  by_cases inside : o.argA.toNat < 32
  · exact .inr ⟨⟨_, inside⟩, rfl⟩
  · exact .inl (Nat.le_of_not_lt inside)

/-! ### RELEASE (R19) -/

variable (s o)

theorem execRelease_eq (taken : s.orderTaken .release = some o) :
    exec .release s = .next (s.handOver o takeRelease) := by
  change execRelease s = _
  unfold execRelease
  rw [taken]

theorem takeRelease_badArg (above : 32 ≤ o.argA.toNat) :
    s.takeRelease o = s.completeOrder (some o.slot) .release true .badArg Results.zero := by
  unfold takeRelease
  rw [orderUplink_none above]

theorem takeRelease_badState {u : Fin 32} (names : o.argA.toNat = u.val) (other : (s.uplink u).state ≠ .quarantined) :
    s.takeRelease o = s.completeOrder (some o.slot) .release true .badState Results.zero := by
  unfold takeRelease
  rw [orderUplink_some names]
  exact if_pos other

/-- The uplink that is released, before its order completes. -/
def released (u : Fin 32) : State :=
  (s.modifyUplink u fun r =>
    { r with flaps := [], missCount := 0, blindCount := 0, runCount := 0, mismatchMark := false }).changeState u
      .proving (s.uplink u).darkCause

theorem takeRelease_released {u : Fin 32} (names : o.argA.toNat = u.val)
    (quarantined : (s.uplink u).state = .quarantined) :
    s.takeRelease o = (s.released u).completeOrder (some o.slot) .release false .none Results.zero := by
  unfold takeRelease
  rw [orderUplink_some names]
  exact if_neg (not_not.mpr quarantined)

theorem released_keepsOrders (u : Fin 32) : s.KeepsOrders (s.released u) :=
  (KeepsOrders.modifyUplink s u _).trans (.changeState _ _ _ _)

theorem released_brought {u : Fin 32} (quarantined : (s.uplink u).state = .quarantined) : s.Brought (s.released u) u
    [{ left := .quarantined, entered := .proving, cause := (s.uplink u).darkCause }] none [] := by
  have moved := Brought.changeAfter s u (f := fun r =>
    { r with flaps := [], missCount := 0, blindCount := 0, runCount := 0, mismatchMark := false }) .proving
    (s.uplink u).darkCause rfl
  rwa [quarantined] at moved

theorem released_masks (u w : Fin 32) :
    ((s.released u).uplink w).params.conduitMask = (s.uplink w).params.conduitMask :=
  (changeState_masks _ _ _ _ w).trans (modifyUplink_masks s u (by rfl) w)

theorem takeRelease_conduits : (s.takeRelease o).conduits = s.conduits := by
  unfold takeRelease
  split
  · exact completeOrder_conduits _ _ _ _ _ _
  · split <;> simp

/-! ### DRILL_START (R20) -/

theorem execDrillStart_eq (taken : s.orderTaken .drillStart = some o) :
    exec .drillStart s = .next (s.handOver o takeDrillStart) := by
  change execDrillStart s = _
  unfold execDrillStart
  rw [taken]

theorem takeDrillStart_badArg (bad : 32 ≤ o.argA.toNat ∨ o.argB.toNat = 0 ∨ 3600 < o.argB.toNat) :
    s.takeDrillStart o = s.completeOrder (some o.slot) .drillStart true .badArg Results.zero := by
  unfold takeDrillStart
  rcases orderUplink_cases o with above | ⟨u, names⟩
  · rw [orderUplink_none above]
  · have short : ¬ inRange 1 3600 o.argB.toNat = true := by
      rw [inRange_iff]
      have := u.isLt
      omega
    rw [orderUplink_some names]
    exact if_pos (by simpa using short)

theorem takeDrillStart_badState {u : Fin 32} (names : o.argA.toNat = u.val) (least : 1 ≤ o.argB.toNat)
    (most : o.argB.toNat ≤ 3600) (other : (s.uplink u).state ≠ .up) :
    s.takeDrillStart o = s.completeOrder (some o.slot) .drillStart true .badState Results.zero := by
  unfold takeDrillStart
  rw [orderUplink_some names]
  exact (if_neg (by simp [(inRange_iff _ _ _).mpr ⟨least, most⟩])).trans (if_pos other)

/-- The record of a drill that order `o` starts. -/
def drillBegun : DrillRecord :=
  { endTime := s.now + BitVec.ofNat 32 (1000000 * o.argB.toNat), slot := some o.slot, finding := none, walkResult := none }

theorem takeDrillStart_begins {u : Fin 32} (names : o.argA.toNat = u.val) (least : 1 ≤ o.argB.toNat)
    (most : o.argB.toNat ≤ 3600) (up : (s.uplink u).state = .up) : s.takeDrillStart o =
    (s.modifyUplink u fun r => { r with drill := some (s.drillBegun o) }).changeState u .drill (some .drill) := by
  unfold takeDrillStart
  rw [orderUplink_some names]
  exact (if_neg (by simp [(inRange_iff _ _ _).mpr ⟨least, most⟩])).trans (if_neg (not_not.mpr up))

theorem takeDrillStart_conduits : (s.takeDrillStart o).conduits = s.conduits := by
  unfold takeDrillStart
  split
  · exact completeOrder_conduits _ _ _ _ _ _
  · split
    · exact completeOrder_conduits _ _ _ _ _ _
    · split <;> simp

end State

/-- Settles O23: RELEASE and DRILL_START, refused for their argument or the uplink's state, or carried out. -/
theorem releaseAndDrillStartOrders : Obligations.ReleaseAndDrillStartOrders := by
  unfold Obligations.ReleaseAndDrillStartOrders
  constructor
  · intro s o taken
    have failing {reason : OrderReason} (done : s.endTaken.takeRelease o = s.endTaken.completeOrder (some o.slot)
        .release true reason Results.zero) := State.OnlyCompletes.of_take done
    refine ⟨_, s.execRelease_eq o taken, ?_, ?_, ?_, ?_, fun above => ?_, fun u names other => ?_,
      fun u names quarantined => ?_⟩
    · rw [State.handOver_store]
      exact State.takeRelease_store _ _
    · rw [State.handOver_port]
      exact State.takeRelease_port _ _
    · rw [State.handOver_conduits]
      exact State.takeRelease_conduits _ _
    · rw [State.handOver_control]
      exact State.takeRelease_settings _ _
    · have only := failing (s.endTaken.takeRelease_badArg o above)
      exact ⟨only.monitor, only.engine, only.groups, only.completes, only.produced⟩
    · have only := failing (s.endTaken.takeRelease_badState o names other)
      exact ⟨only.monitor, only.engine, only.groups, only.completes, only.produced⟩
    · have done := s.endTaken.takeRelease_released o names quarantined
      have kept := s.endTaken.released_keepsOrders u
      have run : (s.endTaken.released u).control.runState = s.control.runState := State.changeState_runState _ _ _ _
      have brought : s.Brought (s.handOver o State.takeRelease) u
          [{ left := .quarantined, entered := .proving, cause := (s.uplink u).darkCause }] none
          (s.ending (some o.slot) .release false .none Results.zero) := by
        refine State.Brought.handOver ?_
        rw [done]
        have ends := State.Brought.completeOrder (s.endTaken.released u) u (some o.slot) .release false .none Results.zero
        rw [State.ending_eq kept run] at ends
        exact (s.endTaken.released_brought quarantined).then ends (s.endTaken.released_masks u)
          (State.changeState_conduits _ _ _ _)
      refine ⟨?_, fun v other => ?_, ?_, brought.effects, ?_⟩
      · rw [State.handOver_uplink, done, State.completeOrder_uplink, State.released, State.changeState_uplink_self,
          State.modifyUplink_uplink_self]
        rfl
      · rw [State.handOver_uplink, done, State.completeOrder_uplink, State.released,
          State.changeState_uplink_other _ _ _ _ _ other, State.modifyUplink_uplink_other _ _ _ _ other]
        rfl
      · refine State.Completes.handOver ?_
        rw [done]
        exact (State.completeOrder_completes (s.endTaken.released u) _ _ _ _ _).from (State.changeState_now _ _ _ _) run
          (kept.held _)
      · simpa using brought.rechecks
  · intro s o taken
    have failing {reason : OrderReason} (done : s.endTaken.takeDrillStart o = s.endTaken.completeOrder (some o.slot)
        .drillStart true reason Results.zero) := State.OnlyCompletes.of_take done
    refine ⟨_, s.execDrillStart_eq o taken, ?_, ?_, ?_, ?_, fun bad => ?_, fun u names least most other => ?_,
      fun u names least most up => ?_⟩
    · rw [State.handOver_store]
      exact State.takeDrillStart_store _ _
    · rw [State.handOver_port]
      exact State.takeDrillStart_port _ _
    · rw [State.handOver_conduits]
      exact State.takeDrillStart_conduits _ _
    · rw [State.handOver_control]
      exact State.takeDrillStart_settings _ _
    · have only := failing (s.endTaken.takeDrillStart_badArg o bad)
      exact ⟨only.monitor, only.engine, only.groups, only.completes, only.produced⟩
    · have only := failing (s.endTaken.takeDrillStart_badState o names least most other)
      exact ⟨only.monitor, only.engine, only.groups, only.completes, only.produced⟩
    · have begins := s.endTaken.takeDrillStart_begins o names least most up
      have brought : s.Brought (s.handOver o State.takeDrillStart) u
          [{ left := .up, entered := .drill, cause := some .drill }] none [] := by
        refine State.Brought.handOver ?_
        rw [begins]
        have moved := State.Brought.changeAfter s.endTaken u (f := fun r =>
          { r with drill := some (s.endTaken.drillBegun o) }) .drill (some .drill) rfl
        have left : (s.endTaken.uplink u).state = .up := up
        rwa [left] at moved
      refine ⟨?_, fun v other => ?_, ?_, brought.effects, by simpa using brought.rechecks⟩
      · rw [State.handOver_uplink, begins, State.changeState_uplink_self, State.modifyUplink_uplink_self]
        rfl
      · rw [State.handOver_uplink, begins, State.changeState_uplink_other _ _ _ _ _ other,
          State.modifyUplink_uplink_other _ _ _ _ other]
        rfl
      · rw [State.handOver_completions, begins]
        exact (State.KeepsOrders.changeState _ _ _ _).2.1

namespace State

variable (s : State) (o : OrderInHand)

/-! ### DRILL_END (R24) -/

theorem execDrillEnd_eq (taken : s.orderTaken .drillEnd = some o) :
    exec .drillEnd s = .next (s.handOver o takeDrillEnd) := by
  change execDrillEnd s = _
  unfold execDrillEnd
  rw [taken]

theorem takeDrillEnd_badArg (above : 32 ≤ o.argA.toNat) :
    s.takeDrillEnd o = s.completeOrder (some o.slot) .drillEnd true .badArg Results.zero := by
  unfold takeDrillEnd
  rw [orderUplink_none above]

theorem takeDrillEnd_badState {u : Fin 32} (names : o.argA.toNat = u.val) (other : (s.uplink u).state ≠ .drill) :
    s.takeDrillEnd o = s.completeOrder (some o.slot) .drillEnd true .badState Results.zero := by
  unfold takeDrillEnd
  rw [orderUplink_some names]
  dsimp only
  split
  · next state _ => exact absurd state other
  · rfl

theorem takeDrillEnd_ends {u : Fin 32} {d : DrillRecord} (names : o.argA.toNat = u.val)
    (state : (s.uplink u).state = .drill) (drill : (s.uplink u).drill = some d) : s.takeDrillEnd o =
    (s.endDrill u d false .none).completeOrder (some o.slot) .drillEnd false .none Results.zero := by
  unfold takeDrillEnd
  rw [orderUplink_some names]
  dsimp only
  rw [state, drill]

/-- The completion of an order leaves the hold of every other slot. -/
theorem completeOrder_held (slot : Option (Fin 16)) (kind : OrderKind) (failed : Bool) (reason : OrderReason)
    (results : Results) {k : Fin 16} (apart : slot ≠ some k) :
    (s.completeOrder slot kind failed reason results).area.slotHolds.get k = s.area.slotHolds.get k := by
  unfold completeOrder
  cases found : s.held slot with
  | none => exact congrArg (·.get k) (produce_area_slotHolds _ _)
  | some j =>
    have named : slot = some j := by
      unfold State.held at found
      exact (Option.filter_eq_some_iff.mp found).1
    have other : j.val ≠ k.val := fun same => apart (named.trans (congrArg some (Fin.ext same)))
    dsimp only
    split
    · rfl
    · unfold reportEnded
      rw [produce_area_slotHolds]
      simp [dropHold, Vector.get_eq_getElem, other]

/-- What is reported stays reported when an order completes in the same event. -/
theorem Reports.completeOrder {t : State} {now : PartTime} {e : Entry} (h : t.Reports now e) (same : t.now = now)
    (slot : Option (Fin 16)) (kind : OrderKind) (failed : Bool) (reason : OrderReason) (results : Results) :
    (t.completeOrder slot kind failed reason results).Reports now e := by
  subst same
  unfold State.completeOrder
  split
  · next k _ =>
    split
    · exact h.of_eq rfl rfl
    · exact (h.of_eq (s := t) (t := t.dropHold k) rfl rfl).produce _
  · exact h.produce _

/-- What completed stays so when an order of another slot completes. -/
theorem Completes.completeOrder {s t : State} {slot : Option (Fin 16)} {kind : OrderKind} {failed : Bool}
    {reason : OrderReason} {results : Results} (done : s.Completes t slot kind failed reason results)
    (now : t.now = s.now) (slot' : Fin 16) (kind' : OrderKind) (failed' : Bool) (reason' : OrderReason)
    (results' : Results) (apart : slot ≠ some slot') :
    s.Completes (t.completeOrder (some slot') kind' failed' reason' results') slot kind failed reason results := by
  unfold Completes at *
  cases held : s.held slot with
  | none =>
    rw [held] at done
    exact done.completeOrder now _ _ _ _ _
  | some k =>
    have named : slot = some k := by
      unfold State.held at held
      exact (Option.filter_eq_some_iff.mp held).1
    rw [held] at done
    dsimp only at done ⊢
    split
    · next running =>
      rw [if_pos running] at done
      unfold State.completeOrder
      split
      · split
        · exact List.mem_append_left _ done
        · rwa [State.reportEnded, produce_area_completions]
      · rwa [State.reportEnded, produce_area_completions]
    · next other =>
      rw [if_neg other] at done
      refine ⟨done.1.completeOrder now _ _ _ _ _, ?_⟩
      rw [completeOrder_held t (some slot') kind' failed' reason' results' (fun same => apart (named.trans same.symm))]
      exact done.2

/-- The end of a drill leaves the hold of every slot but its order's. -/
theorem endDrill_held {u : Fin 32} {d : DrillRecord} {k : Fin 16} (apart : d.slot ≠ some k) (failed : Bool)
    (reason : OrderReason) : (s.endDrill u d failed reason).held (some k) = s.held (some k) := by
  have holds : (s.endDrill u d failed reason).area.slotHolds.get k = s.area.slotHolds.get k := by
    unfold endDrill
    refine (completeOrder_held _ _ _ _ _ _ apart).trans ?_
    rw [(KeepsOrders.judgeDrill s u d).2.2]
  unfold State.held
  simp only [Option.filter_some, holds]

theorem endDrill_masks {u : Fin 32} {d : DrillRecord} (failed : Bool) (reason : OrderReason) (w : Fin 32) :
    ((s.endDrill u d failed reason).uplink w).params.conduitMask = (s.uplink w).params.conduitMask := by
  unfold endDrill
  rw [modifyUplink_masks _ _ (by rfl), completeOrder_uplink]
  exact judgeDrill_masks s u d w

end State

theorem ConduitTable.drillEnded_hold (c : ConduitTable) (r : UplinkRecord) (u : Fin 32) (finding : Option DarkCause)
    (now : PartTime) : (c.drillEnded r u finding now).hold = c.hold := by
  unfold drillEnded
  split
  · exact State.raised_hold _ _ _ _ _
  · exact State.raised_hold _ _ _ _ _
  · rfl

/-- Settles O24: DRILL_END ends the drill as its end time does, and then completes. -/
theorem drillEndEndsTheDrill : Obligations.DrillEndEndsTheDrill := by
  unfold Obligations.DrillEndEndsTheDrill
  intro s o taken
  have failing {reason : OrderReason} (done : s.endTaken.takeDrillEnd o = s.endTaken.completeOrder (some o.slot)
      .drillEnd true reason Results.zero) := State.OnlyCompletes.of_take done
  refine ⟨_, s.execDrillEnd_eq o taken, ?_, ?_, ?_, fun above => ?_, fun u names other => ?_,
    fun u d names state drill apart => ?_⟩
  · rw [State.handOver_store]
    exact State.takeDrillEnd_store _ _
  · rw [State.handOver_port]
    exact State.takeDrillEnd_port _ _
  · rw [State.handOver_control]
    exact State.takeDrillEnd_settings _ _
  · have only := failing (s.endTaken.takeDrillEnd_badArg o above)
    exact ⟨only.monitor, only.conduits, only.engine, only.groups, only.completes, only.produced⟩
  · have only := failing (s.endTaken.takeDrillEnd_badState o names other)
    exact ⟨only.monitor, only.conduits, only.engine, only.groups, only.completes, only.produced⟩
  · have done := s.endTaken.takeDrillEnd_ends o names state drill
    have now : (s.endTaken.endDrill u d false .none).now = s.now := State.endDrill_now _ _ _ _ _
    have run : (s.endTaken.endDrill u d false .none).control.runState = s.control.runState :=
      State.endDrill_runState _ _ _ _ _
    have held : (s.endTaken.endDrill u d false .none).held (some o.slot) = s.held (some o.slot) :=
      s.endTaken.endDrill_held apart false .none
    have ending : (s.endTaken.endDrill u d false .none).ending (some o.slot) .drillEnd false .none Results.zero
        = s.ending (some o.slot) .drillEnd false .none Results.zero := by
      unfold State.ending
      rw [held, run]
    have hold : (s.endTaken.endDrill u d false .none).conduits.hold = s.conduits.hold := by
      rw [State.endDrill_conduits, ConduitTable.drillEnded_hold]
      rfl
    have brought : s.Brought (s.handOver o State.takeDrillEnd) u [(s.uplink u).drillMove] d.raises
        (s.ending d.slot .drillStart false .none (drillResults d (s.walkOf u) ((s.uplink u).drillSound d))
          ++ s.ending (some o.slot) .drillEnd false .none Results.zero) := by
      refine State.Brought.handOver ?_
      rw [done, ← ending]
      exact (State.Brought.endDrill s.endTaken u d false .none drill).last
        (State.Brought.completeOrder _ u _ _ _ _ _) (s.endTaken.endDrill_masks false .none) hold
    refine ⟨?_, ?_, fun v other => ?_, ?_, ?_, brought.effects, by simpa using brought.rechecks⟩
    · rw [State.handOver_uplink, done, State.completeOrder_uplink]
      exact s.endTaken.endDrill_uplink_self u d false .none drill
    · rw [State.handOver_conduits, done, State.completeOrder_conduits]
      exact s.endTaken.endDrill_conduits u d false .none
    · rw [State.handOver_uplink, done, State.completeOrder_uplink]
      exact s.endTaken.endDrill_uplink_other u d false .none other
    · have first : s.endTaken.Completes (s.endTaken.endDrill u d false .none) d.slot .drillStart false .none
          (drillResults d (s.walkOf u) ((s.uplink u).drillSound d)) := s.endTaken.endDrill_completes u d false .none
      have both := first.completeOrder (State.endDrill_now _ _ _ _ _) o.slot .drillEnd false .none Results.zero apart
      rw [← done] at both
      exact both.handOver
    · refine State.Completes.handOver ?_
      rw [done]
      exact (State.completeOrder_completes (s.endTaken.endDrill u d false .none) _ _ _ _ _).from now run held

end Sys2Proof.Machine
end

section
/-! PROOF. O25, O26, O27: PIN and UNPIN, CONDUIT_CLEAR, SNAPSHOT. -/

namespace Sys2Proof.Machine

namespace State

variable (s : State) (o : OrderInHand)

/-! ### PIN and UNPIN (R69, R70) -/

theorem execPin_eq (taken : s.orderTaken .pin = some o) : exec .pin s = .next (s.handOver o takePin) := by
  change execPin s = _
  unfold execPin
  rw [taken]

theorem execUnpin_eq (taken : s.orderTaken .unpin = some o) : exec .unpin s = .next (s.handOver o takeUnpin) := by
  change execUnpin s = _
  unfold execUnpin
  rw [taken]

theorem takePin_outside (outside : s.area.groupCount ≤ o.argA.toNat ∨ 15 < o.argB.toNat) :
    s.takePin o = s.completeOrder (some o.slot) .pin true .badArg Results.zero := if_pos outside

theorem takePin_notLive (inside : o.argA.toNat < s.area.groupCount) (slot : o.argB.toNat ≤ 15)
    (idle : (s.group o.argA.toNat).live = none) :
    s.takePin o = s.completeOrder (some o.slot) .pin true .badState Results.zero := by
  unfold takePin
  simp only [not_or.mpr ⟨Nat.not_le.mpr inside, Nat.not_lt.mpr slot⟩, if_false, idle]

theorem takePin_noMember {run : LiveRun} (inside : o.argA.toNat < s.area.groupCount) (slot : o.argB.toNat ≤ 15)
    (live : (s.group o.argA.toNat).live = some run) (absent : run.fields.members[o.argB.toNat]? = none) :
    s.takePin o = s.completeOrder (some o.slot) .pin true .badArg Results.zero := by
  unfold takePin
  simp only [not_or.mpr ⟨Nat.not_le.mpr inside, Nat.not_lt.mpr slot⟩, if_false, live, GroupFields.uplinkOf, absent,
    Option.map_none]

theorem takePin_pins {run : LiveRun} {m : Member} (inside : o.argA.toNat < s.area.groupCount) (slot : o.argB.toNat ≤ 15)
    (live : (s.group o.argA.toNat).live = some run) (member : run.fields.members[o.argB.toNat]? = some m) :
    s.takePin o = (s.setGroup o.argA.toNat { s.group o.argA.toNat with pin := some o.argB.toNat }).completeOrder
      (some o.slot) .pin false .none
      { Results.zero with r1 := pinResult (s.group o.argA.toNat).pin, r2 := BitVec.ofNat 32 m.uplink.val } := by
  unfold takePin
  simp only [not_or.mpr ⟨Nat.not_le.mpr inside, Nat.not_lt.mpr slot⟩, if_false, live, GroupFields.uplinkOf, member,
    Option.map_some]

theorem takeUnpin_outside (outside : s.area.groupCount ≤ o.argA.toNat) :
    s.takeUnpin o = s.completeOrder (some o.slot) .unpin true .badArg Results.zero := if_pos outside

theorem takeUnpin_notLive (inside : o.argA.toNat < s.area.groupCount) (idle : (s.group o.argA.toNat).live = none) :
    s.takeUnpin o = s.completeOrder (some o.slot) .unpin true .badState Results.zero := by
  unfold takeUnpin
  simp only [Nat.not_le.mpr inside, if_false, idle]

theorem takeUnpin_unpins {run : LiveRun} (inside : o.argA.toNat < s.area.groupCount)
    (live : (s.group o.argA.toNat).live = some run) :
    s.takeUnpin o = (s.setGroup o.argA.toNat { s.group o.argA.toNat with pin := none }).completeOrder
      (some o.slot) .unpin false .none { Results.zero with r1 := pinResult (s.group o.argA.toNat).pin } := by
  unfold takeUnpin
  simp only [Nat.not_le.mpr inside, if_false, live]

theorem takePin_group_other {h : Nat} (other : h ≠ o.argA.toNat) : (s.takePin o).group h = s.group h := by
  unfold takePin
  dsimp only
  split
  · exact completeOrder_group _ _ _ _ _ _ _
  · split
    · exact completeOrder_group _ _ _ _ _ _ _
    · split
      · exact completeOrder_group _ _ _ _ _ _ _
      · rw [completeOrder_group, setGroup_group_other _ _ _ _ other]

theorem takeUnpin_group_other {h : Nat} (other : h ≠ o.argA.toNat) : (s.takeUnpin o).group h = s.group h := by
  unfold takeUnpin
  dsimp only
  split
  · exact completeOrder_group _ _ _ _ _ _ _
  · split
    · exact completeOrder_group _ _ _ _ _ _ _
    · rw [completeOrder_group, setGroup_group_other _ _ _ _ other]

/-- A group's record is written, and then its order completes. -/
theorem completes_setGroup {take : State → OrderInHand → State} {g : Nat} {r : GroupRecord} {kind : OrderKind}
    {failed : Bool} {reason : OrderReason} {results : Results} (canonical : s.Canonical)
    (done : take s.endTaken o = (s.endTaken.setGroup g r).completeOrder (some o.slot) kind failed reason results) :
    (s.handOver o take).group g = r ∧ s.Completes (s.handOver o take) (some o.slot) kind failed reason results := by
  obtain ⟨-, -, groups, -⟩ := canonical
  constructor
  · rw [handOver_group, done, completeOrder_group]
    exact setGroup_group_same s.endTaken g r groups
  · refine Completes.handOver ?_
    rw [done]
    exact (completeOrder_completes (s.endTaken.setGroup g r) _ _ _ _ _).from rfl rfl rfl

end State

theorem pinResult_eq (p : Option Nat) : pinResult p = BitVec.ofNat 32 (p.getD 0xFF) := by
  cases p <;> rfl

/-- Settles O25: PIN and UNPIN, refused or carried out on the group's record. -/
theorem pinOrdersSetThePin : Obligations.PinOrdersSetThePin := by
  unfold Obligations.PinOrdersSetThePin
  constructor
  · intro s o canonical taken
    have failing {reason : OrderReason} (done : s.endTaken.takePin o = s.endTaken.completeOrder (some o.slot) .pin true
        reason Results.zero) := State.OnlyCompletes.of_take done
    refine ⟨_, s.execPin_eq o taken, ?_, ?_, ?_, ?_, ?_, ?_, fun h other => ?_, fun outside => ?_,
      fun inside slot idle => ?_, fun run inside slot live absent => ?_, fun run m inside slot live member => ?_⟩
    · exact (s.handOver_store o _).trans (State.takePin_store _ _)
    · exact (s.handOver_port o _).trans (State.takePin_port _ _)
    · exact (s.handOver_monitor o _).trans (State.takePin_monitor _ _)
    · exact (s.handOver_engine o _).trans (State.takePin_engine _ _)
    · exact (s.handOver_conduits o _).trans (State.takePin_conduits _ _)
    · rw [State.handOver_control]
      exact State.takePin_settings _ _
    · exact (s.handOver_group o _ h).trans (State.takePin_group_other _ o other)
    · have only := failing (s.endTaken.takePin_outside o outside)
      exact ⟨only.groups, only.completes⟩
    · have only := failing (s.endTaken.takePin_notLive o inside slot idle)
      exact ⟨only.groups, only.completes⟩
    · have only := failing (s.endTaken.takePin_noMember o inside slot live absent)
      exact ⟨only.groups, only.completes⟩
    · have pinned := s.completes_setGroup o canonical (s.endTaken.takePin_pins o inside slot live member)
      rwa [pinResult_eq] at pinned
  · intro s o canonical taken
    have failing {reason : OrderReason} (done : s.endTaken.takeUnpin o = s.endTaken.completeOrder (some o.slot) .unpin
        true reason Results.zero) := State.OnlyCompletes.of_take done
    refine ⟨_, s.execUnpin_eq o taken, ?_, ?_, ?_, ?_, ?_, ?_, fun h other => ?_, fun outside => ?_,
      fun inside idle => ?_, fun run inside live => ?_⟩
    · exact (s.handOver_store o _).trans (State.takeUnpin_store _ _)
    · exact (s.handOver_port o _).trans (State.takeUnpin_port _ _)
    · exact (s.handOver_monitor o _).trans (State.takeUnpin_monitor _ _)
    · exact (s.handOver_engine o _).trans (State.takeUnpin_engine _ _)
    · exact (s.handOver_conduits o _).trans (State.takeUnpin_conduits _ _)
    · rw [State.handOver_control]
      exact State.takeUnpin_settings _ _
    · exact (s.handOver_group o _ h).trans (State.takeUnpin_group_other _ o other)
    · have only := failing (s.endTaken.takeUnpin_outside o outside)
      exact ⟨only.groups, only.completes⟩
    · have only := failing (s.endTaken.takeUnpin_notLive o inside idle)
      exact ⟨only.groups, only.completes⟩
    · have unpinned := s.completes_setGroup o canonical (s.endTaken.takeUnpin_unpins o inside live)
      rwa [pinResult_eq] at unpinned

namespace State

variable (s : State) (o : OrderInHand)

/-! ### CONDUIT_CLEAR (R46) -/

theorem execConduitClear_eq (taken : s.orderTaken .conduitClear = some o) :
    exec .conduitClear s = .next (s.handOver o takeConduitClear) := by
  change execConduitClear s = _
  unfold execConduitClear
  rw [taken]

theorem takeConduitClear_outside (above : 64 ≤ o.argA.toNat) :
    s.takeConduitClear o = s.completeOrder (some o.slot) .conduitClear true .badArg Results.zero :=
  dif_neg (Nat.not_lt.mpr above)

theorem takeConduitClear_clear {c : Fin 64} (names : o.argA.toNat = c.val) (clear : s.alarm c = none) :
    s.takeConduitClear o = s.completeOrder (some o.slot) .conduitClear false .none Results.zero := by
  have inside : o.argA.toNat < 64 := names ▸ c.isLt
  obtain rfl : c = ⟨o.argA.toNat, inside⟩ := Fin.ext names.symm
  unfold takeConduitClear
  simp only [inside, dif_pos, clear]

theorem takeConduitClear_raised {c : Fin 64} {a : Alarm} (names : o.argA.toNat = c.val) (raised : s.alarm c = some a) :
    s.takeConduitClear o = (s.clearConduit c a .order).completeOrder (some o.slot) .conduitClear false .none
      { Results.zero with r1 := 1, r2 := BitVec.ofNat 32 a.raiseCount } := by
  have inside : o.argA.toNat < 64 := names ▸ c.isLt
  obtain rfl : c = ⟨o.argA.toNat, inside⟩ := Fin.ext names.symm
  unfold takeConduitClear
  simp only [inside, dif_pos, raised]

theorem takeConduitClear_hold : (s.takeConduitClear o).conduits.hold = s.conduits.hold := by
  unfold takeConduitClear
  split
  · dsimp only
    split
    · rw [completeOrder_conduits]
    · rw [completeOrder_conduits, clearConduit_hold]
  · rw [completeOrder_conduits]

theorem KeepsOrders.clearConduit (c : Fin 64) (a : Alarm) (reason : ClearReason) :
    s.KeepsOrders (s.clearConduit c a reason) :=
  ((KeepsOrders.of_area (s := s) (t := s.setAlarm c none) rfl).trans (.produce _ _)).trans (.of_area rfl)

/-- A completion that is written to its slot makes no record. -/
theorem completeOrder_holding {kind : OrderKind} {failed : Bool} {reason : OrderReason} {results : Results}
    {slot : Option (Fin 16)} (running : s.control.runState = .running) (held : s.held slot ≠ none) :
    (s.completeOrder slot kind failed reason results).area.holding = s.area.holding := by
  obtain ⟨k, holds⟩ := Option.ne_none_iff_exists'.mp held
  unfold completeOrder
  simp only [holds, running, if_true]
  rfl

end State

/-- Settles O26: CONDUIT_CLEAR, for no conduit, a CLEAR one and a RAISED one. -/
theorem conduitClearOrderClears : Obligations.ConduitClearOrderClears := by
  unfold Obligations.ConduitClearOrderClears
  intro s o taken
  refine ⟨_, s.execConduitClear_eq o taken, ?_, ?_, ?_, ?_, ?_, ?_, fun above => ?_, fun c names => ?_⟩
  · exact (s.handOver_store o _).trans (State.takeConduitClear_store _ _)
  · exact (s.handOver_port o _).trans (State.takeConduitClear_port _ _)
  · exact (s.handOver_monitor o _).trans (State.takeConduitClear_monitor _ _)
  · exact (s.handOver_engine o _).trans (State.takeConduitClear_engine _ _)
  · rw [State.handOver_conduits]
    exact State.takeConduitClear_hold _ _
  · rw [State.handOver_control]
    exact State.takeConduitClear_settings _ _
  · have only := State.OnlyCompletes.of_take (s.endTaken.takeConduitClear_outside o above)
    exact ⟨only.conduits, only.completes⟩
  · cases alarm : s.alarm c with
    | none =>
      have done := s.endTaken.takeConduitClear_clear o names alarm
      have only := State.OnlyCompletes.of_take done
      have alarms (d : Fin 64) : (s.handOver o State.takeConduitClear).alarm d = s.alarm d := by
        unfold State.alarm
        rw [only.conduits]
      refine ⟨(alarms c).trans alarm, fun d _ => alarms d, fun _ => ⟨only.completes, only.groups, fun running held => ?_⟩,
        nofun⟩
      rw [State.handOver_holding, done]
      exact s.endTaken.completeOrder_holding running held
    | some a =>
      have done := s.endTaken.takeConduitClear_raised o names alarm
      have alarms (d : Fin 64) : (s.handOver o State.takeConduitClear).alarm d = if d = c then none else s.alarm d := by
        rw [State.handOver_alarm, done, State.completeOrder_alarm, State.clearConduit_alarm]
        rfl
      have now : (s.endTaken.clearConduit c a .order).now = s.now := State.clearConduit_now _ _ _ _
      refine ⟨(alarms c).trans (if_pos rfl), fun d other => (alarms d).trans (if_neg other), nofun, fun b same => ?_⟩
      obtain rfl := Option.some.inj same
      refine ⟨?_, fun g => ?_, ?_⟩
      · have reported := (s.endTaken.clearConduit_reports c a .order).completeOrder now (some o.slot) .conduitClear false
          .none { Results.zero with r1 := 1, r2 := BitVec.ofNat 32 a.raiseCount }
        rw [← done] at reported
        exact reported.of_eq (s.handOver_holding o _) (s.handOver_lastDrop o _)
      · rw [State.handOver_group, done, State.completeOrder_group, State.clearConduit_group]
        rfl
      · refine State.Completes.handOver ?_
        rw [done]
        exact (State.completeOrder_completes (s.endTaken.clearConduit c a .order) _ _ _ _ _).from now
          (State.clearConduit_runState _ _ _ _) ((State.KeepsOrders.clearConduit _ _ _ _).held _)

namespace State

variable (s : State) (o : OrderInHand)

/-! ### SNAPSHOT (R90) -/

theorem execSnapshot_eq (taken : s.orderTaken .snapshot = some o) :
    exec .snapshot s = .next (s.handOver o takeSnapshot) := by
  change execSnapshot s = _
  unfold execSnapshot
  rw [taken]

theorem takeSnapshot_badArg (bad : s.area.groupCount ≤ o.argA.toNat ∨ ¬ o.buffer.toNat % 4 = 0) :
    s.takeSnapshot o = s.completeOrder (some o.slot) .snapshot true .badArg Results.zero := by
  unfold takeSnapshot
  dsimp only
  split
  · rfl
  · next inside => exact if_pos (bad.resolve_left inside)

variable (inside : o.argA.toNat < s.area.groupCount) (aligned : o.buffer.toNat % 4 = 0)
include inside aligned

theorem takeSnapshot_notLive (idle : (s.group o.argA.toNat).live = none) :
    s.takeSnapshot o = s.completeOrder (some o.slot) .snapshot true .badState Results.zero := by
  unfold takeSnapshot liveRun
  simp only [Nat.not_le.mpr inside, not_not.mpr aligned, if_false, idle]

theorem takeSnapshot_short {run : LiveRun} (live : (s.group o.argA.toNat).live = some run)
    (short : o.length.toNat < 4 * run.fields.bucketSize) :
    s.takeSnapshot o = s.completeOrder (some o.slot) .snapshot true .badArg Results.zero := by
  unfold takeSnapshot liveRun
  simp only [Nat.not_le.mpr inside, not_not.mpr aligned, if_false, live, short, if_true]

theorem takeSnapshot_busy {run : LiveRun} (live : (s.group o.argA.toNat).live = some run)
    (long : 4 * run.fields.bucketSize ≤ o.length.toNat) (busy : s.store.snapshot ≠ none) :
    s.takeSnapshot o = s.completeOrder (some o.slot) .snapshot true .badState Results.zero := by
  have some : s.store.snapshot.isSome = true := Option.isSome_iff_ne_none.mpr busy
  unfold takeSnapshot liveRun
  simp only [Nat.not_le.mpr inside, not_not.mpr aligned, if_false, live, Nat.not_lt.mpr long, some, if_true]

theorem takeSnapshot_begins {run : LiveRun} (live : (s.group o.argA.toNat).live = some run)
    (long : 4 * run.fields.bucketSize ≤ o.length.toNat) (idle : s.store.snapshot = none) :
    s.takeSnapshot o = s.setSnapshot (some
      { slot := o.slot, group := o.argA.toNat, blocks := run.blocks
        generation := (s.group o.argA.toNat).adoptedGeneration
        buffer := o.buffer, next := 0, faulted := 0, start := s.now, reading := false }) := by
  unfold takeSnapshot liveRun
  simp only [Nat.not_le.mpr inside, not_not.mpr aligned, if_false, live, Nat.not_lt.mpr long, idle, Option.isSome_none,
    Bool.false_eq_true]

end State

/-- Settles O27: SNAPSHOT, refused by the tests of R90 in their order, or begun. -/
theorem snapshotOrderBeginsASnapshot : Obligations.SnapshotOrderBeginsASnapshot := by
  unfold Obligations.SnapshotOrderBeginsASnapshot
  intro s o taken
  have failing {reason : OrderReason} (done : s.endTaken.takeSnapshot o = s.endTaken.completeOrder (some o.slot) .snapshot
      true reason Results.zero) := State.OnlyCompletes.of_take done
  refine ⟨_, s.execSnapshot_eq o taken, ?_, ?_, ?_, ?_, ?_, ?_, fun bad => ?_, fun inside aligned idle => ?_,
    fun run inside aligned live short => ?_, fun run inside aligned live long busy => ?_,
    fun run inside aligned live long idle => ?_⟩
  · exact (s.handOver_port o _).trans (State.takeSnapshot_port _ _)
  · exact (s.handOver_monitor o _).trans (State.takeSnapshot_monitor _ _)
  · exact (s.handOver_engine o _).trans (State.takeSnapshot_engine _ _)
  · exact (s.handOver_groups o _).trans (State.takeSnapshot_groups _ _)
  · exact (s.handOver_conduits o _).trans (State.takeSnapshot_conduits _ _)
  · rw [State.handOver_control]
    exact State.takeSnapshot_settings _ _
  · have only := failing (s.endTaken.takeSnapshot_badArg o bad)
    exact ⟨only.store, only.completes⟩
  · have only := failing (s.endTaken.takeSnapshot_notLive o inside aligned idle)
    exact ⟨only.store, only.completes⟩
  · have only := failing (s.endTaken.takeSnapshot_short o inside aligned live short)
    exact ⟨only.store, only.completes⟩
  · have only := failing (s.endTaken.takeSnapshot_busy o inside aligned live long busy)
    exact ⟨only.store, only.completes⟩
  · have begins := s.endTaken.takeSnapshot_begins o inside aligned live long idle
    rw [State.handOver_store, State.handOver_completions, begins]
    exact ⟨rfl, rfl, rfl⟩

end Sys2Proof.Machine
end

section
/-! PROOF. O28 to O31: the link, the lookup queue, messages received and sent. -/

namespace Sys2Proof.Machine

namespace Port

variable (p : Port)

/-! ### The transmitter (R41) -/

theorem transmit_of_sending (sending : p.sending ≠ none) : p.transmit = p := by
  obtain ⟨m, busy⟩ := Option.ne_none_iff_exists'.mp sending
  unfold transmit
  rw [busy]

theorem transmit_of_answering (sending : p.sending = none) (answering : p.answering ≠ none) :
    p.transmit = { p with sending := some .hello } := by
  unfold transmit
  rw [sending]
  exact if_pos (Option.isSome_iff_ne_none.mpr answering)

/-- With an answering HELLO pending the transmitter sends it, or what it is sending already. -/
theorem transmit_answering (version : Byte) : transmit { p with answering := some version } =
    { p with answering := some version, sending := some (p.sending.getD .hello) } := by
  by_cases idle : p.sending = none
  · refine (transmit_of_answering { p with answering := some version } idle nofun).trans ?_
    rw [idle]
    rfl
  · obtain ⟨m, sending⟩ := Option.ne_none_iff_exists'.mp idle
    refine (transmit_of_sending { p with answering := some version } idle).trans ?_
    rw [sending, Option.getD_some, ← sending]

/-- A READY link with no answering HELLO: the flow-control message, or what waits (R41 steps 2 and 3). -/
theorem transmit_of_ready (sending : p.sending = none) (answering : p.answering = none) (ready : p.link = .ready) :
    p.transmit = match p.flow with
      | .pause => { p with sending := some .pause, flow := .none }
      | .proceed => { p with sending := some .proceed, flow := .none }
      | .none => p.takeAnswerOrProbe := by
  unfold transmit
  rw [sending, answering, ready]
  rfl

/-- With no flow-control message pending the transmitter takes what waits. -/
theorem transmit_of_clear (sending : p.sending = none) (answering : p.answering = none) (ready : p.link = .ready)
    (clear : p.flow = .none) : p.transmit = p.takeAnswerOrProbe := by
  rw [p.transmit_of_ready sending answering ready, clear]

theorem takeAnswerOrProbe_answer {a : Answer} {rest : List Answer} (lane : p.lane = a :: rest)
    (turn : p.probes = [] ∨ p.lastTaken = .probe) :
    p.takeAnswerOrProbe = { p with sending := some (.answer a), lastTaken := .answer } := by
  unfold takeAnswerOrProbe
  rw [lane]
  cases probes : p.probes with
  | nil => rfl
  | cons q more =>
    rw [turn.resolve_left (by simp [probes])]
    rfl

theorem takeAnswerOrProbe_probe {q : ProbeOut} {rest : List ProbeOut} (probes : p.probes = q :: rest)
    (turn : p.lane = [] ∨ p.lastTaken = .answer) :
    p.takeAnswerOrProbe = { p with sending := some (.probe q), lastTaken := .probe } := by
  unfold takeAnswerOrProbe
  rw [probes]
  cases lane : p.lane with
  | nil => rfl
  | cons a more =>
    rw [turn.resolve_left (by simp [lane])]
    rfl

theorem takeAnswerOrProbe_nothing (lane : p.lane = []) (probes : p.probes = []) : p.takeAnswerOrProbe = p := by
  unfold takeAnswerOrProbe
  rw [lane, probes]
  rfl

end Port

/-! ### Lock and HELLO (R30 to R33) -/

/-- Settles O28: the link by its lock and state. -/
theorem lockAndHelloChangeTheLink : Obligations.LockAndHelloChangeTheLink := by
  unfold Obligations.LockAndHelloChangeTheLink
  refine ⟨fun s => ⟨fun out => ?_, fun locked => ?_, fun locked => ?_, fun out => ?_⟩,
    fun version s => ⟨fun out => ?_, fun locked down => ?_, fun locked ready => ?_⟩⟩
  · change execLossOfLock s = _
    unfold execLossOfLock
    rw [out]
  · change execLossOfLock s = _
    unfold execLossOfLock State.discardAccess
    simp only [locked, isPort_iff]
    rfl
  · change execLockRegained s = _
    unfold execLockRegained
    rw [locked]
  · change execLockRegained s = _
    unfold execLockRegained
    rw [out]
  · change Host.Outcome.next (s.arriveHello version) = _
    unfold State.arriveHello
    rw [out]
  · change Host.Outcome.next (s.arriveHello version) = _
    unfold State.arriveHello
    rw [locked, down]
    exact congrArg (fun port => Host.Outcome.next { s with port }) (s.port.transmit_answering version)
  · have sent := s.port.empty.transmit_answering version
    change Host.Outcome.next (s.arriveHello version) = _
    unfold State.arriveHello
    rw [locked, ready]
    simp only [State.transmit, State.discardAccess, isPort_iff, sent]
    rfl

/-! ### The lookup queue (R35 to R37) -/

theorem Port.join_eq (p : Port) (l : Lookup) : p.join l = { p with
    queue := p.queue ++ [l]
    paused := if p.queue.length = 47 then true else p.paused
    flow := if p.queue.length = 47 ∧ p.paused = false then .pause else p.flow } := by
  unfold Port.join
  have depth : p.queue.length + 1 = Config.pauseDepth ↔ p.queue.length = 47 := by
    unfold Config.pauseDepth
    omega
  simp only [depth]
  by_cases full : p.queue.length = 47
  · cases p.paused <;> simp [full]
  · simp [full]

theorem Port.refuse_eq (p : Port) (l : Lookup) : p.refuse l =
    if p.lane.length + (if p.resolution.isSome then 1 else 0) < 8 then
      { p with lane := p.lane ++ [{ tag := l.tag, outcome := .refused, uplink := 0, escaped := false }] }
    else p := by
  unfold Port.refuse Port.refusedRoom Config.laneCapacity
  refine if_congr ?_ rfl rfl
  split <;> omega

namespace State

variable {s : State} (l : Lookup)

theorem arriveLookup_down (down : s.port.link = .down) : s.arriveLookup l = s := by
  unfold arriveLookup
  rw [down]

theorem arriveLookup_joins (ready : s.port.link = .ready) (short : s.port.queue.length < 64) :
    s.arriveLookup l = { s with port := (s.port.join l).transmit } := by
  unfold arriveLookup
  rw [ready]
  exact if_pos short

theorem arriveLookup_full (ready : s.port.link = .ready) (full : 64 ≤ s.port.queue.length) :
    s.arriveLookup l = { s with port := (s.port.refuse l).transmit } := by
  unfold arriveLookup
  rw [ready]
  exact if_neg (Nat.not_lt.mpr full)

end State

/-- Settles O29: a LOOKUP by the state of the link and the depth of the queue. -/
theorem lookupJoinsTheQueue : Obligations.LookupJoinsTheQueue := by
  unfold Obligations.LookupJoinsTheQueue
  intro tag group hash s
  have arrives : exec (.lookup tag group hash) s = .next (s.arriveLookup { tag, group, hash }) := rfl
  rw [arrives]
  refine ⟨fun down => ?_, fun ready short => ?_, fun ready full room => ?_, fun ready full crowded => ?_⟩
  · rw [State.arriveLookup_down _ down]
  · rw [State.arriveLookup_joins _ ready short, Port.join_eq]
  · rw [State.arriveLookup_full _ ready full, Port.refuse_eq, if_pos room]
  · rw [State.arriveLookup_full _ ready full, Port.refuse_eq, if_neg crowded]

/-! ### Raw messages (R34) -/

theorem parse_of_badCheck {bytes : List Byte} (bad : linkCheck bytes = false) : Arrival.parse bytes = none := by
  unfold Arrival.parse
  exact if_pos (by simp [bad])

/-- A message that the pipeline does not send is no message. -/
theorem parse_of_unknownKind {bytes : List Byte} (unknown : ∀ k, bytes.head? = some k → k ≠ 1 ∧ k ≠ 2 ∧ k ≠ 5) :
    Arrival.parse bytes = none := by
  unfold Arrival.parse
  split
  · rfl
  · cases bytes with
    | nil => rfl
    | cons k rest =>
      obtain ⟨hello, lookup, probe⟩ := unknown k rfl
      have code : byteAt (k :: rest) 0 = k.toNat := rfl
      have apart {v : Byte} (other : k ≠ v) : ¬ k.toNat = v.toNat := fun same => other (BitVec.eq_of_toNat_eq same)
      rw [code]
      split
      · next kind _ => exact absurd kind (apart hello)
      · next kind _ => exact absurd kind (apart lookup)
      · next kind _ => exact absurd kind (apart probe)
      · rfl

/-- Settles O30: a raw message by the lock and by what its bytes spell. -/
theorem badMessagesAreDiscarded : Obligations.BadMessagesAreDiscarded := by
  unfold Obligations.BadMessagesAreDiscarded
  intro bytes s
  have unparsed (none : Arrival.parse bytes = none) : exec (.messageDiscard bytes) s = .next s := by
    change execMessageDiscard bytes s = _
    unfold execMessageDiscard
    rw [none]
    cases s.port.lock <;> rfl
  have parsed {a : Arrival} (locked : s.port.lock = .inLock) (message : Arrival.parse bytes = some a) :
      exec (.messageDiscard bytes) s = match a with
        | .hello version => exec (.hello version) s
        | .lookup l => exec (.lookup l.tag l.group l.hash) s
        | .probeIn uplink content => exec (.probeIn uplink content) s := by
    change execMessageDiscard bytes s = _
    unfold execMessageDiscard
    rw [locked]
    cases a <;> simp only [message] <;> rfl
  refine ⟨fun discarded => ?_, fun _ none => unparsed none, fun _ locked message => parsed locked message,
    fun _ locked message => parsed locked message, fun _ _ locked message => parsed locked message⟩
  rcases discarded with out | bad | unknown
  · change execMessageDiscard bytes s = _
    unfold execMessageDiscard
    rw [out]
  · exact unparsed (parse_of_badCheck bad)
  · exact unparsed (parse_of_unknownKind unknown)

/-! ### Messages sent (R31, R41) -/

theorem exec_messageSent {s : State} {m : Sending} (sending : s.port.sending = some m) :
    exec .messageSent s = .next { s with port := s.port.sent.transmit } := by
  change execMessageSent s = _
  unfold execMessageSent
  rw [sending]
  rfl

/-- Settles O31: what a sent message leaves, and what the transmitter takes next. -/
theorem sentMessageGivesWayToTheNext : Obligations.SentMessageGivesWayToTheNext := by
  unfold Obligations.SentMessageGivesWayToTheNext
  constructor
  · intro s
    refine ⟨fun idle => ?_, fun hello version => ?_, fun hello other => ?_, fun flow => ?_, fun a answer => ?_,
      fun q rest probe probes => ?_, fun q probe replaced => ?_⟩
    · change execMessageSent s = _
      unfold execMessageSent
      rw [idle]
    · rw [exec_messageSent hello]
      unfold Port.sent
      simp only [hello, version]
      rfl
    · rw [exec_messageSent hello]
      unfold Port.sent
      simp only [hello, show ¬ s.port.answering = some Config.linkVersion from other, if_false]
    · rcases flow with pause | proceed
      · rw [exec_messageSent pause]
        unfold Port.sent
        simp only [pause]
      · rw [exec_messageSent proceed]
        unfold Port.sent
        simp only [proceed]
    · rw [exec_messageSent answer]
      unfold Port.sent
      simp only [answer]
    · rw [exec_messageSent probe]
      unfold Port.sent
      simp only [probe, probes, List.head?_cons, List.tail_cons, if_true]
    · rw [exec_messageSent probe]
      unfold Port.sent
      simp only [probe, replaced, if_false]
  · intro p
    refine ⟨p.transmit_of_sending, p.transmit_of_answering, fun quiet down => Port.transmit_of_down down quiet,
      fun idle quiet ready => ⟨fun pause => ?_, fun proceed => ?_, fun a rest clear lane turn => ?_,
        fun q rest clear probes turn => ?_, fun clear lane probes => ?_⟩⟩
    · rw [p.transmit_of_ready idle quiet ready, pause]
    · rw [p.transmit_of_ready idle quiet ready, proceed]
    · rw [p.transmit_of_clear idle quiet ready clear, p.takeAnswerOrProbe_answer lane turn]
    · rw [p.transmit_of_clear idle quiet ready clear, p.takeAnswerOrProbe_probe probes turn]
    · rw [p.transmit_of_clear idle quiet ready clear, p.takeAnswerOrProbe_nothing lane probes]

end Sys2Proof.Machine
end

section
/-! PROOF. O32 to O34: a lookup taken, and its one or two bucket reads. -/

namespace Sys2Proof.Machine

/-- A lookup that is answered leaves the head of the queue, and its answer joins the lane (R36, R37). -/
theorem Port.leave_answered (p : Port) (a : Answer) :
    { p.leave with resolution := none, lane := p.leave.lane ++ [a] } = p.answered a := by
  have depth : p.queue.tail.length = Config.proceedDepth ↔ p.queue.length = 25 := by
    rw [List.length_tail]
    unfold Config.proceedDepth
    omega
  unfold Port.leave Port.answered
  simp only [depth]
  by_cases low : p.queue.length = 25
  · cases paused : p.paused with
    | true =>
      cases flow : p.flow <;> simp [low]
    | false => simp [low]
  · simp [low]

namespace State

variable (s : State)

theorem answer_eq (a : Answer) : s.answer a = { s with port := (s.port.answered a).transmit } := by
  rw [← Port.leave_answered]
  rfl

/-! ### The taking of a lookup (R94 to R99) -/

theorem execLookupTaken_idle (idle : s.port.queue = [] ∨ s.port.resolution ≠ none ∨ 8 ≤ s.port.lane.length) :
    exec .lookupTaken s = .next s := by
  have cannot : s.port.canTake = false := by
    rw [Bool.eq_false_iff, ne_eq, canTake_iff]
    rintro ⟨waits, free, room⟩
    rcases idle with empty | busy | full
    · exact waits empty
    · exact busy free
    · omega
  change execLookupTaken s = _
  unfold execLookupTaken
  rw [cannot]

variable {s} {l : Lookup} {rest : List Lookup}

/-- The head lookup is answered at the taking, or its bucket read is requested with the taking view held. -/
theorem execLookupTaken_takes (queue : s.port.queue = l :: rest) (free : s.port.resolution = none)
    (room : s.port.lane.length < 8) : exec .lookupTaken s = .next (match (s.takingView l).atOnce l with
      | some a => { s with port := (s.port.answered a).transmit }
      | none => { s with port := { s.port with
          resolution := some { lookup := l, view := s.takingView l, phase := .wantRead } } }) := by
  have can : s.port.canTake = true := (canTake_iff _).mpr ⟨by simp [queue], free, room⟩
  change execLookupTaken s = _
  unfold execLookupTaken
  rw [can, queue]
  dsimp only
  cases (s.takingView l).atOnce l with
  | none => rfl
  | some a => exact congrArg Host.Outcome.next (s.answer_eq a)

variable (named : s.control.runState ≠ .off ∧ l.group.toNat < s.area.groupCount)

theorem atOnce_off (off : s.control.runState = .off) :
    (s.takingView l).atOnce l = some { tag := l.tag, outcome := .notReady, uplink := 0, escaped := false } := if_pos off

theorem atOnce_outside (on : s.control.runState ≠ .off) (outside : s.area.groupCount ≤ l.group.toNat) :
    (s.takingView l).atOnce l = some { tag := l.tag, outcome := .badGroup, uplink := 0, escaped := false } :=
  (if_neg on).trans (if_pos outside)

include named

/-- Past the first two checks the record of the group decides (R95). -/
theorem atOnce_named : (s.takingView l).atOnce l = match (s.group l.group.toNat).state with
    | .unplanned => some (Answer.without l.tag (if s.area.planMark then .badGroup else .notReady))
    | .building => some (Answer.without l.tag .notReady)
    | .live => ((s.takingView l).group.pinned (s.takingView l).isUp).map fun u => Answer.to l.tag u false :=
  (if_neg named.1).trans (if_neg (Nat.not_le.mpr named.2))

theorem atOnce_unplanned (idle : (s.group l.group.toNat).live = none) (unreserved : (s.group l.group.toNat).rebuild = none) :
    (s.takingView l).atOnce l = some
      { tag := l.tag, outcome := if s.area.planMark then .badGroup else .notReady, uplink := 0, escaped := false } := by
  have state : (s.group l.group.toNat).state = .unplanned := by simp [GroupRecord.state, idle, unreserved]
  rw [atOnce_named named, state]
  rfl

theorem atOnce_building (idle : (s.group l.group.toNat).live = none) (reserved : (s.group l.group.toNat).rebuild ≠ none) :
    (s.takingView l).atOnce l = some { tag := l.tag, outcome := .notReady, uplink := 0, escaped := false } := by
  have state : (s.group l.group.toNat).state = .building := by
    simp [GroupRecord.state, idle, Option.isSome_iff_ne_none.mpr reserved]
  rw [atOnce_named named, state]
  rfl

/-- The pin of a LIVE group decides whether its lookup is answered at once (R99). -/
theorem atOnce_live {run : LiveRun} (live : (s.group l.group.toNat).live = some run) : (s.takingView l).atOnce l =
    ((s.takingView l).group.pinned (s.takingView l).isUp).map fun u => Answer.to l.tag u false := by
  have state : (s.group l.group.toNat).state = .live := by simp [GroupRecord.state, live]
  rw [atOnce_named named, state]

omit named

theorem takingView_states (u : Fin 32) : (s.takingView l).states.get u = (s.uplink u).state := by
  simp [takingView, uplink, Vector.get_eq_getElem]

/-- The uplinks UP in a taking view are those that were UP at the taking. -/
theorem takingView_isUp (u : Fin 32) : (s.takingView l).isUp u = s.isUp u := by
  unfold TakingView.isUp isUp
  rw [takingView_states]

/-- Which uplink the pin of a LIVE group answers with. -/
theorem pinned_of_live {run : LiveRun} (live : (s.group l.group.toNat).live = some run) :
    (s.takingView l).group.pinned (s.takingView l).isUp
      = (s.group l.group.toNat).pin.bind fun slot => (run.fields.uplinkOf slot).filter s.isUp := by
  have up : (s.takingView l).isUp = s.isUp := funext takingView_isUp
  unfold GroupView.pinned
  rw [up]
  change (match (s.group l.group.toNat).live, (s.group l.group.toNat).pin with | some _, some _ => _ | _, _ => _) = _
  rw [live]
  cases (s.group l.group.toNat).pin <;> rfl

theorem pinned_up {run : LiveRun} {slot : Nat} {m : Member} (live : (s.group l.group.toNat).live = some run)
    (pin : (s.group l.group.toNat).pin = some slot) (member : run.fields.members[slot]? = some m)
    (up : (s.uplink m.uplink).state = .up) :
    (s.takingView l).group.pinned (s.takingView l).isUp = some m.uplink := by
  rw [pinned_of_live live, pin]
  simp [GroupFields.uplinkOf, member, isUp, up]

theorem pinned_none {run : LiveRun} (live : (s.group l.group.toNat).live = some run)
    (down : ∀ slot m, (s.group l.group.toNat).pin = some slot → run.fields.members[slot]? = some m →
      (s.uplink m.uplink).state ≠ .up) : (s.takingView l).group.pinned (s.takingView l).isUp = none := by
  rw [pinned_of_live live]
  cases pin : (s.group l.group.toNat).pin with
  | none => rfl
  | some slot =>
    cases member : run.fields.members[slot]? with
    | none => simp [GroupFields.uplinkOf, member]
    | some m => simp [GroupFields.uplinkOf, member, isUp, down slot m pin member]

/-- A run is stranded where none of its members is UP (R60). -/
theorem isStranded_iff (f : GroupFields) (up : Fin 32 → Bool) :
    f.isStranded up = true ↔ ∀ m ∈ f.members, up m.uplink = false := by
  simp [GroupFields.isStranded]

theorem isStranded_isUp (f : GroupFields) :
    f.isStranded s.isUp = true ↔ ∀ m ∈ f.members, (s.uplink m.uplink).state ≠ .up := by
  simp [isStranded_iff, isUp]

end State

/-- Settles O32: the checks of R95 in their order, and the taking view held where none of them applies. -/
theorem lookupTakenAnswersOrReads : Obligations.LookupTakenAnswersOrReads := by
  unfold Obligations.LookupTakenAnswersOrReads
  intro s l rest
  have answers {a : Answer} (taken : s.port.queue = l :: rest ∧ s.port.resolution = none ∧ s.port.lane.length < 8)
      (now : (s.takingView l).atOnce l = some a) :
      exec .lookupTaken s = .next { s with port := (s.port.answered a).transmit } := by
    obtain ⟨queue, free, room⟩ := taken
    rw [State.execLookupTaken_takes queue free room, now]
  refine ⟨s.execLookupTaken_idle, fun taken off => answers taken (State.atOnce_off off),
    fun taken on outside => answers taken (State.atOnce_outside on outside),
    fun taken named idle unreserved => answers taken (State.atOnce_unplanned named idle unreserved),
    fun taken named idle reserved => answers taken (State.atOnce_building named idle reserved),
    fun run slot m taken named live pin member up => ?_, fun run taken named live down => ?_⟩
  · refine answers taken ?_
    rw [State.atOnce_live named live, State.pinned_up live pin member up]
    rfl
  · obtain ⟨queue, free, room⟩ := taken
    have reads : (s.takingView l).atOnce l = none := by
      rw [State.atOnce_live named live, State.pinned_none live down]
      rfl
    have escape : (s.takingView l).escape = if run.fields.isStranded s.isUp then
        run.fields.escape.map fun e => (s.group e).view else none := by
      change s.escapeView (s.group l.group.toNat) = _
      unfold State.escapeView
      rw [live]
    refine ⟨s.takingView l, ?_, rfl, rfl, rfl, ?_, fun u => ?_, fun u => ?_, fun none => ?_, fun e stranded names => ?_⟩
    · rw [State.execLookupTaken_takes queue free room, reads]
    · change (s.group l.group.toNat).view = _
      simp [GroupRecord.view, GroupRecord.state, live]
    · exact State.takingView_states u
    · simp [State.takingView, Vector.get_ofFn]
    · rw [escape]
      rcases none with served | unescaped
      · rw [if_neg fun stranded => served ((State.isStranded_isUp _).mp stranded)]
      · rw [unescaped]
        simp
    · rw [escape, if_pos ((State.isStranded_isUp _).mpr stranded), names]
      rfl

/-! ### The bucket reads of a lookup (R100 to R104) -/

theorem ownerMatches_iff (g b : Nat) (a : BucketAccess) : ownerMatches g b a = true ↔ a.owner = .run g (b / 64) := by
  unfold ownerMatches
  rw [decide_eq_true_eq]
  rfl

/-- A read bucket settles as it is where its block still belongs to the run and it is clean, and as a faulted one
otherwise (R100, R102). -/
theorem TakingView.settleRead_eq (v : TakingView) (run : LiveRun) (g b : Nat) (a : BucketAccess) :
    v.settleRead run g b a = if a.owner = .run g (b / 64) ∧ a.bucket.faulted = false then
        run.fields.settle v.isUp v.isShadowed b a.bucket.home a.bucket.current
      else run.fields.settle v.isUp v.isShadowed b (run.fields.homeOf b) (run.fields.homeOf b) := by
  unfold TakingView.settleRead GroupFields.settleFaulted
  refine if_congr ?_ rfl rfl
  rw [Bool.and_eq_true, ownerMatches_iff, Bool.not_eq_true']

theorem settledAnswer_eq (tag : BitVec 6) (run : LiveRun) (member : Option Nat) (escaped : Bool) :
    settledAnswer tag run member escaped = match member.bind run.fields.uplinkOf with
      | some u => { tag, outcome := .uplink, uplink := u, escaped }
      | none => { tag, outcome := .noRoute, uplink := 0, escaped := false } := rfl

namespace State

variable (s : State)

/-- A fix offered changes the fix queue and the intake queue at most. -/
theorem offerFix_eq (item : FixItem) : s.offerFix item = { s with
    store := { s.store with fixQueue := (s.offerFix item).store.fixQueue }, engine := (s.offerFix item).engine } := by
  unfold offerFix
  split
  · rfl
  · split <;> rfl

/-- The fault that a lookup found in a block of the run, when it is offered for fix. -/
def lookupFix (run : LiveRun) (g b : Nat) : FixItem :=
  { group := g, bucket := b, block := run.blocks.getD (b / 64) 0, offset := b % 64, foundBy := .lookup }

theorem offerLookupFix_offers {run : LiveRun} {g b : Nat} {a : BucketAccess} (owns : a.owner = .run g (b / 64))
    (faulted : a.bucket.faulted = true) : s.offerLookupFix run g b a = s.offerFix (lookupFix run g b) := by
  unfold offerLookupFix
  exact if_pos (by simp [(ownerMatches_iff g b a).mpr owns, faulted])

theorem offerLookupFix_skips {run : LiveRun} {g b : Nat} {a : BucketAccess}
    (skip : ¬ a.owner = .run g (b / 64) ∨ a.bucket.faulted = false) : s.offerLookupFix run g b a = s := by
  unfold offerLookupFix
  refine if_neg ?_
  rw [Bool.and_eq_true, ownerMatches_iff]
  rintro ⟨owns, faulted⟩
  rcases skip with foreign | clean
  · exact foreign owns
  · simp [clean] at faulted

/-- The end of a lookup's bucket read: the access ends, and a fault found in a block of the run is offered for fix. -/
def lookupReadEnded (run : LiveRun) (g b : Nat) (a : BucketAccess) : State := s.endAccess.offerLookupFix run g b a

/-- What the end of a lookup's bucket read changes besides the port. -/
structure ReadEnds (s t : State) (run : LiveRun) (g b : Nat) (a : BucketAccess) : Prop where
  monitor : t.monitor = s.monitor
  groups : t.groups = s.groups
  area : t.area = s.area
  control : t.control = s.control
  conduits : t.conduits = s.conduits
  offers : a.owner = .run g (b / 64) → a.bucket.faulted = true → t.engine = (s.offerFix (lookupFix run g b)).engine
    ∧ t.store = { s.store with access := none, fixQueue := (s.offerFix (lookupFix run g b)).store.fixQueue }
  skips : ¬ a.owner = .run g (b / 64) ∨ a.bucket.faulted = false →
    t.engine = s.engine ∧ t.store = { s.store with access := none }

theorem offerFix_endAccess (item : FixItem) : (s.endAccess.offerFix item).engine = (s.offerFix item).engine
    ∧ (s.endAccess.offerFix item).store.fixQueue = (s.offerFix item).store.fixQueue := by
  have waits : (s.endAccess.store.fixQueue.any fun i => i.group == item.group && i.bucket == item.bucket)
      = s.store.fixQueue.any fun i => i.group == item.group && i.bucket == item.bucket := rfl
  unfold offerFix
  rw [waits]
  split
  · exact ⟨rfl, rfl⟩
  · change (if s.store.fixQueue.length < Config.fixCapacity then _ else _ : State).engine = _ ∧
      (if s.store.fixQueue.length < Config.fixCapacity then _ else _ : State).store.fixQueue = _
    split <;> exact ⟨rfl, rfl⟩

/-- Nothing but the port is left to change once the read has ended. -/
theorem ReadEnds.of_port (run : LiveRun) (g b : Nat) (a : BucketAccess) (port : Port) :
    s.ReadEnds { s.lookupReadEnded run g b a with port } run g b a := by
  by_cases offers : a.owner = .run g (b / 64) ∧ a.bucket.faulted = true
  · obtain ⟨owns, faulted⟩ := offers
    obtain ⟨engine, fixQueue⟩ := s.offerFix_endAccess (lookupFix run g b)
    unfold lookupReadEnded
    rw [offerLookupFix_offers _ owns faulted, offerFix_eq]
    refine ⟨rfl, rfl, rfl, rfl, rfl, fun _ _ => ⟨engine, ?_⟩, fun skip => ?_⟩
    · dsimp only
      rw [fixQueue]
      rfl
    · rcases skip with foreign | clean
      · exact absurd owns foreign
      · simp [clean] at faulted
  · have skip : ¬ a.owner = .run g (b / 64) ∨ a.bucket.faulted = false := by
      rw [not_and_or] at offers
      simpa using offers
    unfold lookupReadEnded
    rw [offerLookupFix_skips _ skip]
    exact ⟨rfl, rfl, rfl, rfl, rfl, fun owns faulted => absurd ⟨owns, faulted⟩ offers, fun _ => ⟨rfl, rfl⟩⟩

theorem lookupReadEnded_port (run : LiveRun) (g b : Nat) (a : BucketAccess) :
    (s.lookupReadEnded run g b a).port = s.port := by
  unfold lookupReadEnded offerLookupFix
  split
  · rw [offerFix_eq]
    rfl
  · rfl

/-- The port once a stranded group's first read has ended (R103, R104). -/
def escapePort (p : Port) (r : Resolution) : Port :=
  let noRoute := (p.answered (Answer.without r.lookup.tag .noRoute)).transmit
  match r.view.escape with
  | none => noRoute
  | some e =>
    match e.live with
    | none => noRoute
    | some run =>
      if run.fields.isStranded r.view.isUp then noRoute
      else match e.pinned r.view.isUp with
        | some u => (p.answered (Answer.to r.lookup.tag u true)).transmit
        | none => { p with resolution := some { r with phase := .wantEscape } }

theorem resolveEscape_eq (r : Resolution) : s.resolveEscape r = { s with port := escapePort s.port r } := by
  unfold resolveEscape escapePort
  simp only [answer_eq]
  cases r.view.escape with
  | none => rfl
  | some e =>
    dsimp only
    cases e.live with
    | none => rfl
    | some run =>
      dsimp only
      split
      · rfl
      · cases e.pinned r.view.isUp <;> rfl

theorem escapePort_noRoute {p : Port} {r : Resolution}
    (none : ∀ e other, r.view.escape = some e → e.live = some other → other.fields.isStranded r.view.isUp = true) :
    escapePort p r = (p.answered (Answer.without r.lookup.tag .noRoute)).transmit := by
  unfold escapePort
  split
  · rfl
  · next e escape =>
    split
    · rfl
    · next run live => exact if_pos (none e run escape live)

theorem escapePort_served {p : Port} {r : Resolution} {e : GroupView} {run : LiveRun} (escape : r.view.escape = some e)
    (live : e.live = some run) (served : run.fields.isStranded r.view.isUp = false) :
    escapePort p r = match e.pinned r.view.isUp with
      | some u => (p.answered (Answer.to r.lookup.tag u true)).transmit
      | none => { p with resolution := some { r with phase := .wantEscape } } := by
  unfold escapePort
  rw [escape]
  dsimp only
  rw [live]
  exact if_neg (by simp [served])

/-- What the pin of a LIVE group of a view answers with. -/
theorem pinned_eq {e : GroupView} {run : LiveRun} (live : e.live = some run) (up : Fin 32 → Bool) :
    e.pinned up = e.pin.bind fun slot => (run.fields.uplinkOf slot).filter up := by
  unfold GroupView.pinned
  rw [live]
  cases e.pin <;> rfl

/-- The port once a lookup's first read has ended. -/
def readPort (p : Port) (r : Resolution) (run : LiveRun) (a : BucketAccess) : Port :=
  if run.fields.isStranded r.view.isUp then escapePort p r
  else (p.answered (settledAnswer r.lookup.tag run
    (r.view.settleRead run r.lookup.group.toNat (selectBucket run r.lookup.hash) a) false)).transmit

variable {s} {a : BucketAccess} {r : Resolution} {run : LiveRun}

theorem execLookupBucketReadDone_eq (access : s.accessOf .lookup = some a) (wanted : a.wanted = true)
    (resolution : s.port.resolution = some r) (live : r.view.group.live = some run) :
    exec .lookupBucketReadDone s = .next
      { s.lookupReadEnded run r.lookup.group.toNat (selectBucket run r.lookup.hash) a with
        port := readPort s.port r run a } := by
  have port := s.lookupReadEnded_port run r.lookup.group.toNat (selectBucket run r.lookup.hash) a
  change execLookupBucketReadDone s = _
  unfold execLookupBucketReadDone
  rw [access]
  dsimp only
  rw [wanted, resolution]
  refine congrArg Host.Outcome.next ?_
  unfold finishRead
  rw [live]
  dsimp only
  change (if _ then resolveEscape (s.lookupReadEnded _ _ _ _) _ else answer (s.lookupReadEnded _ _ _ _) _) = _
  unfold readPort
  split
  · rw [resolveEscape_eq, port]
  · rw [answer_eq, port]

theorem execEscapeReadDone_eq {named : LiveRun} {e : GroupView} {g : Nat} (access : s.accessOf .escape = some a)
    (wanted : a.wanted = true) (resolution : s.port.resolution = some r) (live : r.view.group.live = some named)
    (names : named.fields.escape = some g) (escape : r.view.escape = some e) (other : e.live = some run) :
    exec .escapeReadDone s = .next { s.lookupReadEnded run g (selectBucket run r.lookup.hash) a with
      port := (s.port.answered (settledAnswer r.lookup.tag run
        (r.view.settleRead run g (selectBucket run r.lookup.hash) a) true)).transmit } := by
  have port := s.lookupReadEnded_port run g (selectBucket run r.lookup.hash) a
  have group : r.escapeGroup = g := by simp [Resolution.escapeGroup, live, names]
  have bound : r.view.escape.bind (·.live) = some run := by simp [escape, other]
  change execEscapeReadDone s = _
  unfold execEscapeReadDone
  rw [access]
  dsimp only
  rw [wanted, resolution]
  refine congrArg Host.Outcome.next ?_
  unfold finishEscape
  rw [bound, group]
  dsimp only
  change answer (s.lookupReadEnded _ _ _ _) _ = _
  rw [answer_eq, port]

end State

/-- Settles O33: the first read of a lookup, for a group that is served and for a stranded one. -/
theorem lookupReadIsSettledAndAnswered : Obligations.LookupReadIsSettledAndAnswered := by
  unfold Obligations.LookupReadIsSettledAndAnswered
  intro s a r run access wanted resolution live
  have ends := State.ReadEnds.of_port s run r.lookup.group.toNat (selectBucket run r.lookup.hash) a
    (State.readPort s.port r run a)
  refine ⟨_, State.execLookupBucketReadDone_eq access wanted resolution live, ends.monitor, ends.groups, ends.area,
    ends.control, ends.conduits, ends.offers, ends.skips, fun served => ?_, fun stranded none => ?_,
    fun e other stranded escape elive served => ⟨fun slot u pin names up => ?_, fun down => ?_⟩⟩ <;>
    change State.readPort s.port r run a = _
  · have unstranded : ¬ run.fields.isStranded r.view.isUp = true := by
      rw [Bool.not_eq_true]
      exact served
    unfold State.readPort
    rw [if_neg unstranded, TakingView.settleRead_eq, settledAnswer_eq]
    rfl
  · exact (if_pos stranded).trans (State.escapePort_noRoute none)
  · refine (if_pos stranded).trans ((State.escapePort_served escape elive served).trans ?_)
    have pinned : e.pinned r.view.isUp = some u := by
      rw [State.pinned_eq elive, pin]
      simpa [names, TakingView.isUp] using up
    rw [pinned]
    rfl
  · refine (if_pos stranded).trans ((State.escapePort_served escape elive served).trans ?_)
    have pinned : e.pinned r.view.isUp = none := by
      rw [State.pinned_eq elive]
      cases pin : e.pin with
      | none => rfl
      | some slot =>
        cases names : other.fields.uplinkOf slot with
        | none => simp [names]
        | some u => simpa [names, TakingView.isUp] using down slot u pin names
    rw [pinned]

/-- Settles O34: the second read of a lookup, of its escape group. -/
theorem escapeReadIsSettledAndAnswered : Obligations.EscapeReadIsSettledAndAnswered := by
  unfold Obligations.EscapeReadIsSettledAndAnswered
  intro s a r named run e g access wanted resolution live names escape other
  have ends := State.ReadEnds.of_port s run g (selectBucket run r.lookup.hash) a (s.port.answered
    (settledAnswer r.lookup.tag run (r.view.settleRead run g (selectBucket run r.lookup.hash) a) true)).transmit
  refine ⟨_, State.execEscapeReadDone_eq access wanted resolution live names escape other, ends.monitor, ends.groups,
    ends.area, ends.control, ends.conduits, ends.offers, ends.skips, ?_⟩
  dsimp only
  rw [TakingView.settleRead_eq, settledAnswer_eq]
  rfl

end Sys2Proof.Machine
end

section
/-! PROOF. O35: settling a bucket, the rosters, what is written. -/

namespace Sys2Proof.Machine

/-- The slots of the members that `p` names, in order, each as often as its weight. -/
def roster (ms : List (Member × Nat)) (p : Member → Bool) : List Nat :=
  ms.flatMap fun m => if p m.1 then List.replicate m.1.weight m.2 else []

theorem expand_filter (ms : List (Member × Nat)) (p : Member → Bool) :
    expand (ms.filter fun m => p m.1) = roster ms p := by
  unfold expand roster
  induction ms with
  | nil => rfl
  | cons m rest ih =>
    rw [List.filter_cons, List.flatMap_cons]
    by_cases named : p m.1 = true
    · rw [if_pos named, if_pos named, List.flatMap_cons, ih]
    · rw [if_neg named, if_neg named, ih]
      rfl

/-- A slot of a roster is that of a member it names. -/
theorem mem_roster {f : GroupFields} {p : Member → Bool} {slot : Nat} (h : slot ∈ roster f.members.zipIdx p) :
    ∃ m, f.members[slot]? = some m ∧ p m = true := by
  unfold roster at h
  obtain ⟨⟨m, k⟩, mem, listed⟩ := List.mem_flatMap.mp h
  by_cases named : p m = true
  · rw [if_pos named] at listed
    obtain rfl := List.eq_of_mem_replicate listed
    exact ⟨m, List.mk_mem_zipIdx_iff_getElem?.mp mem, named⟩
  · rw [if_neg named] at listed
    cases listed

/-- A roster that names a member of positive weight is not empty. -/
theorem roster_ne_nil {f : GroupFields} {p : Member → Bool} {m : Member} (mem : m ∈ f.members) (weight : 1 ≤ m.weight)
    (named : p m = true) : roster f.members.zipIdx p ≠ [] := by
  obtain ⟨slot, at_slot⟩ := List.mem_iff_getElem?.mp mem
  have listed : slot ∈ roster f.members.zipIdx p := by
    refine List.mem_flatMap.mpr ⟨(m, slot), List.mk_mem_zipIdx_iff_getElem?.mpr at_slot, ?_⟩
    rw [if_pos named]
    exact List.mem_replicate.mpr ⟨Nat.one_le_iff_ne_zero.mp weight, rfl⟩
  exact List.ne_nil_of_mem listed

namespace GroupFields

variable (f : GroupFields) (up shadowed : Fin 32 → Bool)

theorem slotUp_iff (slot : Nat) : f.slotUp up slot = true ↔ ∃ m, f.members[slot]? = some m ∧ up m.uplink = true := by
  unfold slotUp
  cases f.members[slot]? <;> simp

theorem slotPrimary_iff (slot : Nat) :
    f.slotPrimary slot = true ↔ ∃ m, f.members[slot]? = some m ∧ m.role = .primary := by
  unfold slotPrimary
  cases f.members[slot]? <;> simp

theorem primaryUp_iff : f.primaryUp up = true ↔ ∃ m ∈ f.members, m.role = .primary ∧ up m.uplink = true := by
  simp [primaryUp]

/-! ### The home roster (R57) -/

theorem any_role (r : Role) : (f.slots.filter fun m => decide (m.1.role = r)).isEmpty = true
    ↔ ¬ ∃ m ∈ f.members, m.role = r := by
  simp only [List.isEmpty_iff, List.filter_eq_nil_iff, decide_eq_true_eq]
  constructor
  · rintro none ⟨m, mem, role⟩
    obtain ⟨slot, at_slot⟩ := List.mem_iff_getElem?.mp mem
    exact none (m, slot) (List.mk_mem_zipIdx_iff_getElem?.mpr at_slot) role
  · rintro none ⟨m, slot⟩ mem role
    exact none ⟨m, List.mem_of_getElem? (List.mk_mem_zipIdx_iff_getElem?.mp mem), role⟩

theorem homeRoster_eq : f.homeRoster = roster f.members.zipIdx fun m =>
    decide (m.role = if ∃ m ∈ f.members, m.role = .primary then .primary else .standby) := by
  unfold homeRoster
  dsimp only
  by_cases primary : ∃ m ∈ f.members, m.role = .primary
  · rw [if_neg fun none => (f.any_role .primary).mp none primary, if_pos primary]
    exact expand_filter _ fun m => decide (m.role = .primary)
  · rw [if_pos ((f.any_role .primary).mpr primary), if_neg primary]
    exact expand_filter _ fun m => decide (m.role = .standby)

/-! ### The live roster (R58) -/

/-- The members of tier `t` that are UP, the tiers counted from 0. -/
def inTier (t : Fin 4) (m : Member) : Bool :=
  up m.uplink && (match t with
    | 0 => decide (m.role = .primary) && !shadowed m.uplink
    | 1 => decide (m.role = .primary) && shadowed m.uplink
    | 2 => decide (m.role = .standby) && !shadowed m.uplink
    | 3 => decide (m.role = .standby) && shadowed m.uplink)

theorem inTier_eq (t : Fin 4) (m : Member) :
    inTier up shadowed t m = (up m.uplink && tierOf shadowed m == t.val + 1) := by
  unfold inTier tierOf
  cases m.role <;> cases shadowed m.uplink <;> fin_cases t <;> simp

theorem tier_eq (t : Fin 4) :
    expand (f.tier up shadowed (t.val + 1)) = roster f.members.zipIdx (inTier up shadowed t) := by
  have named : inTier up shadowed t = fun m => up m.uplink && tierOf shadowed m == t.val + 1 :=
    funext (inTier_eq up shadowed t)
  rw [named]
  exact expand_filter _ fun m => up m.uplink && tierOf shadowed m == t.val + 1

theorem tier_isEmpty_iff (t : Fin 4) : (f.tier up shadowed (t.val + 1)).isEmpty = true
    ↔ ∀ m ∈ f.members, inTier up shadowed t m = false := by
  unfold tier
  simp only [List.isEmpty_iff, List.filter_eq_nil_iff, inTier_eq, Bool.not_eq_true]
  constructor
  · intro none m mem
    obtain ⟨slot, at_slot⟩ := List.mem_iff_getElem?.mp mem
    exact none (m, slot) (List.mk_mem_zipIdx_iff_getElem?.mpr at_slot)
  · rintro none ⟨m, slot⟩ mem
    exact none m (List.mem_of_getElem? (List.mk_mem_zipIdx_iff_getElem?.mp mem))

/-- The live roster is that of the first tier that is not empty. -/
theorem liveRoster_of_first {t : Fin 4} (some : ∃ m ∈ f.members, inTier up shadowed t m = true)
    (first : ∀ t' < t, ∀ m ∈ f.members, inTier up shadowed t' m = false) :
    f.liveRoster up shadowed = roster f.members.zipIdx (inTier up shadowed t) := by
  have here : (f.tier up shadowed (t.val + 1)).isEmpty = false := by
    rw [Bool.eq_false_iff, ne_eq, tier_isEmpty_iff]
    intro none
    obtain ⟨m, mem, named⟩ := some
    simp [none m mem] at named
  have before (t' : Fin 4) (less : t' < t) : (f.tier up shadowed (t'.val + 1)).isEmpty = true :=
    (f.tier_isEmpty_iff up shadowed t').mpr (first t' less)
  have found : [1, 2, 3, 4].find? (fun t => !(f.tier up shadowed t).isEmpty) = Option.some (t.val + 1) := by
    have look (k : Nat) (rest : List Nat) : (k :: rest).find? (fun t => !(f.tier up shadowed t).isEmpty)
        = if (f.tier up shadowed k).isEmpty = true then rest.find? fun t => !(f.tier up shadowed t).isEmpty
          else Option.some k := by
      rw [List.find?_cons]
      cases (f.tier up shadowed k).isEmpty <;> rfl
    have stop : ¬ (f.tier up shadowed (t.val + 1)).isEmpty = true := by simp [here]
    simp only [look]
    match t with
    | 0 => exact if_neg stop
    | 1 => exact (if_pos (before 0 (by decide))).trans (if_neg stop)
    | 2 => exact (if_pos (before 0 (by decide))).trans ((if_pos (before 1 (by decide))).trans (if_neg stop))
    | 3 => exact (if_pos (before 0 (by decide))).trans ((if_pos (before 1 (by decide))).trans
        ((if_pos (before 2 (by decide))).trans (if_neg stop)))
  unfold liveRoster
  rw [found]
  exact f.tier_eq up shadowed t

/-- A member that is UP stands in one of the four tiers. -/
theorem exists_tier {m : Member} (isUp : up m.uplink = true) : ∃ t, inTier up shadowed t m = true := by
  cases role : m.role with
  | primary =>
    cases seen : shadowed m.uplink with
    | false => exact ⟨0, by simp [inTier, isUp, role, seen]⟩
    | true => exact ⟨1, by simp [inTier, isUp, role, seen]⟩
  | standby =>
    cases seen : shadowed m.uplink with
    | false => exact ⟨2, by simp [inTier, isUp, role, seen]⟩
    | true => exact ⟨3, by simp [inTier, isUp, role, seen]⟩

/-- With a member UP the live roster is that of a tier with a member. -/
theorem liveRoster_of_up (some : ∃ m ∈ f.members, up m.uplink = true) :
    ∃ t, f.liveRoster up shadowed = roster f.members.zipIdx (inTier up shadowed t)
      ∧ ∃ m ∈ f.members, inTier up shadowed t m = true := by
  classical
  obtain ⟨m, mem, isUp⟩ := some
  obtain ⟨t, named⟩ := exists_tier up shadowed isUp
  have exists_first : ∃ t : Fin 4, (∃ m ∈ f.members, inTier up shadowed t m = true)
      ∧ ∀ t' < t, ¬ ∃ m ∈ f.members, inTier up shadowed t' m = true := by
    have wf := (wellFounded_lt (α := Fin 4)).has_min {t | ∃ m ∈ f.members, inTier up shadowed t m = true} ⟨t, m, mem, named⟩
    obtain ⟨first, here, least⟩ := wf
    exact ⟨first, here, fun t' less there => least t' there less⟩
  obtain ⟨first, here, before⟩ := exists_first
  refine ⟨first, f.liveRoster_of_first up shadowed here fun t' less m mem => ?_, here⟩
  rw [Bool.eq_false_iff]
  exact fun there => before t' less ⟨m, mem, there⟩

theorem liveRoster_of_stranded (down : ∀ m ∈ f.members, up m.uplink = false) : f.liveRoster up shadowed = [] := by
  have empty (t : Fin 4) : (f.tier up shadowed (t.val + 1)).isEmpty = true :=
    (f.tier_isEmpty_iff up shadowed t).mpr fun m mem => by simp [inTier, down m mem]
  have e0 := empty 0
  have e1 := empty 1
  have e2 := empty 2
  have e3 := empty 3
  unfold liveRoster
  rw [List.find?_eq_none.mpr]
  intro t mem
  simp only [List.mem_cons, List.not_mem_nil, or_false] at mem
  rw [Bool.not_eq_true, Bool.not_eq_false']
  rcases mem with rfl | rfl | rfl | rfl
  exacts [e0, e1, e2, e3]

/-! ### Settling (R60, R61) -/

variable (b h c : Nat)

theorem settle_home (revertive : f.revertive = true) (home : f.slotUp up h = true) :
    f.settle up shadowed b h c = some h := if_pos (by simp [revertive, home])

theorem settle_current (away : ¬ (f.revertive = true ∧ f.slotUp up h = true)) (current : f.slotUp up c = true)
    (kept : f.slotPrimary c = true ∨ ¬ f.primaryUp up = true) : f.settle up shadowed b h c = some c :=
  (if_neg (by simpa using away)).trans (if_pos (by simpa [current] using kept))

theorem settle_roster (away : ¬ (f.revertive = true ∧ f.slotUp up h = true))
    (left : ¬ (f.slotUp up c = true ∧ (f.slotPrimary c = true ∨ ¬ f.primaryUp up = true)))
    (served : ¬ f.isStranded up = true) : f.settle up shadowed b h c =
      some ((f.liveRoster up shadowed).getD (b % (f.liveRoster up shadowed).length) 0) :=
  (if_neg (by simpa using away)).trans ((if_neg (by simpa using left)).trans (if_neg served))

theorem slotUp_of_stranded (down : ∀ m ∈ f.members, up m.uplink = false) (slot : Nat) : ¬ f.slotUp up slot = true := by
  rw [slotUp_iff]
  rintro ⟨m, at_slot, isUp⟩
  simp [down m (List.mem_of_getElem? at_slot)] at isUp

theorem settle_stranded (down : ∀ m ∈ f.members, up m.uplink = false) : f.settle up shadowed b h c = none := by
  have noHome := f.slotUp_of_stranded up down h
  have noCurrent := f.slotUp_of_stranded up down c
  have stranded := (State.isStranded_iff f up).mpr down
  simp [settle, noHome, noCurrent, stranded]

/-- With a member UP settling names a member, and one that is UP. -/
theorem settle_up (weights : ∀ m ∈ f.members, 1 ≤ m.weight) (served : ∃ m ∈ f.members, up m.uplink = true) :
    ∃ slot, f.settle up shadowed b h c = some slot ∧ f.slotUp up slot = true := by
  by_cases home : f.revertive = true ∧ f.slotUp up h = true
  · exact ⟨h, f.settle_home up shadowed b h c home.1 home.2, home.2⟩
  · by_cases current : f.slotUp up c = true ∧ (f.slotPrimary c = true ∨ ¬ f.primaryUp up = true)
    · exact ⟨c, f.settle_current up shadowed b h c home current.1 current.2, current.1⟩
    · have unstranded : ¬ f.isStranded up = true := by
        rw [State.isStranded_iff]
        intro down
        obtain ⟨m, mem, isUp⟩ := served
        simp [down m mem] at isUp
      refine ⟨_, f.settle_roster up shadowed b h c home current unstranded, ?_⟩
      obtain ⟨t, live, m, mem, named⟩ := f.liveRoster_of_up up shadowed served
      have filled := roster_ne_nil mem (weights m mem) named
      rw [live]
      have inside : b % (roster f.members.zipIdx (inTier up shadowed t)).length
          < (roster f.members.zipIdx (inTier up shadowed t)).length := Nat.mod_lt _ (List.length_pos_iff.mpr filled)
      have listed : (roster f.members.zipIdx (inTier up shadowed t)).getD
          (b % (roster f.members.zipIdx (inTier up shadowed t)).length) 0 ∈ roster f.members.zipIdx (inTier up shadowed t) := by
        rw [List.getD_eq_getElem _ _ inside]
        exact List.getElem_mem _
      obtain ⟨n, at_slot, tier⟩ := mem_roster listed
      refine (f.slotUp_iff up _).mpr ⟨n, at_slot, ?_⟩
      unfold inTier at tier
      exact (Bool.and_eq_true_iff.mp tier).1

end GroupFields

/-- Settles O35: settling by its cases, the two rosters, what a step writes, and that the settled member is UP. -/
theorem settledMemberIsUp : Obligations.SettledMemberIsUp := by
  unfold Obligations.SettledMemberIsUp
  refine ⟨fun f up shadowed b h c => ?_, fun f up shadowed => ?_, fun f b => ?_, fun f up shadowed b bucket => ?_,
    fun f up shadowed b h c weights => ?_⟩
  · simp only [← f.slotUp_iff up, ← f.slotPrimary_iff, ← f.primaryUp_iff up]
    refine ⟨fun home => f.settle_home up shadowed b h c home.1 home.2,
      fun away current => f.settle_current up shadowed b h c away current.1 current.2, fun away left served => ?_,
      f.settle_stranded up shadowed b h c⟩
    refine f.settle_roster up shadowed b h c away left fun stranded => ?_
    obtain ⟨m, mem, isUp⟩ := served
    simp [(State.isStranded_iff f up).mp stranded m mem] at isUp
  · exact ⟨f.liveRoster_of_stranded up shadowed, fun t some first => f.liveRoster_of_first up shadowed some first⟩
  · have home : f.homeOf b = f.homeRoster.getD (b % f.homeRoster.length) 0 := rfl
    rw [home, f.homeRoster_eq]
    simp only [roster, decide_eq_true_eq]
  · refine ⟨fun faulted => ?_, fun m clean settled moved => ?_, fun clean still => ?_, rfl⟩
    · exact if_pos faulted
    · unfold GroupFields.rewrite
      rw [if_neg (by simp [clean]), settled]
      exact if_neg moved
    · unfold GroupFields.rewrite
      rw [if_neg (by simp [clean])]
      rcases still with none | same
      · rw [none]
      · rw [same]
        exact if_pos rfl
  · by_cases served : ∃ m ∈ f.members, up m.uplink = true
    · obtain ⟨slot, settled, isUp⟩ := f.settle_up up shadowed b h c weights served
      refine ⟨⟨fun none => ?_, fun down => ?_⟩, fun slot' same => ?_⟩
      · rw [settled] at none
        cases none
      · obtain ⟨m, mem, isUp⟩ := served
        simp [down m mem] at isUp
      · obtain rfl := Option.some.inj (settled.symm.trans same)
        exact (f.slotUp_iff up slot).mp isUp
    · have down : ∀ m ∈ f.members, up m.uplink = false := fun m mem => by
        rw [Bool.eq_false_iff]
        exact fun isUp => served ⟨m, mem, isUp⟩
      have none := f.settle_stranded up shadowed b h c down
      refine ⟨⟨fun _ => down, fun _ => none⟩, fun slot some => ?_⟩
      rw [none] at some
      cases some

end Sys2Proof.Machine
end

section
/-! PROOF. O38, O39, O45: the scrubber, the snapshot, block steps and fixes. -/

namespace Sys2Proof.Machine

namespace State

variable (s : State)

/-! ### The scrubber (R88, R89) -/

theorem accessOf_match {α : Type} {r : Requester} {a : BucketAccess} (access : s.accessOf r = some a) (x : α)
    (f : BucketAccess → α) : (match s.accessOf r with | none => x | some a => f a) = f a := by
  rw [access]

theorem nextScrub_eq (b : Burst) : s.nextScrub b = { s with store := s.store.scrubOn b } := by
  unfold nextScrub BucketStore.scrubOn Config.blockSize
  split
  · rfl
  · dsimp only
    split <;> rfl

theorem markRebuild_eq (g : Nat) : s.markRebuild g = { s with groups := (s.markRebuild g).groups } := by
  unfold markRebuild
  split <;> rfl

theorem endAccess_markRebuild_groups (g : Nat) : (s.endAccess.markRebuild g).groups = (s.markRebuild g).groups := by
  have same : s.endAccess.group g = s.group g := rfl
  unfold markRebuild
  rw [same]
  split <;> rfl

end State

/-- Settles O38: the scrub timer, and the scrubber's read and write by the bucket and the owner of its block. -/
theorem scrubberTreatsEachBucket : Obligations.ScrubberTreatsEachBucket := by
  unfold Obligations.ScrubberTreatsEachBucket
  refine ⟨fun s due => ?_, fun s a b access wanted burst => ?_, fun s a b access wanted burst => ?_⟩
  · change execScrubTimerExpiry s = _
    unfold execScrubTimerExpiry
    refine (if_pos due).trans ?_
    by_cases running : s.store.burst.isSome = true
    · have stands (fresh : Burst) : some (s.store.burst.getD fresh) = s.store.burst := by
        obtain ⟨b, burst⟩ := Option.isSome_iff_exists.mp running
        rw [burst, Option.getD_some]
      rw [stands]
      exact if_pos running
    · have starts (fresh : Burst) : s.store.burst.getD fresh = fresh := by
        rw [Option.not_isSome_iff_eq_none.mp running, Option.getD_none]
      rw [starts]
      exact if_neg running
  · have now : exec .scrubReadDone s = .next (if a.bucket.faulted then s.endAccess.scrubFault b a.owner
        else s.endAccess.nextScrub b) := by
      change execScrubReadDone s = _
      unfold execScrubReadDone
      rw [access]
      dsimp only
      rw [burst]
      dsimp only
      rw [wanted]
      cases a.bucket.faulted <;> rfl
    refine ⟨fun clean => ?_, fun faulted free => ?_, fun g position faulted run => ?_, fun g position faulted held => ?_⟩
    · rw [now, clean, State.nextScrub_eq]
      rfl
    · rw [now, faulted, free]
      rfl
    · let item : FixItem := { group := g, bucket := 64 * position + b.offset, block := s.store.scrubCursor
                              offset := b.offset, foundBy := .scrubber }
      obtain ⟨engine, fixQueue⟩ := s.offerFix_endAccess item
      have offered : s.endAccess.offerFix item = { s.endAccess with
          store := { s.endAccess.store with fixQueue := (s.offerFix item).store.fixQueue }
          engine := (s.offerFix item).engine } := by rw [State.offerFix_eq, engine, fixQueue]
      rw [now, faulted, run]
      change Host.Outcome.next ((s.endAccess.offerFix item).nextScrub b) = _
      rw [State.nextScrub_eq, offered]
      rfl
    · have found : ((s.endAccess.group g).rebuild.any fun r => r.blocks[position]? == some s.store.scrubCursor) = true
          ↔ ∃ r, (s.group g).rebuild = some r ∧ r.blocks[position]? = some s.store.scrubCursor := by
        simp only [Option.any_eq_true, beq_iff_eq]
        exact Iff.rfl
      rw [now, faulted, held]
      change Host.Outcome.next (State.nextScrub (if ((s.endAccess.group g).rebuild.any fun r => r.blocks[position]?
        == some s.store.scrubCursor) = true then s.endAccess.markRebuild g else s.endAccess) b) = _
      rw [State.nextScrub_eq]
      by_cases reserved : ∃ r, (s.group g).rebuild = some r ∧ r.blocks[position]? = some s.store.scrubCursor
      · rw [if_pos (found.mpr reserved), if_pos reserved, State.markRebuild_eq, State.endAccess_markRebuild_groups]
        rfl
      · rw [if_neg (found.not.mpr reserved), if_neg reserved]
        rfl
  · change execScrubWriteDone s = _
    unfold execScrubWriteDone
    rw [access]
    dsimp only
    rw [burst]
    dsimp only
    rw [wanted, if_pos rfl, State.nextScrub_eq]
    rfl

/-! ### The snapshot (R91) -/

theorem leBytes_one (v : Nat) : leBytes 1 v = [BitVec.ofNat 8 v] := by
  have low : BitVec.ofNat 8 (v % 256) = BitVec.ofNat 8 v := BitVec.eq_of_toNat_eq (by simp)
  simp only [leBytes, low]

theorem snapshotEntry_eq (b : Bucket) : snapshotEntry b =
    [BitVec.ofNat 8 b.home, BitVec.ofNat 8 b.current, if b.faulted then 1 else 0, 0] := by
  unfold snapshotEntry
  simp only [leBytes_one]
  cases b.faulted <;> rfl

/-- Settles O39: a bucket that a snapshot has read, and the entry that has been written. -/
theorem snapshotWritesItsEntries : Obligations.SnapshotWritesItsEntries := by
  unfold Obligations.SnapshotWritesItsEntries
  constructor
  · intro s a r access wanted snapshot
    let next : SnapshotRecord := { r with
      next := r.next + 1, reading := false, faulted := if a.bucket.faulted then r.faulted + 1 else r.faulted }
    have now : exec .snapshotReadDone s = .next ((s.endAccess.setSnapshot (some next)).request
        (.snapshotEntry r.slot (r.buffer + BitVec.ofNat 64 (4 * r.next)) (snapshotEntry a.bucket)
          (r.next + 1 == r.size))).settleArea := by
      change execSnapshotReadDone s = _
      unfold execSnapshotReadDone
      rw [access]
      dsimp only
      rw [snapshot]
      dsimp only
      rw [wanted]
      rfl
    have counted : next = { r with
        next := r.next + 1, reading := false, faulted := r.faulted + if a.bucket.faulted then 1 else 0 } := by
      change { r with next := _, reading := _, faulted := _ } = _
      cases a.bucket.faulted <;> rfl
    refine ⟨_, now, ?_, ?_, ?_, ?_, ?_, ?_, ?_, ?_⟩
    · rw [State.settleArea_store, ← counted]
      rfl
    · rw [State.settleArea_store]
      rfl
    · rw [← snapshotEntry_eq]
      refine State.wants_settleArea _ (List.mem_append_right _ ?_)
      rw [List.mem_singleton]
      congr 1
    · exact State.settleArea_monitor _
    · exact State.settleArea_groups _
    · exact State.settleArea_engine _
    · exact State.settleArea_port _
    · exact State.settleArea_control _
  · intro s slot address entry last r flight snapshot
    let finished := last && r.slot == slot && r.next == r.size
    have now : exec .snapshotEntryWritten s = .next (if finished then
        ((s.endFlight.completeOrder (some r.slot) .snapshot false .none (snapshotResults r s.now)).setSnapshot none)
      else s.endFlight).settleArea := by
      change execSnapshotEntryWritten s = _
      unfold execSnapshotEntryWritten
      rw [flight]
      dsimp only
      rw [snapshot]
      dsimp only
      change (if finished = true then _ else _) = _
      split <;> rfl
    refine ⟨_, now, ?_, ?_, ?_, ?_, ?_, fun final mine all => ?_, fun more => ?_⟩
    · rw [State.settleArea_monitor]
      split
      · exact State.completeOrder_monitor _ _ _ _ _ _
      · rfl
    · rw [State.settleArea_groups]
      split
      · exact State.completeOrder_groups _ _ _ _ _ _
      · rfl
    · rw [State.settleArea_engine]
      split
      · exact State.completeOrder_engine _ _ _ _ _ _
      · rfl
    · rw [State.settleArea_port]
      split
      · exact State.completeOrder_port _ _ _ _ _ _
      · rfl
    · rw [State.settleArea_control]
      split
      · exact State.completeOrder_settings _ _ _ _ _ _
      · rfl
    · have size : r.next = r.size := all
      have done : finished = true := by simp [finished, final, mine, size]
      rw [if_pos done]
      constructor
      · rw [State.settleArea_store]
        exact congrArg (fun store : BucketStore => { store with snapshot := none }) (State.completeOrder_store _ _ _ _ _ _)
      · have completes := State.completeOrder_completes s.endFlight (some r.slot) .snapshot false .none
          (snapshotResults r s.now)
        have results : snapshotResults r s.now = { r1 := BitVec.ofNat 32 (64 * r.blocks.length)
                                                   r2 := BitVec.ofNat 32 r.faulted, r3 := r.generation
                                                   r4 := s.now - r.start } := rfl
        rw [← results]
        refine (completes.of_eq ?_ ?_ ?_ ?_).from rfl rfl rfl
        · exact State.settleArea_area_completions _
        · exact State.settleArea_area_holding _
        · exact State.settleArea_area_lastDrop _
        · exact State.settleArea_area_slotHolds _
    · have running : ¬ finished = true := by
        rcases more with more | other
        · simp [finished, more]
        · simp [finished, Ne.symm other]
      rw [if_neg running, State.settleArea_store]
      rfl

/-! ### Block steps and fixes (R86, R134) -/

/-- Settles O45: a block step's write, and a fix's read and write. -/
theorem blockStepsAndFixesAdvance : Obligations.BlockStepsAndFixesAdvance := by
  unfold Obligations.BlockStepsAndFixesAdvance
  constructor
  · intro s a g p o b access wanted work reserved
    have now : exec .blockStepWriteDone s = if o + 1 < 64 then
        .next (s.endAccess.setWork (.blockStep g p (o + 1) false)) else .next (s.endAccess.endBlockStep g p) := by
      change execBlockStepWriteDone s = _
      unfold execBlockStepWriteDone
      rw [access]
      dsimp only
      rw [wanted, work]
      rfl
    have rebuild : (s.endAccess.group g).rebuild = some b := reserved
    refine ⟨fun inside => ?_, fun outside more => ?_, fun outside last => ?_⟩
    · rw [now, if_pos inside]
      rfl
    · rw [now, if_neg (Nat.not_lt.mpr outside)]
      unfold State.endBlockStep
      rw [rebuild]
      simp only [Nat.not_le.mpr more, decide_false, Bool.false_eq_true, if_false]
      rfl
    · rw [now, if_neg (Nat.not_lt.mpr outside)]
      unfold State.endBlockStep
      rw [rebuild]
      simp only [last, decide_true, if_true]
      rfl
  · intro s a item access wanted
    have reading (work : s.engine.work = some (.fix item .reading)) : exec .fixAccessDone s =
        match s.fixRead item a.bucket a.owner with
        | some (home, current) => .next (s.endAccess.setWork (.fix item (.wantWrite home current true)))
        | none => .next s.endAccess.endWork := by
      change execFixAccessDone s = _
      unfold execFixAccessDone
      rw [access]
      dsimp only
      rw [wanted, work] <;> rfl
    refine ⟨fun run work still live => ?_, fun work fixed => ?_, fun work => ?_⟩
    · have write : s.fixRead item a.bucket a.owner = some (run.fields.homeOf item.bucket,
          (run.fields.settleFaulted s.isUp s.shadowed item.bucket).getD (run.fields.homeOf item.bucket)) := by
        unfold State.fixRead State.liveRun
        refine (if_pos still).trans ?_
        rw [live]
      rw [reading work, write]
      rfl
    · have nothing : s.fixRead item a.bucket a.owner = none := by
        unfold State.fixRead
        exact if_neg fixed
      rw [reading work, nothing]
      rfl
    · change execFixAccessDone s = _
      unfold execFixAccessDone
      rw [access]
      dsimp only
      rw [wanted, work]
      rfl

end Sys2Proof.Machine
end

section
/-! PROOF. O43, O44: the report of strandedness, walk steps and settle passes. -/

namespace Sys2Proof.Machine

/-- The record of a LIVE group once its strandedness has been compared at `now` (R65). -/
def GroupRecord.compared (r : GroupRecord) (stranded : Bool) (now : PartTime) : GroupRecord :=
  { r with
    reported := if stranded then .stranded else .active
    strandedSince := if r.reported = .active ∧ stranded = true then some now
      else if r.reported = .stranded ∧ stranded = false then none else r.strandedSince }

/-- A record whose strandedness is as reported stays as it is. -/
theorem GroupRecord.compared_same {r : GroupRecord} {stranded : Bool} {now : PartTime}
    (same : r.reported = if stranded then .stranded else .active) : r.compared stranded now = r := by
  obtain ⟨adopted, generation, live, pin, reported, since, rebuild⟩ := r
  cases stranded <;> cases same <;> rfl

namespace State

variable {s : State} {g : Nat} {run : LiveRun}

/-! ### Strandedness (R65) -/

theorem compareStrandedness_strands (live : (s.group g).live = some run) (active : (s.group g).reported = .active)
    (stranded : run.fields.isStranded s.isUp = true) : s.compareStrandedness g =
      ((s.setGroup g { s.group g with reported := .stranded, strandedSince := some s.now }).produce
        (.groupStranded g run.fields.escape (s.group g).adoptedGeneration)).setCause .urgent := by
  unfold compareStrandedness
  simp only [live, active, stranded]

theorem compareStrandedness_recovers (live : (s.group g).live = some run) (reported : (s.group g).reported = .stranded)
    (served : run.fields.isStranded s.isUp = false) : s.compareStrandedness g =
      (s.setGroup g { s.group g with reported := .active, strandedSince := none }).produce
        (.groupRecovered g (s.group g).adoptedGeneration
          (span ((s.group g).strandedSince.getD s.now) s.now / 1000)) := by
  unfold compareStrandedness
  simp only [live, reported, served]
  rfl

/-- A group whose strandedness is as reported is left alone. -/
theorem compareStrandedness_same (live : (s.group g).live = some run)
    (same : (s.group g).reported = if run.fields.isStranded s.isUp then .stranded else .active) :
    s.compareStrandedness g = s := by
  unfold compareStrandedness
  simp only [live]
  cases stranded : run.fields.isStranded s.isUp <;> simp [stranded] at same <;> simp [same]

theorem setGroup_group (canonical : Sparse.wf GroupRecord.reset s.groups) (r : GroupRecord) (h : Nat) :
    (s.setGroup g r).group h = if h = g then r else s.group h := by
  by_cases same : h = g
  · rw [if_pos same, same]
    exact setGroup_group_same s g r canonical
  · rw [if_neg same]
    exact setGroup_group_other s g h r same

/-- The comparison brings the group's record up to date, touches no other, and keeps the table canonical. -/
theorem compareStrandedness_groups (canonical : Sparse.wf GroupRecord.reset s.groups)
    (live : (s.group g).live = some run) :
    (∀ h, (s.compareStrandedness g).group h =
      if h = g then (s.group g).compared (run.fields.isStranded s.isUp) s.now else s.group h)
    ∧ Sparse.wf GroupRecord.reset (s.compareStrandedness g).groups := by
  cases reported : (s.group g).reported with
  | active =>
    cases stranded : run.fields.isStranded s.isUp with
    | true =>
      rw [compareStrandedness_strands live reported stranded]
      refine ⟨fun h => ?_, ?_⟩
      · refine (produce_group _ _ h).trans ?_
        rw [setGroup_group canonical]
        simp [GroupRecord.compared, reported]
      · rw [setCause_groups, produce_groups]
        exact Sparse.set_wf canonical
    | false =>
      rw [compareStrandedness_same live (by simp [reported, stranded])]
      refine ⟨fun h => ?_, canonical⟩
      rw [GroupRecord.compared_same (by simp [reported])]
      split
      · next same => rw [same]
      · rfl
  | stranded =>
    cases stranded : run.fields.isStranded s.isUp with
    | true =>
      rw [compareStrandedness_same live (by simp [reported, stranded])]
      refine ⟨fun h => ?_, canonical⟩
      rw [GroupRecord.compared_same (by simp [reported])]
      split
      · next same => rw [same]
      · rfl
    | false =>
      rw [compareStrandedness_recovers live reported stranded]
      refine ⟨fun h => ?_, ?_⟩
      · refine (produce_group _ _ h).trans ?_
        rw [setGroup_group canonical]
        simp [GroupRecord.compared, reported]
      · rw [produce_groups]
        exact Sparse.set_wf canonical

end State

/-- Settles O44: the four cases of the comparison. -/
theorem strandednessIsReportedOnChange : Obligations.StrandednessIsReportedOnChange := by
  unfold Obligations.StrandednessIsReportedOnChange
  intro s g run canonical live
  simp only [← State.isStranded_isUp]
  refine ⟨fun reported stranded => ?_, fun since reported sinceWhen served => ?_, fun reported served => ?_,
    fun reported stranded => ?_⟩
  · rw [State.compareStrandedness_strands live reported stranded]
    refine ⟨?_, ?_, ?_⟩
    · exact (State.produce_group _ _ g).trans (State.setGroup_group_same s g _ canonical)
    · exact (State.produce_reports (s.setGroup g _) _).of_eq rfl rfl
    · exact setCause_and_bit _ _
  · have served := Bool.not_eq_true _ ▸ served
    rw [State.compareStrandedness_recovers live reported served, sinceWhen]
    refine ⟨?_, ?_⟩
    · exact (State.produce_group _ _ g).trans (State.setGroup_group_same s g _ canonical)
    · exact State.produce_reports (s.setGroup g _) _
  · have served := Bool.not_eq_true _ ▸ served
    exact State.compareStrandedness_same live (by simp [reported, served])
  · exact State.compareStrandedness_same live (by simp [reported, stranded])

namespace State

variable {s : State} {g : Nat} {run : LiveRun}

/-! ### The end of a walk step or settle pass (R116, R140) -/

theorem markRebuild_group (canonical : Sparse.wf GroupRecord.reset s.groups) (h : Nat) : (s.markRebuild g).group h =
    if h = g then { s.group g with rebuild := (s.group g).rebuild.map fun r => { r with recheck := true } }
    else s.group h := by
  unfold markRebuild
  cases rebuild : (s.group g).rebuild with
  | none =>
    dsimp only
    split
    · next same => rw [same, Option.map_none, ← rebuild]
    · rfl
  | some r => exact setGroup_group canonical _ h

/-- What the end of a pass over a LIVE group makes of the groups. -/
theorem completePass_group (canonical : Sparse.wf GroupRecord.reset s.groups) (live : (s.group g).live = some run)
    (h : Nat) : (s.completePass g).group h =
      if h = g then { (s.group g).compared (run.fields.isStranded s.isUp) s.now with
        rebuild := (s.group g).rebuild.map fun r => { r with recheck := true } }
      else s.group h := by
  obtain ⟨compared, wf⟩ := compareStrandedness_groups canonical live
  unfold completePass
  rw [markRebuild_group wf, compared g, compared h, if_pos rfl]
  split <;> rfl

variable (s g)


theorem settleRead_eq {s : State} {g : Nat} {run : LiveRun} (live : (s.group g).live = some run) (b : Nat)
    (bucket : Bucket) : s.settleRead g b bucket = run.fields.rewrite s.isUp s.shadowed b bucket := by
  unfold settleRead liveRun
  rw [live]

theorem liveSize_eq {s : State} {g : Nat} {run : LiveRun} (live : (s.group g).live = some run) :
    s.liveSize g = run.fields.bucketSize := by
  unfold liveSize liveRun
  rw [live]

/-- What the end of a pass leaves, in the words of the statement. -/
theorem passEnded {s w : State} {g : Nat} {run : LiveRun} (canonical : s.Canonical)
    (live : (s.group g).live = some run) (store : w.store = (s.endAccess.completePass g).store)
    (monitor : w.monitor = (s.endAccess.completePass g).monitor) (port : w.port = (s.endAccess.completePass g).port)
    (groups : w.groups = (s.endAccess.completePass g).groups) :
    (w.settleArea.store = { s.store with access := none } ∧ w.settleArea.monitor = s.monitor
      ∧ w.settleArea.port = s.port) ∧ (∀ h, h ≠ g → w.settleArea.group h = s.group h)
    ∧ (w.settleArea.group g).reported
      = (if ∃ m ∈ run.fields.members, (s.uplink m.uplink).state = .up then .active else .stranded)
    ∧ (w.settleArea.group g).rebuild = (s.group g).rebuild.map (fun r => { r with recheck := true }) := by
  obtain ⟨-, -, wf, -⟩ := canonical
  have group (h : Nat) : w.settleArea.group h = (s.endAccess.completePass g).group h := by
    rw [settleArea_group]
    unfold State.group
    rw [groups]
  have passed := completePass_group (s := s.endAccess) (g := g) (run := run) wf live
  refine ⟨⟨?_, ?_, ?_⟩, fun h other => ?_, ?_, ?_⟩
  · rw [settleArea_store, store, completePass_store]
    rfl
  · rw [settleArea_monitor, monitor, completePass_monitor]
    rfl
  · rw [settleArea_port, port, completePass_port]
    rfl
  · rw [group, passed, if_neg other]
    rfl
  · rw [group, passed, if_pos rfl]
    have stranded : run.fields.isStranded s.isUp = true ↔ ¬ ∃ m ∈ run.fields.members, (s.uplink m.uplink).state = .up := by
      rw [isStranded_isUp]
      push Not
      rfl
    by_cases served : ∃ m ∈ run.fields.members, (s.uplink m.uplink).state = .up
    · rw [if_pos served]
      exact if_neg fun none => stranded.mp none served
    · rw [if_neg served]
      exact if_pos (stranded.mpr served)
  · rw [group, passed, if_pos rfl]
    rfl

end State

/-- Settles O43: a read or a write of a walk step or settle pass, and where it goes on. -/
theorem stepsAndPassesTreatEachBucket : Obligations.StepsAndPassesTreatEachBucket := by
  unfold Obligations.StepsAndPassesTreatEachBucket
  intro s a g b run canonical wanted live
  have size : s.endAccess.liveSize g = run.fields.bucketSize := State.liveSize_eq live
  refine ⟨fun u converted access => ?_, fun access => ?_⟩
  · have reading (work : s.engine.work = some (.walkStep u g b converted .reading)) : exec .walkStepAccessDone s =
        match run.fields.rewrite s.isUp s.shadowed b a.bucket with
        | some (home, current, found) =>
          .next (s.endAccess.setWork (.walkStep u g b converted (.wantWrite home current found)))
        | none => .next (s.endAccess.nextStepBucket u g b converted).settleArea := by
      rw [← State.settleRead_eq live]
      change execWalkStepAccessDone s = _
      unfold execWalkStepAccessDone
      rw [access]
      dsimp only
      rw [wanted, work] <;> rfl
    refine ⟨fun home current found work write => ?_, fun standing => ?_⟩
    · rw [reading work, write]
      rfl
    · have next : exec .walkStepAccessDone s = .next (s.endAccess.nextStepBucket u g b converted).settleArea := by
        rcases standing with ⟨work, nothing⟩ | work
        · rw [reading work, nothing]
        · change execWalkStepAccessDone s = _
          unfold execWalkStepAccessDone
          rw [access]
          dsimp only
          rw [wanted, work]
      refine ⟨fun more => ⟨_, next, ?_⟩, fun last => ⟨_, next, ?_⟩⟩
      · have goes : s.endAccess.nextStepBucket u g b converted
            = s.endAccess.setWork (.walkStep u g (b + 1) converted .wantRead) := by
          unfold State.nextStepBucket
          rw [size]
          exact if_pos more
        rw [goes]
        exact ⟨⟨State.settleArea_store _, State.settleArea_monitor _, State.settleArea_port _⟩,
          State.settleArea_groups _, State.settleArea_engine _⟩
      · have ends : s.endAccess.nextStepBucket u g b converted = s.endAccess.completeStep u g converted := by
          unfold State.nextStepBucket
          rw [size]
          exact if_neg (Nat.not_lt.mpr last)
        rw [ends]
        refine ⟨State.passEnded canonical live rfl rfl rfl rfl, ?_⟩
        rw [State.settleArea_engine]
        unfold State.completeStep State.endWork State.modifyWalk
        simp only [State.completePass_engine, beq_iff_eq]
        rfl
  · have reading (work : s.engine.work = some (.settlePass g b .reading)) : exec .settlePassAccessDone s =
        match run.fields.rewrite s.isUp s.shadowed b a.bucket with
        | some (home, current, found) =>
          .next (s.endAccess.setWork (.settlePass g b (.wantWrite home current found)))
        | none => .next (s.endAccess.nextPassBucket g b).settleArea := by
      rw [← State.settleRead_eq live]
      change execSettlePassAccessDone s = _
      unfold execSettlePassAccessDone
      rw [access]
      dsimp only
      rw [wanted, work] <;> rfl
    refine ⟨fun home current found work write => ?_, fun standing => ?_⟩
    · rw [reading work, write]
      rfl
    · have next : exec .settlePassAccessDone s = .next (s.endAccess.nextPassBucket g b).settleArea := by
        rcases standing with ⟨work, nothing⟩ | work
        · rw [reading work, nothing]
        · change execSettlePassAccessDone s = _
          unfold execSettlePassAccessDone
          rw [access]
          dsimp only
          rw [wanted, work]
      refine ⟨fun more => ⟨_, next, ?_⟩, fun last => ⟨_, next, ?_⟩⟩
      · have goes : s.endAccess.nextPassBucket g b = s.endAccess.setWork (.settlePass g (b + 1) .wantRead) := by
          unfold State.nextPassBucket
          rw [size]
          exact if_pos more
        rw [goes]
        exact ⟨⟨State.settleArea_store _, State.settleArea_monitor _, State.settleArea_port _⟩,
          State.settleArea_groups _, State.settleArea_engine _⟩
      · have ends : s.endAccess.nextPassBucket g b = (s.endAccess.completePass g).endWork := by
          unfold State.nextPassBucket
          rw [size]
          exact if_neg (Nat.not_lt.mpr last)
        rw [ends]
        refine ⟨State.passEnded canonical live rfl rfl rfl rfl, ?_⟩
        rw [State.settleArea_engine]
        unfold State.endWork
        simp only [State.completePass_engine]
        rfl

end Sys2Proof.Machine
end

section
/-! PROOF. O41: the selection of the next unit of work. -/

namespace Sys2Proof.Machine

namespace State

variable {s : State} {w : Walk} {rest : List Walk} {g : Nat}

/-! ### Selection (R121, R122) -/

theorem exec_workSelect_busy (busy : s.engine.work ≠ none) : exec .workSelect s = .next s := by
  obtain ⟨unit, work⟩ := Option.ne_none_iff_exists'.mp busy
  change execWorkSelect s = _
  unfold execWorkSelect
  rw [work]

theorem exec_workSelect (idle : s.engine.work = none) : exec .workSelect s =
    .next (s.select (s.engine.urgent.length + s.engine.restore.length + 1)).settleArea := by
  change execWorkSelect s = _
  unfold execWorkSelect
  rw [idle]
  rfl

/-- The turn of the head RESTORE walk (R121 rules 2 and 3). -/
theorem restoreTurn_iff (e : WalkEngine) :
    e.restoreTurn = true ↔ e.restore ≠ [] ∧ (e.intake = [] ∨ e.tally < e.weight) := by
  simp [WalkEngine.restoreTurn]

theorem select_urgent (n : Nat) (first : s.engine.urgent = w :: rest)
    (step : nextGroup (s.engine.index.get w.uplink) w.cursor = some g) : s.select (n + 1) = s.beginStep w g := by
  unfold select
  simp only [first, step]

theorem select_restore (n : Nat) (noUrgent : s.engine.urgent = []) (first : s.engine.restore = w :: rest)
    (turn : s.engine.intake = [] ∨ s.engine.tally < s.engine.weight)
    (step : nextGroup (s.engine.index.get w.uplink) w.cursor = some g) :
    s.select (n + 1) = (s.setTally (raiseTally s.engine.weight s.engine.tally)).beginStep w g := by
  have turn : s.engine.restoreTurn = true := (restoreTurn_iff _).mpr ⟨by simp [first], turn⟩
  unfold select
  simp only [noUrgent, turn, first, step, if_true]

theorem not_restoreTurn (other : s.engine.restore = [] ∨ ¬ (s.engine.intake = [] ∨ s.engine.tally < s.engine.weight)) :
    ¬ s.engine.restoreTurn = true := by
  rw [restoreTurn_iff]
  tauto

theorem select_intake (n : Nat) {item : IntakeItem} {items : List IntakeItem} (noUrgent : s.engine.urgent = [])
    (other : s.engine.restore = [] ∨ ¬ (s.engine.intake = [] ∨ s.engine.tally < s.engine.weight))
    (first : s.engine.intake = item :: items) : s.select (n + 1) = s.takeIntake item := by
  unfold select
  simp only [noUrgent, not_restoreTurn other, first, Bool.false_eq_true, if_false]

theorem select_nothing (n : Nat) (noUrgent : s.engine.urgent = []) (noRestore : s.engine.restore = [])
    (noIntake : s.engine.intake = []) : s.select (n + 1) = s := by
  unfold select
  simp only [noUrgent, not_restoreTurn (.inl noRestore), noIntake, Bool.false_eq_true, if_false]

/-- A selection that changes no more than the engine. -/
theorem selected {v : State} {engine : WalkEngine} (idle : s.engine.work = none)
    (select : s.select (s.engine.urgent.length + s.engine.restore.length + 1) = v) (is : v = { s with engine }) :
    ∃ t, exec .workSelect s = .next t ∧ t.engine = engine
      ∧ t.monitor = s.monitor ∧ t.store = s.store ∧ t.groups = s.groups ∧ t.port = s.port ∧ t.conduits = s.conduits := by
  subst is
  refine ⟨_, (exec_workSelect idle).trans (by rw [select]), ?_, ?_, ?_, ?_, ?_, ?_⟩
  · exact settleArea_engine _
  · exact settleArea_monitor _
  · exact settleArea_store _
  · exact settleArea_groups _
  · exact settleArea_port _
  · exact settleArea_conduits _

/-! ### Walks that end (R21, R118) -/

/-- What the end of walk `w` leaves, with the engine `engine`. -/
structure WalkEnds (s t : State) (w : Walk) (cls : WalkClass) (engine : WalkEngine) : Prop where
  produced : s.Produced t [.walkDone w.uplink cls w.conversions w.groupsTouched w.bucketsMoved (s.now - w.start)]
  engine : t.engine = engine
  store : t.store = s.store
  groups : t.groups = s.groups
  port : t.port = s.port
  conduits : t.conduits = s.conduits
  settings : t.control.settings = s.control.settings
  lines : t.monitor.lines = s.monitor.lines
  others : s.OnlyUplink t w.uplink
  restore : cls = .restore → t.uplink w.uplink = s.uplink w.uplink
  urgent : cls = .urgent → t.uplink w.uplink = { s.uplink w.uplink with
    drill := (s.uplink w.uplink).drill.map fun d =>
      { d with walkResult := some (d.walkResult.getD (w.bucketsMoved, s.now - w.start)) } }

variable (s w)

theorem endWalk_ends (cls : WalkClass) : s.WalkEnds (s.endWalk w cls) w cls (match cls with
    | .urgent => { s.engine with urgent := s.engine.urgent.tail }
    | .restore => { s.engine with restore := s.engine.restore.tail }) where
  produced := endWalk_produced s w cls
  engine := endWalk_engine s w cls
  store := by simp
  groups := by simp
  port := by simp
  conduits := by simp
  settings := by simp
  lines := by simp
  others := fun _ other => endWalk_uplink_of_ne s w cls other
  restore := by
    rintro rfl
    simp [endWalk, uplink, reportWalk]
  urgent := by
    rintro rfl
    exact endWalk_uplink s w

variable {s w}

theorem WalkEnds.settleArea {t : State} {cls : WalkClass} {engine : WalkEngine} (h : s.WalkEnds t w cls engine) :
    s.WalkEnds t.settleArea w cls engine where
  produced := h.produced.of_eq (settleArea_area_holding t) (settleArea_area_gapCount t) (settleArea_area_firstDrop t)
    (settleArea_area_lastDrop t)
  engine := (settleArea_engine t).trans h.engine
  store := (settleArea_store t).trans h.store
  groups := (settleArea_groups t).trans h.groups
  port := (settleArea_port t).trans h.port
  conduits := (settleArea_conduits t).trans h.conduits
  settings := by rw [settleArea_control, h.settings]
  lines := by rw [settleArea_monitor, h.lines]
  others := fun v other => by rw [settleArea_uplink, h.others v other]
  restore := fun c => by rw [settleArea_uplink, h.restore c]
  urgent := fun c => by rw [settleArea_uplink, h.urgent c]

/-- The end of a walk in the words of the statement. -/
theorem WalkEnds.conclude {t : State} {cls : WalkClass} {engine : WalkEngine} (h : s.WalkEnds t w cls engine) :
    s.Produced t [.walkDone w.uplink cls w.conversions w.groupsTouched w.bucketsMoved (s.now - w.start)]
      ∧ t.engine = engine ∧ t.store = s.store ∧ t.groups = s.groups ∧ t.port = s.port ∧ t.conduits = s.conduits
      ∧ t.control.settings = s.control.settings ∧ t.monitor.lines = s.monitor.lines ∧ s.OnlyUplink t w.uplink
      ∧ (cls = .restore → t.uplink w.uplink = s.uplink w.uplink)
      ∧ (cls = .urgent → t.uplink w.uplink = { s.uplink w.uplink with
          drill := (s.uplink w.uplink).drill.map fun d =>
            { d with walkResult := some (d.walkResult.getD (w.bucketsMoved, s.now - w.start)) } }) :=
  ⟨h.produced, h.engine, h.store, h.groups, h.port, h.conduits, h.settings, h.lines, h.others, h.restore, h.urgent⟩

theorem urgent_ends (first : s.engine.urgent = w :: rest) :
    s.WalkEnds (s.endWalk w .urgent) w .urgent { s.engine with urgent := rest } := by
  have ends := s.endWalk_ends w .urgent
  rwa [first] at ends

theorem restore_ends (first : s.engine.restore = w :: rest) :
    s.WalkEnds (s.endWalk w .restore) w .restore { s.engine with restore := rest } := by
  have ends := s.endWalk_ends w .restore
  rwa [first] at ends

/-- Once the last walk has ended with no intake item, nothing is selected. -/
theorem exec_workSelect_ended {t : State} (work : t.engine.work = none) (noUrgent : t.engine.urgent = [])
    (noRestore : t.engine.restore = []) (noIntake : t.engine.intake = []) : exec .workSelect t = .next t.settleArea := by
  rw [exec_workSelect work, select_nothing _ noUrgent noRestore noIntake]

end State

/-- Settles O41: the branches of the selection in their order. -/
theorem selectionFollowsThePriority : Obligations.SelectionFollowsThePriority := by
  unfold Obligations.SelectionFollowsThePriority
  intro s
  have next (w : Walk) := nextGroup_eq_find (s.engine.index.get w.uplink) w.cursor
  refine ⟨State.exec_workSelect_busy, fun w rest g idle first step => ?_, fun w rest g idle none first turn step => ?_,
    fun g p rest idle none other first => ?_, fun g rest idle none other first => ?_,
    fun g b item rest idle none other first found => ?_, fun idle none noRestore noIntake => ?_,
    fun w idle first noRestore noIntake ended => ?_, fun w idle none first noIntake ended => ?_,
    fun w rest idle first ended => ⟨_, (State.urgent_ends first).conclude,
      State.execWorkSelect_endUrgent s w idle first ((next w).trans ended)⟩,
    fun w rest idle none first turn ended => ⟨_, (State.restore_ends first).conclude,
      State.execWorkSelect_endRestore s w idle none first ((State.restoreTurn_iff _).mpr ⟨by simp [first], turn⟩)
        ((next w).trans ended)⟩⟩
  · exact State.selected idle (State.select_urgent _ first ((next w).trans step)) rfl
  · exact State.selected idle (State.select_restore _ none first turn ((next w).trans step)) rfl
  · refine State.selected idle (State.select_intake _ none other first) ?_
    unfold State.takeIntake
    rw [first]
    rfl
  · refine State.selected idle (State.select_intake _ none other first) ?_
    unfold State.takeIntake State.liveRun
    rw [first]
    change (match (s.group g).live with | .none => _ | some _ => _ : State) = _
    cases live : (s.group g).live with
    | none =>
      rw [if_pos rfl, ← idle]
      rfl
    | some run => rfl
  · have taken := State.select_intake (s.engine.urgent.length + s.engine.restore.length) none other first
    unfold State.takeIntake at taken
    rw [first] at taken
    dsimp only at taken
    rw [found] at taken
    refine ⟨_, (State.exec_workSelect idle).trans (by rw [taken]), ?_, ?_, ?_, ?_, ?_⟩
    · exact State.settleArea_monitor _
    · exact State.settleArea_groups _
    · exact State.settleArea_port _
    · exact State.settleArea_engine _
    · exact State.settleArea_store _
  · exact State.selected idle (State.select_nothing _ none noRestore noIntake) rfl
  · have ends := State.urgent_ends first
    have engine := ends.engine
    refine ⟨_, (State.execWorkSelect_endUrgent s w idle first ((next w).trans ended)).trans
      (State.exec_workSelect_ended ?_ ?_ ?_ ?_),
      ends.settleArea.conclude⟩ <;> rw [engine]
    exacts [idle, noRestore, noIntake]
  · have ends := State.restore_ends first
    have engine := ends.engine
    have turn : s.engine.restoreTurn = true := (State.restoreTurn_iff _).mpr ⟨by simp [first], .inl noIntake⟩
    refine ⟨_, (State.execWorkSelect_endRestore s w idle none first turn ((next w).trans ended)).trans
      (State.exec_workSelect_ended ?_ ?_ ?_ ?_), ends.settleArea.conclude⟩ <;> rw [engine]
    exacts [idle, none, noIntake]

end Sys2Proof.Machine
end

section
/-! PROOF. O40: the arbiter of the bucket memory. -/

namespace Sys2Proof.Machine

/-! ### What waits (R82) -/

theorem AccessPhase.waits_iff (phase : AccessPhase) : phase.waits = true ↔ phase ≠ .reading ∧ phase ≠ .writing := by
  cases phase <;> simp [AccessPhase.waits]

theorem Port.wantsAccess_iff (p : Port) : p.wantsAccess = true ↔
    ∃ r, p.resolution = some r ∧ (r.phase = .wantRead ∨ r.phase = .wantEscape) := by
  unfold Port.wantsAccess
  cases p.resolution <;> simp

namespace State

variable {s : State}

theorem scrubWaits_iff : s.scrubWaits = true ↔
    ∃ b, s.store.burst = some b ∧ (b.phase = .wantRead ∨ b.phase = .wantWrite) := by
  unfold scrubWaits
  cases s.store.burst <;> simp [Burst.waits]

theorem snapshotWaits_iff : s.snapshotWaits = true ↔
    ∃ r, s.store.snapshot = some r ∧ r.reading = false ∧ r.next < 64 * r.blocks.length := by
  unfold snapshotWaits
  simp only [Option.any_eq_true, SnapshotRecord.waits, Bool.and_eq_true, Bool.not_eq_true', decide_eq_true_eq]
  exact Iff.rfl

/-! ### The class that is granted -/

theorem exec_grant_busy (busy : s.store.access ≠ none) : exec .bucketAccessGrant s = .next s := by
  obtain ⟨a, access⟩ := Option.ne_none_iff_exists'.mp busy
  change execBucketAccessGrant s = _
  unfold execBucketAccessGrant
  rw [access]

theorem exec_grant (idle : s.store.access = none) : exec .bucketAccessGrant s = .next s.grantNext.settleArea := by
  change execBucketAccessGrant s = _
  unfold execBucketAccessGrant
  rw [idle]

theorem exec_grant_lookup {r : Resolution} (idle : s.store.access = none) (resolution : s.port.resolution = some r)
    (waits : r.phase = .wantRead ∨ r.phase = .wantEscape) :
    exec .bucketAccessGrant s = .next (s.grantLookup r).settleArea := by
  have wants : s.port.wantsAccess = true := (Port.wantsAccess_iff _).mpr ⟨r, resolution, waits⟩
  rw [exec_grant idle]
  unfold grantNext
  rw [if_pos wants, resolution]

theorem exec_grant_engine {w : Work} (idle : s.store.access = none) (noLookup : s.port.wantsAccess = false)
    (work : s.engine.work = some w) (waits : w.waits = true) :
    exec .bucketAccessGrant s = .next (s.grantEngine w).settleArea := by
  have wants : s.engineWaits = true := by simp [engineWaits, work, waits]
  rw [exec_grant idle]
  unfold grantNext
  rw [if_neg (by simp [noLookup]), if_pos wants, work]

theorem exec_grant_class3 (idle : s.store.access = none) (noLookup : s.port.wantsAccess = false)
    (noEngine : s.engineWaits = false) : exec .bucketAccessGrant s = .next s.grantClass3.settleArea := by
  rw [exec_grant idle]
  unfold grantNext
  rw [if_neg (by simp [noLookup]), if_neg (by simp [noEngine])]

theorem grantClass3_nothing (noScrub : s.scrubWaits = false) (noSnapshot : s.snapshotWaits = false) :
    s.grantClass3 = s := by
  unfold grantClass3
  rw [noScrub, noSnapshot]

/-! ### The scrubber and the snapshot (R89) -/

theorem grantScrub_reads {b : Burst} (phase : b.phase = .wantRead) : s.grantScrub b =
    (s.beginAccess .scrubRead s.store.scrubCursor b.offset).setBurst (some { b with phase := .reading }) := by
  unfold grantScrub
  rw [phase]

theorem grantScrub_writes {b : Burst} (phase : b.phase = .wantWrite) (free : s.owner s.store.scrubCursor = .free) :
    s.grantScrub b = ((s.setBucket s.store.scrubCursor b.offset Bucket.reset).beginAccess .scrubWrite s.store.scrubCursor
      b.offset).setBurst (some { b with phase := .writing }) := by
  unfold grantScrub
  rw [phase]
  dsimp only
  rw [if_pos free]

/-- A block that is no longer free is left alone (log 38). -/
theorem grantScrub_passes {b : Burst} (phase : b.phase = .wantWrite) (taken : s.owner s.store.scrubCursor ≠ .free) :
    s.grantScrub b = (s.beginAccess .scrubWrite s.store.scrubCursor b.offset).setBurst (some { b with phase := .writing }) := by
  unfold grantScrub
  rw [phase]
  dsimp only
  rw [if_neg taken]

theorem grantScrub_waitless {b : Burst} (phase : b.phase = .reading ∨ b.phase = .writing) : s.grantScrub b = s := by
  unfold grantScrub
  rcases phase with phase | phase <;> rw [phase]

theorem grantScrub_recount (v : State) (b : Burst) (count : Nat) :
    State.grantScrub { v with openCount := count } b = { v.grantScrub b with openCount := count } := by
  cases phase : b.phase with
  | wantRead => rw [grantScrub_reads (s := { v with openCount := count }) phase, grantScrub_reads (s := v) phase] <;> rfl
  | wantWrite =>
    by_cases free : v.owner v.store.scrubCursor = .free
    · rw [grantScrub_writes (s := { v with openCount := count }) phase free, grantScrub_writes (s := v) phase free] <;> rfl
    · rw [grantScrub_passes (s := { v with openCount := count }) phase free, grantScrub_passes (s := v) phase free] <;> rfl
  | reading => rw [grantScrub_waitless (.inl phase), grantScrub_waitless (.inl phase)]
  | writing => rw [grantScrub_waitless (.inr phase), grantScrub_waitless (.inr phase)]

theorem grantBackground_scrubber {b : Burst} (burst : s.store.burst = some b) : s.grantBackground .scrubber =
    State.grantScrub { s with store := { s.store with lastBackground := some .scrubber } } b := by
  unfold grantBackground
  dsimp only
  rw [burst]

theorem grantBackground_snapshot {r : SnapshotRecord} (record : s.store.snapshot = some r) : s.grantBackground .snapshot =
    State.grantSnapshot { s with store := { s.store with lastBackground := some .snapshot } } r := by
  unfold grantBackground
  dsimp only
  rw [record]

/-- A grant of class 3 sees neither the counter of open orders nor which of the two was granted last. -/
theorem grantBackground_scrubber_blind {b : Burst} (burst : s.store.burst = some b) (count : Nat)
    (last : Option Background) : State.grantBackground { s with openCount := count } .scrubber = { State.grantBackground
      { s with store := { s.store with lastBackground := last } } .scrubber with openCount := count } := by
  rw [grantBackground_scrubber (s := { s with openCount := count }) burst,
    grantBackground_scrubber (s := { s with store := { s.store with lastBackground := last } }) burst]
  exact grantScrub_recount { s with store := { s.store with lastBackground := some .scrubber } } b count

theorem grantBackground_snapshot_blind {r : SnapshotRecord} (record : s.store.snapshot = some r) (count : Nat)
    (last : Option Background) : State.grantBackground { s with openCount := count } .snapshot = { State.grantBackground
      { s with store := { s.store with lastBackground := last } } .snapshot with openCount := count } := by
  rw [grantBackground_snapshot (s := { s with openCount := count }) record,
    grantBackground_snapshot (s := { s with store := { s.store with lastBackground := last } }) record]
  rfl

theorem grantBackground_blind (scrub : s.scrubWaits = true) (snapshot : s.snapshotWaits = true) (b : Background)
    (count : Nat) (last : Option Background) : State.grantBackground { s with openCount := count } b =
      { State.grantBackground { s with store := { s.store with lastBackground := last } } b with openCount := count } := by
  obtain ⟨b', burst, _⟩ := scrubWaits_iff.mp scrub
  obtain ⟨r, record, _⟩ := snapshotWaits_iff.mp snapshot
  cases b with
  | scrubber => exact grantBackground_scrubber_blind burst count last
  | snapshot => exact grantBackground_snapshot_blind record count last

theorem exec_grant_scrub {b : Burst} (idle : s.store.access = none) (noLookup : s.port.wantsAccess = false)
    (noEngine : s.engineWaits = false) (burst : s.store.burst = some b) (waits : b.phase = .wantRead ∨ b.phase = .wantWrite)
    (turn : s.snapshotWaits = false ∨ s.store.lastBackground = some .snapshot) :
    exec .bucketAccessGrant s = .next (State.grantScrub { s with
      store := { s.store with lastBackground := some .scrubber } } b).settleArea := by
  have scrub : s.scrubWaits = true := scrubWaits_iff.mpr ⟨b, burst, waits⟩
  have class3 : s.grantClass3 = s.grantBackground .scrubber := by
    unfold grantClass3
    rw [scrub]
    cases snapshot : s.snapshotWaits with
    | false => rfl
    | true =>
      have last := turn.resolve_left (by simp [snapshot])
      dsimp only
      rw [last]
      rfl
  rw [exec_grant_class3 idle noLookup noEngine, class3, grantBackground_scrubber burst]

theorem exec_grant_snapshot {r : SnapshotRecord} (idle : s.store.access = none) (noLookup : s.port.wantsAccess = false)
    (noEngine : s.engineWaits = false) (record : s.store.snapshot = some r) (waits : s.snapshotWaits = true)
    (turn : s.scrubWaits = false ∨ s.store.lastBackground = some .scrubber) :
    exec .bucketAccessGrant s = .next (State.grantSnapshot { s with
      store := { s.store with lastBackground := some .snapshot } } r).settleArea := by
  have class3 : s.grantClass3 = s.grantBackground .snapshot := by
    unfold grantClass3
    rw [waits]
    cases scrub : s.scrubWaits with
    | false => rfl
    | true =>
      have last := turn.resolve_left (by simp [scrub])
      dsimp only
      rw [last]
      rfl
  rw [exec_grant_class3 idle noLookup noEngine, class3, grantBackground_snapshot record]

/-- Where both wait, the one that did not have the last grant is granted (R82). -/
theorem exists_alternate (granted : Background) :
    ∃ other, other ≠ granted ∧ ∀ count, alternate (some other) count = (granted, count) := by
  cases granted with
  | scrubber => exact ⟨.snapshot, by simp, fun _ => rfl⟩
  | snapshot => exact ⟨.scrubber, by simp, fun _ => rfl⟩

/-- The class-3 requester that is granted where both wait. -/
def background (s : State) : Background := (alternate s.store.lastBackground s.openCount).1

theorem exec_grant_both (idle : s.store.access = none) (noLookup : s.port.wantsAccess = false)
    (noEngine : s.engineWaits = false) (scrub : s.scrubWaits = true) (snapshot : s.snapshotWaits = true) :
    exec .bucketAccessGrant s = .next (State.grantBackground { s with
      openCount := (alternate s.store.lastBackground s.openCount).2 } s.background).settleArea := by
  rw [exec_grant_class3 idle noLookup noEngine]
  unfold grantClass3
  rw [scrub, snapshot]
  rfl

theorem grantBackground_lastBackground (b : Background) :
    (s.grantBackground b).store.lastBackground = some b := by
  unfold grantBackground
  dsimp only
  cases b with
  | scrubber =>
    dsimp only
    cases s.store.burst with
    | none => rfl
    | some b =>
      dsimp only
      unfold grantScrub
      dsimp only
      split
      · rfl
      · split <;> rfl
      · rfl
      · rfl
  | snapshot =>
    dsimp only
    cases s.store.snapshot <;> rfl

/-! ### Writes of a live run (R81, R87) -/

theorem count_toList (o : Option (Fin 32)) (v : Fin 32) : o.toList.count v = if o = some v then 1 else 0 := by
  cases o with
  | none => rfl
  | some u => simp [List.count_singleton]

/-- The load counts once a bucket of a run has changed its current member from `old` to `new` (R81). -/
def movedLoads (loads : Vector Nat 32) (fields : GroupFields) (old new : Nat) : Vector Nat 32 :=
  if old = new then loads else addLoads (subLoads loads (fields.uplinkOf old).toList) (fields.uplinkOf new).toList

theorem movedLoads_get (loads : Vector Nat 32) (fields : GroupFields) {old new : Nat} (moved : old ≠ new) (v : Fin 32) :
    (movedLoads loads fields old new).get v = loads.get v - (if fields.uplinkOf old = some v then 1 else 0)
      + (if fields.uplinkOf new = some v then 1 else 0) := by
  unfold movedLoads
  rw [if_neg moved, addLoads_get, subLoads_get, count_toList, count_toList]

theorem moveLoad_eq (fields : GroupFields) (old new : Nat) : s.moveLoad fields old new = { s with
    store := { s.store with loads := movedLoads s.store.loads fields old new } } := by
  unfold moveLoad movedLoads
  split <;> rfl

variable {run : LiveRun} {g b home current : Nat}

theorem writeLiveBucket_store (live : (s.group g).live = some run) (found : Option FoundBy) :
    (s.writeLiveBucket g b home current found).store = { s.store with
      memory := Memory.write s.store.memory (bucketIndex (run.blocks.getD (b / 64) 0) (b % 64))
        { home, current, faulted := false }
      loads := movedLoads s.store.loads run.fields (s.bucket (run.blocks.getD (b / 64) 0) (b % 64)).current current } := by
  unfold writeLiveBucket liveRun
  rw [live]
  dsimp only
  rw [moveLoad_eq]
  cases found with
  | none => rfl
  | some f => exact produce_store _ _

theorem writeLiveBucket_area (live : (s.group g).live = some run) :
    (s.writeLiveBucket g b home current none).area = s.area := by
  unfold writeLiveBucket liveRun
  rw [live]
  dsimp only
  rw [moveLoad_eq]
  rfl

theorem writeLiveBucket_reports (live : (s.group g).live = some run) (f : FoundBy) :
    (s.writeLiveBucket g b home current (some f)).Reports s.now (.scrubFix g b (run.blocks.getD (b / 64) 0) (b % 64) f
      (s.bucket (run.blocks.getD (b / 64) 0) (b % 64)).current home current) := by
  unfold writeLiveBucket liveRun
  rw [live]
  dsimp only
  rw [moveLoad_eq]
  exact produce_reports _ _

/-- What the grant of a write of a live run's bucket leaves besides the engine. -/
structure Writes (s t : State) (requester : Requester) (run : LiveRun) (g b home current : Nat) (found : Option FoundBy) :
    Prop where
  port : t.port = s.port
  groups : t.groups = s.groups
  monitor : t.monitor = s.monitor
  store : t.store = { s.store with access := t.store.access, memory := t.store.memory, loads := t.store.loads }
  access : ∃ a, t.store.access = some a ∧ a.requester = requester ∧ a.wanted = true
  bucket : t.bucket (run.blocks.getD (b / 64) 0) (b % 64) = { home, current, faulted := false }
  others : ∀ i, i ≠ 64 * run.blocks.getD (b / 64) 0 + b % 64 →
    Memory.read t.store.memory i = Memory.read s.store.memory i
  kept : (s.bucket (run.blocks.getD (b / 64) 0) (b % 64)).current = current → t.store.loads = s.store.loads
  moved : (s.bucket (run.blocks.getD (b / 64) 0) (b % 64)).current ≠ current → ∀ v, t.store.loads.get v
    = s.store.loads.get v
      - (if run.fields.uplinkOf (s.bucket (run.blocks.getD (b / 64) 0) (b % 64)).current = some v then 1 else 0)
      + (if run.fields.uplinkOf current = some v then 1 else 0)
  silent : found = none → t.area.holding = s.area.holding
  reports : ∀ f, found = some f → t.Reports s.now (.scrubFix g b (run.blocks.getD (b / 64) 0) (b % 64) f
    (s.bucket (run.blocks.getD (b / 64) 0) (b % 64)).current home current)

/-- The write of a bucket, then the access that stands for it. -/
theorem Writes.of_grant {w : State} {found : Option FoundBy} (canonical : Memory.wf s.store.memory)
    (live : (s.group g).live = some run) (store : w.store = (s.writeLiveBucket g b home current found).store)
    (area : w.area = (s.writeLiveBucket g b home current found).area) (port : w.port = s.port)
    (groups : w.groups = s.groups) (monitor : w.monitor = s.monitor) (requester : Requester) (block offset : Nat)
    (work : Work) : s.Writes ((w.beginAccess requester block offset).setWork work).settleArea requester run g b home
      current found := by
  rw [writeLiveBucket_store live found] at store
  have settled : ((w.beginAccess requester block offset).setWork work).settleArea.store = { w.store with
      access := some { requester, wanted := true, bucket := w.bucket block offset, owner := w.owner block } } :=
    settleArea_store _
  rw [store] at settled
  refine ⟨(settleArea_port _).trans port, (settleArea_groups _).trans groups, (settleArea_monitor _).trans monitor, ?_,
    ⟨{ requester, wanted := true, bucket := w.bucket block offset, owner := w.owner block }, ?_, rfl, rfl⟩, ?_,
    fun i other => ?_, fun same => ?_, fun moved v => ?_, fun none => ?_, fun f some => ?_⟩
  · rw [settled]
  · rw [settled]
  · unfold State.bucket
    rw [settled]
    exact Memory.read_write_same canonical
  · rw [settled]
    exact Memory.read_write_other other
  · rw [settled]
    exact if_pos same
  · rw [settled]
    exact movedLoads_get _ _ moved v
  · rw [settleArea_area_holding]
    change w.area.holding = _
    rw [area, none, writeLiveBucket_area live]
  · rw [some] at area
    have reported : w.Reports s.now _ := (writeLiveBucket_reports live f).of_eq (by rw [area]) (by rw [area])
    exact (reported.of_eq (t := (w.beginAccess requester block offset).setWork work) rfl rfl).settleArea

/-- The write in the words of the statement. -/
theorem Writes.conclude {t : State} {requester : Requester} {found : Option FoundBy}
    (h : s.Writes t requester run g b home current found) :
    t.port = s.port ∧ t.groups = s.groups ∧ t.monitor = s.monitor
      ∧ t.store = { s.store with access := t.store.access, memory := t.store.memory, loads := t.store.loads }
      ∧ (∃ a, t.store.access = some a ∧ a.requester = requester ∧ a.wanted = true)
      ∧ t.bucket (run.blocks.getD (b / 64) 0) (b % 64) = { home, current, faulted := false }
      ∧ (∀ i, i ≠ 64 * run.blocks.getD (b / 64) 0 + b % 64 →
          Memory.read t.store.memory i = Memory.read s.store.memory i)
      ∧ ((s.bucket (run.blocks.getD (b / 64) 0) (b % 64)).current = current → t.store.loads = s.store.loads)
      ∧ ((s.bucket (run.blocks.getD (b / 64) 0) (b % 64)).current ≠ current → ∀ v, t.store.loads.get v
          = s.store.loads.get v
            - (if run.fields.uplinkOf (s.bucket (run.blocks.getD (b / 64) 0) (b % 64)).current = some v then 1 else 0)
            + (if run.fields.uplinkOf current = some v then 1 else 0))
      ∧ (found = none → t.area.holding = s.area.holding)
      ∧ (∀ f, found = some f → t.Reports s.now (.scrubFix g b (run.blocks.getD (b / 64) 0) (b % 64) f
          (s.bucket (run.blocks.getD (b / 64) 0) (b % 64)).current home current)) :=
  ⟨h.port, h.groups, h.monitor, h.store, h.access, h.bucket, h.others, h.kept, h.moved, h.silent, h.reports⟩

theorem beginLiveAccess_eq (live : (s.group g).live = some run) (requester : Requester) :
    s.beginLiveAccess requester g b = s.beginAccess requester (run.blocks.getD (b / 64) 0) (b % 64) := by
  unfold beginLiveAccess liveRun
  rw [live]
  rfl

/-- The grant of a walk step's write: the bucket, and the walk's count of buckets moved (R115). -/
theorem countMove_engine (u : Fin 32) (old new : Nat) : (s.countMove u old new).engine = { s.engine with
    urgent := s.engine.urgent.map fun w => if w.uplink = u ∧ old ≠ new then
      { w with bucketsMoved := min 1048575 (w.bucketsMoved + 1) } else w
    restore := s.engine.restore.map fun w => if w.uplink = u ∧ old ≠ new then
      { w with bucketsMoved := min 1048575 (w.bucketsMoved + 1) } else w } := by
  unfold countMove
  split
  next same => simp [same]
  next moved =>
    simp only [modifyWalk, beq_iff_eq, moved, ne_eq, not_false_eq_true, and_true]
    rfl

theorem grantEngine_walkWrite {u : Fin 32} {converted found : Bool} (live : (s.group g).live = some run) :
    s.grantEngine (.walkStep u g b converted (.wantWrite home current found)) =
      (((s.writeLiveBucket g b home current (if found then some .walkStep else none)).countMove u
        (s.bucket (run.blocks.getD (b / 64) 0) (b % 64)).current current).beginAccess .walkStep
          (run.blocks.getD (b / 64) 0) (b % 64)).setWork (.walkStep u g b converted .writing) := by
  unfold grantEngine
  dsimp only
  rw [beginLiveAccess_eq (run := run) (by simp [live])]
  unfold liveCurrent liveRun
  rw [live]
  rfl

theorem writeStagedBucket_eq {r : Rebuild} (reserved : (s.group g).rebuild = some r) (position offset : Nat) :
    s.writeStagedBucket g position offset = (s.setBucket (r.blocks.getD position 0) offset
      (r.staged.stagedBucket s.isUp s.shadowed (64 * position + offset))).beginAccess .blockStep
        (r.blocks.getD position 0) offset := by
  unfold writeStagedBucket
  rw [reserved]

end State

/-- Settles O40: what waits, then one grant at a time: the lookup's, the engine's by its unit, the scrubber's and the
snapshot's, and the one of the two that an open order picks. -/
theorem grantsFollowTheClasses : Obligations.GrantsFollowTheClasses := by
  unfold Obligations.GrantsFollowTheClasses
  intro s idle noLookup read reads one writes
  refine ⟨Port.wantsAccess_iff _, ?_, State.scrubWaits_iff, State.snapshotWaits_iff, State.exec_grant_busy, ?_, ?_, ?_,
    ?_, ?_, ?_, ?_, ?_, ?_, ?_, ?_, ?_, ?_⟩
  · unfold State.engineWaits
    cases s.engine.work with
    | none => simp
    | some w => cases w <;> simp [Work.waits, AccessPhase.waits_iff]
  · intro r run hidle resolution phase live b
    refine ⟨_, State.exec_grant_lookup hidle resolution (.inl phase), ?_⟩
    rw [State.settleArea_engine, State.settleArea_port, State.settleArea_store]
    unfold State.grantLookup
    rw [phase, live]
    exact ⟨rfl, rfl, rfl⟩
  · intro r e run hidle resolution phase escape live b
    refine ⟨_, State.exec_grant_lookup hidle resolution (.inr phase), ?_⟩
    rw [State.settleArea_engine, State.settleArea_port, State.settleArea_store]
    unfold State.grantLookup
    rw [phase, escape]
    dsimp only [Option.bind]
    rw [live]
    exact ⟨rfl, rfl, rfl⟩
  · intro u g b converted run hidle hlookup work live
    refine ⟨_, State.exec_grant_engine hidle hlookup work rfl, ?_⟩
    unfold State.grantEngine
    dsimp only
    rw [State.beginLiveAccess_eq live]
    exact ⟨⟨State.settleArea_port _, State.settleArea_groups _, State.settleArea_monitor _, State.settleArea_store _⟩,
      State.settleArea_engine _⟩
  · intro g b run hidle hlookup work live
    refine ⟨_, State.exec_grant_engine hidle hlookup work rfl, ?_⟩
    unfold State.grantEngine
    dsimp only
    rw [State.beginLiveAccess_eq live]
    exact ⟨⟨State.settleArea_port _, State.settleArea_groups _, State.settleArea_monitor _, State.settleArea_store _⟩,
      State.settleArea_engine _⟩
  · intro item hidle hlookup work
    exact ⟨_, State.exec_grant_engine hidle hlookup work rfl, State.settleArea_port _, State.settleArea_groups _,
      State.settleArea_monitor _, State.settleArea_engine _, State.settleArea_store _⟩
  · intro u g b converted home current found run hidle hlookup canonical work live moved
    refine ⟨_, State.exec_grant_engine hidle hlookup work rfl, ?_⟩
    rw [State.grantEngine_walkWrite live]
    refine ⟨State.Writes.conclude (State.Writes.of_grant canonical live ?_ ?_ ?_ ?_ ?_ _ _ _ _), ?_⟩
    · simp
    · simp
    · simp
    · simp
    · simp
    · rw [State.settleArea_engine]
      unfold State.setWork State.beginAccess
      dsimp only
      rw [State.countMove_engine, State.writeLiveBucket_engine]
  · intro g b home current found run hidle hlookup canonical work live
    refine ⟨_, State.exec_grant_engine hidle hlookup work rfl, ?_⟩
    unfold State.grantEngine
    dsimp only
    rw [State.beginLiveAccess_eq (run := run) (by simp [live])]
    refine ⟨State.Writes.conclude (State.Writes.of_grant canonical live rfl rfl ?_ ?_ ?_ _ _ _ _), ?_⟩
    · simp
    · simp
    · simp
    · rw [State.settleArea_engine]
      unfold State.setWork State.beginAccess
      dsimp only
      rw [State.writeLiveBucket_engine]
  · intro item home current found run hidle hlookup canonical work live
    refine ⟨_, State.exec_grant_engine hidle hlookup work rfl, ?_⟩
    unfold State.grantEngine
    dsimp only
    refine ⟨State.Writes.conclude (State.Writes.of_grant canonical live rfl rfl ?_ ?_ ?_ _ _ _ _), ?_⟩
    · simp
    · simp
    · simp
    · rw [State.settleArea_engine]
      unfold State.setWork State.beginAccess
      dsimp only
      rw [State.writeLiveBucket_engine]
  · intro g position offset r hidle hlookup canonical work reserved block home member
    refine ⟨_, State.exec_grant_engine hidle hlookup work rfl, ?_⟩
    unfold State.grantEngine
    dsimp only
    rw [State.writeStagedBucket_eq reserved]
    refine ⟨State.settleArea_port _, State.settleArea_groups _, State.settleArea_monitor _, State.settleArea_engine _, ?_⟩
    unfold State.bucket
    rw [State.settleArea_store]
    exact ⟨rfl, ⟨_, rfl, rfl, rfl⟩, Memory.read_write_same canonical, fun i other => Memory.read_write_other other⟩
  · intro hidle hlookup hengine hscrub hsnapshot
    refine ⟨_, State.exec_grant_class3 hidle hlookup hengine, ?_⟩
    rw [State.grantClass3_nothing hscrub hsnapshot]
    exact ⟨State.settleArea_store _, State.settleArea_port _, State.settleArea_engine _⟩
  · intro b hidle hlookup hengine burst turn block
    refine ⟨fun phase => ?_, fun phase canonical => ?_⟩
    · refine ⟨_, State.exec_grant_scrub hidle hlookup hengine burst (.inl phase) turn, ?_⟩
      rw [State.grantScrub_reads phase]
      exact ⟨State.settleArea_port _, State.settleArea_engine _, State.settleArea_groups _, State.settleArea_monitor _,
        State.settleArea_store _⟩
    · have granted := State.exec_grant_scrub hidle hlookup hengine burst (.inr phase) turn
      by_cases free : s.owner s.store.scrubCursor = .free
      · rw [State.grantScrub_writes (s := { s with store := { s.store with lastBackground := some .scrubber } }) phase free]
          at granted
        refine ⟨_, ⟨.scrubWrite, true, (s.setBucket block b.offset Bucket.reset).bucket block b.offset, s.owner block⟩, granted,
          State.settleArea_port _, State.settleArea_engine _, State.settleArea_groups _, State.settleArea_monitor _, ?_⟩
        unfold State.bucket
        rw [State.settleArea_store]
        exact ⟨rfl, rfl, rfl, fun _ => Memory.read_write_same (b := Bucket.reset) canonical, absurd free,
          fun i other => Memory.read_write_other (b := Bucket.reset) other⟩
      · rw [State.grantScrub_passes (s := { s with store := { s.store with lastBackground := some .scrubber } }) phase free]
          at granted
        refine ⟨_, ⟨.scrubWrite, true, s.bucket block b.offset, s.owner block⟩, granted,
          State.settleArea_port _, State.settleArea_engine _, State.settleArea_groups _, State.settleArea_monitor _, ?_⟩
        unfold State.bucket
        rw [State.settleArea_store]
        exact ⟨rfl, rfl, rfl, fun isFree => absurd isFree free, fun _ => rfl, fun _ _ => rfl⟩
  · intro r hidle hlookup hengine record waits turn
    refine ⟨_, State.exec_grant_snapshot hidle hlookup hengine record waits turn, State.settleArea_port _,
      State.settleArea_engine _, ?_⟩
    rw [State.settleArea_store]
    exact ⟨rfl, rfl, rfl, rfl, rfl, rfl⟩
  · intro hidle hlookup hengine scrub snapshot none
    obtain ⟨other, differs, alternates⟩ := State.exists_alternate s.background
    have after := State.exec_grant_both (s := { s with store := { s.store with lastBackground := some other } }) hidle
      hlookup hengine scrub snapshot
    simp only [State.background, alternates] at after
    refine ⟨_, s.background, State.exec_grant_both hidle hlookup hengine scrub snapshot, ?_, other, differs, _, after, ?_⟩
    · rw [State.settleArea_store, State.grantBackground_lastBackground]
    · rw [State.grantBackground_blind scrub snapshot _ _ (some other)]
      simp only [State.settleArea_store, State.settleArea_port, State.settleArea_engine, State.settleArea_groups,
        State.settleArea_monitor, State.settleArea_conduits, State.settleArea_control]
      exact ⟨rfl, rfl, rfl, rfl, rfl, rfl, rfl⟩

end Sys2Proof.Machine
end

section
/-! PROOF. O51: the journal writer, its two writes, its gap and a STOPPED record. -/

namespace Sys2Proof.Machine.State

variable {s : State}

/-! ### Records produced (R159) -/

theorem produce_room (e : Entry) (room : s.area.holding.length < 16) : s.produce e = { s with area := { s.area with
    holding := s.area.holding ++ [{ time := s.now, entry := e }] } } := by
  unfold produce
  exact if_pos room

theorem produce_full_area (e : Entry) (full : 16 ≤ s.area.holding.length) : (s.produce e).area = { s.area with
    gapCount := min 65535 (s.area.gapCount + 1), lastDrop := some s.now
    firstDrop := if s.area.gapCount = 0 then some s.now else s.area.firstDrop } := by
  unfold produce
  rw [if_neg (show ¬s.area.holding.length < Config.holdingCapacity from Nat.not_lt.mpr full)]
  dsimp only
  split <;> rfl

theorem produce_full_control (e : Entry) (full : 16 ≤ s.area.holding.length) : (s.produce e).control =
    if s.area.gapCount = 0 then s.control.setCause Cause.gap.bit else s.control := by
  unfold produce
  rw [if_neg (show ¬s.area.holding.length < Config.holdingCapacity from Nat.not_lt.mpr full)]
  by_cases closed : s.area.gapCount = 0
  · simp only [if_pos closed]
    rfl
  · simp only [if_neg closed]

/-! ### The flush step resumed -/

/-- What the flush step's end changes: CONVERGED, the sweep and the accesses requested. -/
theorem resumeFlush_area : s.resumeFlush.area = { s.area with
    converged := s.resumeFlush.area.converged, sweep := s.resumeFlush.area.sweep
    requested := s.resumeFlush.area.requested } := by
  unfold resumeFlush beginPage sweepTo
  split
  · split <;> rfl
  · rfl

theorem mem_requested_resumeFlush {a : AreaAccess} (h : a ∈ s.area.requested) : a ∈ s.resumeFlush.area.requested := by
  unfold resumeFlush beginPage sweepTo
  split
  · split
    · exact List.mem_append_left _ h
    · exact h
  · exact h

@[simp] theorem resumeFlush_area_position : s.resumeFlush.area.position = s.area.position := by rw [resumeFlush_area]
@[simp] theorem resumeFlush_area_writer : s.resumeFlush.area.writer = s.area.writer := by rw [resumeFlush_area]
@[simp] theorem resumeFlush_area_blocked : s.resumeFlush.area.blocked = s.area.blocked := by rw [resumeFlush_area]
@[simp] theorem resumeFlush_area_newsMark : s.resumeFlush.area.newsMark = s.area.newsMark := by rw [resumeFlush_area]
@[simp] theorem resumeFlush_area_stopTry : s.resumeFlush.area.stopTry = s.area.stopTry := by rw [resumeFlush_area]
@[simp] theorem resumeFlush_area_gapCount : s.resumeFlush.area.gapCount = s.area.gapCount := by rw [resumeFlush_area]
@[simp] theorem resumeFlush_area_firstDrop : s.resumeFlush.area.firstDrop = s.area.firstDrop := by rw [resumeFlush_area]

/-! ### Entry into HEADLESS by STOP (R166) -/

theorem enterHeadless_area_position (reason : HeadlessReason) :
    (s.enterHeadless reason).area.position = s.area.position := by rw [enterHeadless_area]

theorem enterHeadless_area_newsMark (reason : HeadlessReason) :
    (s.enterHeadless reason).area.newsMark = s.area.newsMark := by rw [enterHeadless_area]

/-- The run state is HEADLESS by STOP since now. -/
structure Stopped (s t : State) : Prop where
  runState : t.control.runState = .headless
  reason : t.control.headlessReason = some .stop
  since : t.control.headlessSince = some s.now

theorem Stopped.enterHeadless {t : State} (now : t.now = s.now) : s.Stopped (t.enterHeadless .stop) := by
  refine ⟨rfl, rfl, ?_⟩
  rw [enterHeadless_control]
  dsimp only
  rw [← now]

theorem Stopped.of_control {t v : State} (h : s.Stopped t) (control : v.control = t.control) : s.Stopped v := by
  obtain ⟨runState, reason, since⟩ := h
  exact ⟨by rw [control, runState], by rw [control, reason], by rw [control, since]⟩

/-! ### A record tried again (R166) -/

theorem retryStopped_none (none : s.area.stopTry = none) : s.retryStopped = s := by
  unfold retryStopped
  rw [none]

/-- The STOPPED record is discarded where a record waits or the journal is blocked. -/
theorem retryStopped_discards {t : StopTry} (tried : s.area.stopTry = some t) (idle : s.area.writer = .idle)
    (held : s.area.holding ≠ [] ∨ s.area.blocked = true) : s.retryStopped = s.enterHeadless .stop := by
  unfold retryStopped
  rw [tried]
  dsimp only
  unfold tryStopped
  rw [if_neg (by simp [idle]), if_neg]
  rcases held with waits | blocked
  · simp [waits]
  · simp [blocked]

theorem retryStopped_tries {t : StopTry} (tried : s.area.stopTry = some t) (idle : s.area.writer = .idle)
    (empty : s.area.holding = []) (free : s.area.blocked = false) : s.retryStopped =
      State.request { s with area := { s.area with writer := .kindRead, stopTry := some { t with begun := true } } }
        .journalKindRead := by
  unfold retryStopped
  rw [tried]
  dsimp only
  unfold tryStopped
  rw [if_neg (by simp [idle]), if_pos (by simp [empty, free])]

theorem retryStopped_area_position : s.retryStopped.area.position = s.area.position := by
  unfold retryStopped tryStopped
  split
  · split
    · rfl
    · split
      · rfl
      · exact enterHeadless_area_position _
  · rfl

theorem retryStopped_area_newsMark : s.retryStopped.area.newsMark = s.area.newsMark := by
  unfold retryStopped tryStopped
  split
  · split
    · rfl
    · split
      · rfl
      · exact enterHeadless_area_newsMark _
  · rfl

theorem stopping_none (none : s.area.stopTry = none) : s.stopping = false := by
  unfold stopping
  rw [none]
  rfl

theorem stopping_some {t : StopTry} (tried : s.area.stopTry = some t) : s.stopping = t.begun := by
  unfold stopping
  rw [tried]
  rfl

/-! ### The slot's kind read (R158) -/

theorem exec_journalKindRead_empty (flight : s.inFlight = some .journalKindRead) : exec (.journalKindReadDone 0) s =
    .next (State.request { s.endFlight with area := { s.endFlight.area with writer := .body } } .journalBody).settleArea := by
  change execJournalKindReadDone 0 s = _
  unfold execJournalKindReadDone
  rw [flight]
  exact if_pos rfl

theorem exec_journalKindRead_taken {kind : Byte} (flight : s.inFlight = some .journalKindRead) (taken : kind ≠ 0) :
    exec (.journalKindReadDone kind) s = .next s.endFlight.slotNotEmpty.resumeFlush.settleArea := by
  change execJournalKindReadDone kind s = _
  unfold execJournalKindReadDone
  rw [flight]
  exact if_neg taken

theorem slotNotEmpty_untried (none : s.area.stopTry = none) :
    s.slotNotEmpty = { s with area := { s.area with writer := .idle, blocked := true } } := by
  unfold slotNotEmpty
  rw [if_neg (by simp [stopping_none none])]
  exact retryStopped_none none

theorem slotNotEmpty_tried {t : StopTry} (tried : s.area.stopTry = some t) : s.Stopped s.slotNotEmpty := by
  unfold slotNotEmpty
  rw [stopping_some tried]
  cases t.begun with
  | true => exact Stopped.enterHeadless rfl
  | false =>
    rw [if_neg (by simp), retryStopped_discards (s := { s with area := { s.area with writer := .idle, blocked := true } })
      tried rfl (.inr rfl)]
    exact Stopped.enterHeadless rfl

theorem slotNotEmpty_area_position : s.slotNotEmpty.area.position = s.area.position := by
  unfold slotNotEmpty
  split
  · exact enterHeadless_area_position _
  · exact retryStopped_area_position

/-! ### A record written (R158, R159) -/

theorem exec_journalBodyWritten_body (flight : s.inFlight = some .journalBody) : exec .journalBodyWritten s =
    .next (State.request { s.endFlight with area := { s.endFlight.area with writer := .kind } } .journalKind).settleArea := by
  change execJournalBodyWritten s = _
  unfold execJournalBodyWritten
  rw [flight]

theorem exec_journalKindWritten_stopped (flight : s.inFlight = some .journalKind) (stopping : s.stopping = true) :
    exec .journalKindWritten s = .next (s.endFlight.advanceJournal.enterHeadless .stop).settleArea := by
  change execJournalKindWritten s = _
  unfold execJournalKindWritten
  rw [flight]
  exact if_pos stopping

theorem exec_journalKindWritten_record (flight : s.inFlight = some .journalKind) (stopping : s.stopping = false) :
    exec .journalKindWritten s = .next s.endFlight.recordWritten.retryStopped.resumeFlush.settleArea := by
  change execJournalKindWritten s = _
  unfold execJournalKindWritten
  rw [flight]
  exact if_neg (by simp [stopping])

/-- No gap, or records that still wait: the record leaves the queue, and that is all (R158). -/
theorem recordWritten_closed (closed : s.area.holding.tail ≠ [] ∨ s.area.gapCount = 0) :
    s.recordWritten = { s.advanceJournal with area := { s.advanceJournal.area with holding := s.area.holding.tail } } := by
  unfold recordWritten closeGap
  refine if_neg ?_
  rcases closed with waits | none
  · simp [waits]
  · simp [none]

/-- The last record leaves an open gap: a GAP record closes it (R159). -/
theorem recordWritten_gap (last : s.area.holding.tail = []) (gap : s.area.gapCount ≠ 0) :
    s.recordWritten = { s.advanceJournal with area := { s.advanceJournal.area with
      holding := [{ time := s.now, entry := .gap s.area.gapCount s.area.firstDrop s.area.lastDrop }]
      gapCount := 0, firstDrop := none, lastDrop := none } } := by
  unfold recordWritten closeGap
  rw [last, if_pos (by simp [gap]), produce_room _ (by simp)]
  rfl

theorem recordWritten_area_position : s.recordWritten.area.position =
    if s.area.position + 1 < s.area.journalLength then s.area.position + 1 else 0 := by
  unfold recordWritten closeGap
  split
  · rw [produce_area_position]
    rfl
  · rfl

theorem recordWritten_area_newsMark : s.recordWritten.area.newsMark = true := by
  unfold recordWritten closeGap
  split
  · rw [produce_area_newsMark]
    rfl
  · rfl

theorem recordWritten_area_stopTry : s.recordWritten.area.stopTry = s.area.stopTry := by
  unfold recordWritten closeGap
  split
  · rw [produce_area_stopTry]
    rfl
  · rfl

theorem recordWritten_area_writer : s.recordWritten.area.writer = .idle := by
  unfold recordWritten closeGap
  split
  · rw [produce_area_writer]
    rfl
  · rfl

theorem recordWritten_area_blocked : s.recordWritten.area.blocked = s.area.blocked := by
  unfold recordWritten closeGap
  split
  · rw [produce_area_blocked]
    rfl
  · rfl

end Sys2Proof.Machine.State

namespace Sys2Proof.Machine

open State in
/-- Settles O51: the queue's end, then the three ends of the writer's accesses. -/
theorem journalWritesRecordsInTwoWrites : Obligations.JournalWritesRecordsInTwoWrites := by
  unfold Obligations.JournalWritesRecordsInTwoWrites
  refine ⟨fun s e => ⟨produce_room e, fun full => ?_⟩, fun s kind flight => ?_, fun s flight => ?_, fun s flight => ?_⟩
  · refine ⟨produce_full_area e full, fun open' => ?_, fun closed => ?_⟩
    · rw [produce_full_control e full, if_neg (Nat.ne_of_gt open')]
    · rw [produce_full_control e full, if_pos closed]
      rfl
  · by_cases empty : kind = 0
    · subst empty
      refine ⟨_, exec_journalKindRead_empty flight, ?_⟩
      have asleep : (State.request { s.endFlight with area := { s.endFlight.area with writer := .body } }
          .journalBody).wakeWriter = _ := wakeWriter_of_writer _ (by simp)
      refine ⟨by simp, by simp, by simp, by simp, by simp, by simp, fun _ => ⟨?_, ?_, by simp⟩, by simp, by simp⟩
      · rw [settleArea_writer _ asleep]
        rfl
      · exact wants_settleArea _ (by simp)
    · refine ⟨_, exec_journalKindRead_taken flight empty, ?_⟩
      refine ⟨by simp [slotNotEmpty_area_position], by simp, by simp, by simp, by simp, by simp, fun h => absurd h empty,
        fun _ none => ?_, fun tried _ some => ?_⟩
      · have plain := slotNotEmpty_untried (s := s.endFlight) none
        rw [settleArea_writer _ (wakeWriter_of_blocked _ (by simp [plain]))]
        simp [plain, resumeFlush_holding]
      · have stopped : s.endFlight.Stopped _ := slotNotEmpty_tried some
        obtain ⟨runState, reason, since⟩ := stopped.of_control
          (v := s.endFlight.slotNotEmpty.resumeFlush.settleArea) (by simp)
        exact ⟨runState, reason, since⟩
  · refine ⟨_, exec_journalBodyWritten_body flight, ?_⟩
    have asleep : (State.request { s.endFlight with area := { s.endFlight.area with writer := .kind } }
        .journalKind).wakeWriter = _ := wakeWriter_of_writer _ (by simp)
    refine ⟨?_, wants_settleArea _ (by simp), by simp, by simp, by simp, by simp, by simp, by simp, by simp, by simp,
      by simp⟩
    rw [settleArea_writer _ asleep]
    rfl
  · cases stopping : s.stopping with
    | true =>
      refine ⟨_, exec_journalKindWritten_stopped flight stopping, ?_⟩
      refine ⟨by simp [enterHeadless_area_newsMark], (settleArea_area_position _).trans (enterHeadless_area_position _), by simp, by simp,
        by simp, by simp, by simp, fun r rest none => ?_, fun r none => ?_, fun r some => ?_, fun r some => ?_,
        fun r some => ?_⟩
      · simp [stopping_none none] at stopping
      · simp [stopping_none none] at stopping
      · obtain ⟨runState, reason, since⟩ := (Stopped.enterHeadless (s := s) (t := s.endFlight.advanceJournal) rfl).of_control
          (v := (s.endFlight.advanceJournal.enterHeadless .stop).settleArea) (by simp)
        exact ⟨runState, reason, since⟩
      · simp [stopping_some some] at stopping
      · simp [stopping_some some] at stopping
    | false =>
      refine ⟨_, exec_journalKindWritten_record flight stopping, ?_⟩
      refine ⟨by simp [retryStopped_area_newsMark, recordWritten_area_newsMark],
        (settleArea_area_position _).trans (resumeFlush_area_position.trans
          (retryStopped_area_position.trans recordWritten_area_position)), by simp, by simp, by simp, by simp, by simp,
        fun r rest none holding closed => ?_, fun r none holding gap => ?_, fun r some => ?_, fun r some held => ?_,
        fun r some free empty closed => ?_⟩
      · have written := recordWritten_closed (s := s.endFlight) (closed.imp (by simp [holding]) id)
        rw [retryStopped_none ((recordWritten_area_stopTry (s := s.endFlight)).trans none)]
        simp [written, resumeFlush_holding, holding]
      · have written := recordWritten_gap (s := s.endFlight) (by simp [holding]) gap
        rw [retryStopped_none ((recordWritten_area_stopTry (s := s.endFlight)).trans none)]
        have now : s.endFlight.now = s.now := rfl
        simp [written, now, resumeFlush_holding, resumeFlush_lastDrop]
      · simp [stopping_some some] at stopping
      · have waits : s.endFlight.recordWritten.area.holding ≠ [] ∨ s.endFlight.recordWritten.area.blocked = true := by
          by_cases closed : s.area.holding.tail ≠ [] ∨ s.area.gapCount = 0
          · have written := recordWritten_closed (s := s.endFlight) closed
            rw [written]
            rcases held with blocked | waits | gap
            · exact .inr blocked
            · exact .inl waits
            · exact .inl (closed.resolve_right gap)
          · rw [not_or, not_not] at closed
            rw [recordWritten_gap (s := s.endFlight) closed.1 closed.2]
            exact .inl (List.cons_ne_nil _ _)
        rw [retryStopped_discards ((recordWritten_area_stopTry (s := s.endFlight)).trans some) recordWritten_area_writer waits]
        obtain ⟨runState, reason, since⟩ := (Stopped.enterHeadless (s := s) (t := s.endFlight.recordWritten) (by simp)).of_control
          (v := (s.endFlight.recordWritten.enterHeadless .stop).resumeFlush.settleArea) (by simp)
        exact ⟨runState, reason, since⟩
      · have written := recordWritten_closed (s := s.endFlight) (.inr closed)
        rw [retryStopped_tries ((recordWritten_area_stopTry (s := s.endFlight)).trans some) recordWritten_area_writer (by rw [written]; exact empty)
          (recordWritten_area_blocked.trans free)]
        refine ⟨by simp [written], ?_, by simp, wants_settleArea _ (mem_requested_resumeFlush (by simp))⟩
        rw [settleArea_writer _ (wakeWriter_of_stopTry _ (by simp))]
        simp

end Sys2Proof.Machine
end

section
/-! PROOF. O54: the end of the page, of a sweep's and of START_ADOPT's. -/

namespace Sys2Proof.Machine.State

variable {s : State}

/-! ### Causes stay set (R161) -/

theorem setCause_kept {bits : BitVec 32} (c : Cause) (set : s.control.cause &&& bits = bits) :
    (s.setCause c).control.cause &&& bits = bits := by
  change (s.control.cause ||| c.bit) &&& bits = bits
  ext i hi
  have bit := congrArg (·[i]) set
  simp only [BitVec.getElem_and, BitVec.getElem_or] at bit ⊢
  grind

theorem setCause_set (c : Cause) : (s.setCause c).control.cause &&& c.bit = c.bit := by
  change (s.control.cause ||| c.bit) &&& c.bit = c.bit
  ext i hi
  simp only [BitVec.getElem_and, BitVec.getElem_or]
  grind

theorem produce_kept {bits : BitVec 32} (e : Entry) (set : s.control.cause &&& bits = bits) :
    (s.produce e).control.cause &&& bits = bits := by
  unfold produce
  split
  · exact set
  · dsimp only
    split
    · exact setCause_kept _ set
    · exact set

/-- What a record changes of the Area Interface: the queue and the gap (R159). -/
theorem produce_area (e : Entry) : (s.produce e).area = { s.area with
    holding := (s.produce e).area.holding, gapCount := (s.produce e).area.gapCount
    firstDrop := (s.produce e).area.firstDrop, lastDrop := (s.produce e).area.lastDrop } := by
  unfold produce
  split
  · rfl
  · dsimp only
    split <;> rfl

/-! ### The parts of a sweep end (R147, R148, R154, R161) -/

theorem enterRunning_control : s.enterRunning.control = { s.control with
    runState := if s.control.runState = .starting then .running else s.control.runState } := by
  unfold enterRunning
  split
  · dsimp only
    split <;> rfl
  · rfl

theorem enterRunning_area : s.enterRunning.area = { s.area with
    sweepTimer := if s.control.runState = .starting ∧ s.control.mode = .continuous then
      some (s.now + BitVec.ofNat 32 (100 * s.control.sweepPer)) else s.area.sweepTimer } := by
  unfold enterRunning
  split
  next starting =>
    dsimp only
    split
    next continuous =>
      rw [if_pos ⟨starting, continuous⟩]
      rfl
    next other => rw [if_neg fun h => other h.2]
  next other => rw [if_neg fun h => other h.1]

theorem decideNews_area : s.decideNews.area = { s.area with newsMark := false } := by
  unfold decideNews
  dsimp only
  split <;> rfl

theorem decideNews_news (marked : s.area.newsMark = true) : s.decideNews.control.cause &&& 1 = 1 := by
  unfold decideNews
  dsimp only
  rw [if_pos marked]
  exact setCause_set .news

theorem reportSweep_area (r : SweepRecord) : (s.reportSweep r).area = { s.area with
    holding := (s.reportSweep r).area.holding, gapCount := (s.reportSweep r).area.gapCount
    firstDrop := (s.reportSweep r).area.firstDrop, lastDrop := (s.reportSweep r).area.lastDrop } := by
  unfold reportSweep
  split
  · exact produce_area _
  · rfl

theorem reportSweep_kept {bits : BitVec 32} (r : SweepRecord) (set : s.control.cause &&& bits = bits) :
    (s.reportSweep r).control.cause &&& bits = bits := by
  unfold reportSweep
  split
  · exact setCause_kept _ (produce_kept _ set)
  · exact set

/-- The record of a sweep's end (R154). -/
def sweepDone (s : State) (r : SweepRecord) : Entry :=
  .sweepDone r.number r.start (s.now - r.start) r.handedOver r.rejected r.torn r.deferred r.orders s.area.converged

theorem reportSweep_reports {r : SweepRecord} (reporting : r.reporting = true) :
    (s.reportSweep r).control.cause &&& 4 = 4 ∧ (s.reportSweep r).Reports s.now (s.sweepDone r) := by
  unfold reportSweep
  rw [if_pos reporting]
  exact ⟨setCause_set .sweepDone, (produce_reports s (s.sweepDone r)).of_eq rfl rfl⟩

/-- The sweep that starts at once. -/
theorem startDueSweep_due (due : s.area.dueMark = true) : s.startDueSweep.area = { s.area with
    dueMark := false, sweepNumber := s.area.sweepNumber + 1
    sweep := some (SweepRecord.begin (s.area.sweepNumber + 1) s.now s.control.mode)
    requested := s.area.requested ++ [.rowRead (.uplink 0)] } := by
  unfold startDueSweep
  rw [if_pos due]
  rfl

theorem startDueSweep_none (none : s.area.dueMark = false) : s.startDueSweep = s := by
  unfold startDueSweep
  exact if_neg (by simp [none])

/-- A sweep end before a sweep that is due (R154). -/
def sweepEnded (s : State) (r : SweepRecord) : State :=
  (State.decideNews (State.enterRunning { s with area := { s.area with planMark := true, sweep := none } })).reportSweep r

theorem endSweep_eq (r : SweepRecord) : s.endSweep r = (s.sweepEnded r).startDueSweep := rfl

theorem sweepEnded_area (r : SweepRecord) : (s.sweepEnded r).area = { s.area with
    planMark := true, sweep := none, newsMark := false
    sweepTimer := if s.control.runState = .starting ∧ s.control.mode = .continuous then
      some (s.now + BitVec.ofNat 32 (100 * s.control.sweepPer)) else s.area.sweepTimer
    holding := (s.sweepEnded r).area.holding, gapCount := (s.sweepEnded r).area.gapCount
    firstDrop := (s.sweepEnded r).area.firstDrop, lastDrop := (s.sweepEnded r).area.lastDrop } := by
  unfold sweepEnded
  rw [reportSweep_area, decideNews_area, enterRunning_area]

theorem sweepEnded_settings (r : SweepRecord) : (s.sweepEnded r).control.settings = { s.control.settings with
    runState := if s.control.runState = .starting then .running else s.control.runState } := by
  unfold sweepEnded
  rw [reportSweep_settings, decideNews_settings, enterRunning_control]
  rfl

theorem sweepEnded_now (r : SweepRecord) : (s.sweepEnded r).now = s.now :=
  (congrArg RunControl.now (sweepEnded_settings r) :)

theorem sweepEnded_mode (r : SweepRecord) : (s.sweepEnded r).control.mode = s.control.mode :=
  (congrArg RunControl.mode (sweepEnded_settings r) :)

theorem sweepEnded_runState (r : SweepRecord) : (s.sweepEnded r).control.runState =
    if s.control.runState = .starting then .running else s.control.runState :=
  (congrArg RunControl.runState (sweepEnded_settings r) :)

theorem sweepEnded_news (r : SweepRecord) (marked : s.area.newsMark = true) :
    (s.sweepEnded r).control.cause &&& 1 = 1 := by
  refine reportSweep_kept r (decideNews_news ?_)
  rw [enterRunning_area]
  exact marked

theorem sweepEnded_reports {r : SweepRecord} (reporting : r.reporting = true) :
    (s.sweepEnded r).control.cause &&& 4 = 4 ∧ (s.sweepEnded r).Reports s.now (s.sweepDone r) := by
  have v := reportSweep_reports (s := State.decideNews (State.enterRunning { s with
    area := { s.area with planMark := true, sweep := none } })) reporting
  have now : (State.decideNews (State.enterRunning { s with
    area := { s.area with planMark := true, sweep := none } })).now = s.now := by
      unfold State.now
      rw [decideNews_now, enterRunning_control]
  unfold sweepDone at v ⊢
  rw [now, decideNews_area, enterRunning_area] at v
  exact v

/-! ### START_ADOPT's page ends (R160) -/

/-- RESUMED with the headless reason, the gap count and the headless duration in ms. -/
def resumed (s : State) (gapCount : Nat) : Record where
  time := s.now
  entry := .resumed s.control.headlessReason gapCount (span (s.control.headlessSince.getD s.now) s.now / 1000)

theorem produceResumed_room (room : s.area.holding.length < 16) : s.produceResumed = { s with area := { s.area with
    holding := s.resumed s.area.gapCount :: s.area.holding } } := by
  unfold produceResumed
  rw [if_pos (show s.area.holding.length < Config.holdingCapacity from room)]
  rfl

/-- The record at the tail is dropped into the gap (R159, R160). -/
def dropTail (s : State) : State :=
  let t : State := { s with area := { s.area with
    holding := s.area.holding.dropLast
    gapCount := min 65535 (s.area.gapCount + 1)
    firstDrop := if s.area.gapCount = 0 then some s.now else s.area.firstDrop
    lastDrop := some s.now } }
  if s.area.gapCount = 0 then t.setCause .gap else t

theorem dropTail_area : s.dropTail.area = { s.area with
    holding := s.area.holding.dropLast, gapCount := min 65535 (s.area.gapCount + 1)
    firstDrop := if s.area.gapCount = 0 then some s.now else s.area.firstDrop, lastDrop := some s.now } := by
  unfold dropTail
  dsimp only
  split <;> rfl

theorem dropTail_control : s.dropTail.control =
    if s.area.gapCount = 0 then s.control.setCause Cause.gap.bit else s.control := by
  unfold dropTail
  dsimp only
  by_cases closed : s.area.gapCount = 0
  · simp only [if_pos closed]
    rfl
  · simp only [if_neg closed]

theorem produceResumed_full (full : ¬s.area.holding.length < 16) : s.produceResumed = { s.dropTail with
    area := { s.dropTail.area with
      holding := s.resumed (min 65535 (s.area.gapCount + 1)) :: s.dropTail.area.holding } } := by
  have gap : s.dropTail.area.gapCount = min 65535 (s.area.gapCount + 1) := by rw [dropTail_area]
  unfold produceResumed
  rw [if_neg (show ¬s.area.holding.length < Config.holdingCapacity from full), ← gap]
  rfl

theorem finishAdopt_eq : s.finishAdopt = { State.produceResumed { s with area := { s.area with adoptPage := false } } with
    control := { (State.produceResumed { s with area := { s.area with adoptPage := false } }).control with
      runState := .starting } } := rfl

theorem finishAdopt_area (held : s.area.holding.length ≤ 16) : s.finishAdopt.area = { s.area with
    adoptPage := false
    holding := s.resumed (if s.area.holding.length = 16 then min 65535 (s.area.gapCount + 1) else s.area.gapCount)
      :: s.area.holding.take 15
    gapCount := if s.area.holding.length = 16 then min 65535 (s.area.gapCount + 1) else s.area.gapCount
    lastDrop := if s.area.holding.length = 16 then some s.now else s.area.lastDrop
    firstDrop := if s.area.holding.length = 16 ∧ s.area.gapCount = 0 then some s.now else s.area.firstDrop } := by
  rw [finishAdopt_eq]
  by_cases full : s.area.holding.length = 16
  · have dropped : s.area.holding.dropLast = s.area.holding.take 15 := by rw [List.dropLast_eq_take, full]
    rw [produceResumed_full (s := { s with area := { s.area with adoptPage := false } }) (by simp [full])]
    dsimp only
    rw [dropTail_area]
    simp only [full, dropped, if_true, true_and]
    rfl
  · have taken : s.area.holding.take 15 = s.area.holding := List.take_of_length_le (by omega)
    rw [produceResumed_room (s := { s with area := { s.area with adoptPage := false } }) (show _ < 16 by dsimp only; omega)]
    simp only [full, taken, if_false, false_and]
    rfl

theorem finishAdopt_control : s.finishAdopt.control =
    { (if 16 ≤ s.area.holding.length ∧ s.area.gapCount = 0 then s.control.setCause Cause.gap.bit else s.control) with
      runState := .starting } := by
  rw [finishAdopt_eq]
  by_cases room : s.area.holding.length < 16
  · rw [produceResumed_room (s := { s with area := { s.area with adoptPage := false } }) room,
      if_neg fun h => absurd h.1 (Nat.not_le.mpr room)]
  · rw [produceResumed_full (s := { s with area := { s.area with adoptPage := false } }) room]
    dsimp only
    rw [dropTail_control]
    simp only [Nat.not_lt.mp room, true_and]

/-! ### The command -/

theorem pageWanted_of (wanted : s.area.adoptPage = true ∨ s.area.sweep ≠ none) : s.pageWanted = true := by
  unfold pageWanted
  rcases wanted with adopt | sweep
  · simp [adopt]
  · simp [Option.isSome_iff_ne_none, sweep]

theorem exec_pageWrite_superseded {part : Nat} (flight : s.inFlight = some (.pageWrite part))
    (adopt : s.area.adoptPage = false) (none : s.area.sweep = none) :
    exec .statusPageWriteDone s = .next s.endFlight.settleArea := by
  change execStatusPageWriteDone s = _
  unfold execStatusPageWriteDone
  rw [flight]
  exact if_pos (by simp [pageWanted, adopt, none])

theorem exec_pageWrite_next {part : Nat} (flight : s.inFlight = some (.pageWrite part))
    (wanted : s.area.adoptPage = true ∨ s.area.sweep ≠ none) (more : part < 34 + s.area.groupCount) :
    exec .statusPageWriteDone s = .next (s.endFlight.nextPage (part + 1)).settleArea := by
  change execStatusPageWriteDone s = _
  unfold execStatusPageWriteDone
  rw [flight]
  dsimp only
  rw [if_neg, if_pos (show part < lastPagePart s.area.groupCount from more)]
  simp [pageWanted_of wanted]

theorem exec_pageWrite_last {part : Nat} (flight : s.inFlight = some (.pageWrite part))
    (wanted : s.area.adoptPage = true ∨ s.area.sweep ≠ none) (last : 34 + s.area.groupCount ≤ part) :
    exec .statusPageWriteDone s = .next s.endFlight.endPage.settleArea := by
  change execStatusPageWriteDone s = _
  unfold execStatusPageWriteDone
  rw [flight]
  dsimp only
  rw [if_neg, if_neg (show ¬part < lastPagePart s.area.groupCount from Nat.not_lt.mpr last)]
  simp [pageWanted_of wanted]

theorem endPage_sweep {r : SweepRecord} (adopt : s.area.adoptPage = false) (sweep : s.area.sweep = some r) :
    s.endPage = s.endSweep r := by
  unfold endPage
  rw [if_neg (by simp [adopt]), sweep]

theorem endPage_adopt (adopt : s.area.adoptPage = true) : s.endPage = s.finishAdopt := by
  unfold endPage
  exact if_pos adopt

/-- A sweep's end, in the words of the statement (R146 to R148, R154, R161). -/
theorem sweepPageEnds (r : SweepRecord) :
    let t := (s.endFlight.sweepEnded r).startDueSweep.settleArea
    t.area.planMark = true ∧ t.area.newsMark = false ∧ t.area.dueMark = false
      ∧ t.control.runState = (if s.control.runState = .starting then .running else s.control.runState)
      ∧ (s.control.runState = .starting → s.control.mode = .continuous →
          t.area.sweepTimer = some (s.now + BitVec.ofNat 32 (100 * s.control.sweepPer)))
      ∧ (s.area.newsMark = true → t.control.cause &&& 1 = 1)
      ∧ (r.reporting = true → t.control.cause &&& 4 = 4 ∧ t.Reports s.now (s.sweepDone r))
      ∧ (s.area.dueMark = false → t.area.sweep = none ∧ t.area.sweepNumber = s.area.sweepNumber)
      ∧ (s.area.dueMark = true → t.area.sweepNumber = s.area.sweepNumber + 1
          ∧ t.area.sweep = some (SweepRecord.begin (s.area.sweepNumber + 1) s.now s.control.mode)) := by
  intro t
  have area := sweepEnded_area (s := s.endFlight) r
  have control : t.control = (s.endFlight.sweepEnded r).control := by simp [t]
  have due : (s.endFlight.sweepEnded r).area.dueMark = s.area.dueMark := by rw [area]; rfl
  have reports (reporting : r.reporting = true) : t.Reports s.now (s.sweepDone r) := by
    have reported : (s.endFlight.sweepEnded r).Reports s.now (s.sweepDone r) :=
      (sweepEnded_reports (s := s.endFlight) reporting).2
    refine State.Reports.settleArea (reported.of_eq ?_ ?_)
    · unfold startDueSweep
      split <;> rfl
    · unfold startDueSweep
      split <;> rfl
  have counts (reporting : r.reporting = true) : t.control.cause &&& 4 = 4 := by
    rw [control]
    exact (sweepEnded_reports (s := s.endFlight) reporting).1
  have news (marked : s.area.newsMark = true) : t.control.cause &&& 1 = 1 := by
    rw [control]
    exact sweepEnded_news (s := s.endFlight) r marked
  have runState : t.control.runState = _ := (congrArg RunControl.runState control).trans (sweepEnded_runState r)
  have ended : t.area = { (s.endFlight.sweepEnded r).startDueSweep.area with
      writer := t.area.writer, flight := t.area.flight, waiting := t.area.waiting, requested := [] } := settleArea_area _
  cases mark : s.area.dueMark with
  | true =>
    rw [startDueSweep_due (due.trans mark), area, sweepEnded_now, sweepEnded_mode] at ended
    rw [ended]
    exact ⟨rfl, rfl, rfl, runState, fun starting continuous => if_pos ⟨starting, continuous⟩, news,
      fun reporting => ⟨counts reporting, reports reporting⟩, by simp, fun _ => ⟨rfl, rfl⟩⟩
  | false =>
    rw [startDueSweep_none (due.trans mark), area] at ended
    rw [ended]
    exact ⟨rfl, rfl, mark, runState, fun starting continuous => if_pos ⟨starting, continuous⟩, news,
      fun reporting => ⟨counts reporting, reports reporting⟩, fun _ => ⟨rfl, rfl⟩, by simp⟩

/-- The end of START_ADOPT's page, in the words of the statement (R158 to R161). -/
theorem adoptPageEnds (held : s.area.holding.length ≤ 16) :
    let t := s.endFlight.finishAdopt.settleArea
    let full := s.area.holding.length = 16
    let count := if full then min 65535 (s.area.gapCount + 1) else s.area.gapCount
    t.control.settings = { s.control.settings with runState := .starting } ∧ t.area.adoptPage = false
      ∧ t.area.holding = s.resumed count :: s.area.holding.take 15
      ∧ t.area.gapCount = count
      ∧ t.area.lastDrop = (if full then some s.now else s.area.lastDrop)
      ∧ t.area.firstDrop = (if full ∧ s.area.gapCount = 0 then some s.now else s.area.firstDrop)
      ∧ t.control.cause = (if full ∧ s.area.gapCount = 0 then s.control.cause ||| 8 else s.control.cause)
      ∧ (s.area.blocked = false → s.area.writer = .idle → s.area.stopTry = none →
          t.area.writer = .kindRead ∧ t.Wants .journalKindRead) := by
  intro t full count
  have area := finishAdopt_area (s := s.endFlight) held
  have control : t.control = { (if 16 ≤ s.area.holding.length ∧ s.area.gapCount = 0 then
      s.control.setCause Cause.gap.bit else s.control) with runState := .starting } :=
    (settleArea_control _).trans finishAdopt_control
  have isFull : 16 ≤ s.area.holding.length ↔ full := ⟨fun h => le_antisymm held h, fun h => h.ge⟩
  refine ⟨?_, ?_, ?_, ?_, ?_, ?_, ?_, fun free idle untried => ?_⟩
  · rw [control]
    split <;> rfl
  · rw [settleArea_area_adoptPage, area]
  · rw [settleArea_area_holding, area]
    rfl
  · rw [settleArea_area_gapCount, area]
    rfl
  · rw [settleArea_area_lastDrop, area]
    rfl
  · rw [settleArea_area_firstDrop, area]
    rfl
  · rw [control]
    by_cases drops : full ∧ s.area.gapCount = 0
    · dsimp only
      rw [if_pos drops, if_pos (show 16 ≤ s.area.holding.length ∧ _ from ⟨drops.1.ge, drops.2⟩)]
      rfl
    · dsimp only
      rw [if_neg drops, if_neg fun h => drops ⟨isFull.mp h.1, h.2⟩]
  · refine settleArea_takes_record _ rfl ?_ ?_ ?_ ?_
    · rw [area]
      exact free
    · rw [area]
      exact idle
    · rw [area]
      exact untried
    · rw [area]
      exact List.cons_ne_nil _ _

end Sys2Proof.Machine.State

namespace Sys2Proof.Machine

open State in
/-- Settles O54: a write that is superseded, one that another follows, a sweep's last and START_ADOPT's last. -/
theorem pageEndEndsTheSweep : Obligations.PageEndEndsTheSweep := by
  unfold Obligations.PageEndEndsTheSweep
  intro s part flight
  by_cases wanted : s.area.adoptPage = true ∨ s.area.sweep ≠ none
  · by_cases more : part < 34 + s.area.groupCount
    · refine ⟨_, exec_pageWrite_next flight wanted more, by simp, by simp, by simp, by simp, by simp, by simp,
        fun _ _ => ⟨wants_settleArea _ (by simp [nextPage]), by simp, by simp [nextPage], by simp [nextPage]⟩,
        fun adopt none => ?_, fun r last => ?_, fun last => ?_⟩
      · simp [adopt, none] at wanted
      · exact absurd more (Nat.not_lt.mpr last)
      · exact absurd more (Nat.not_lt.mpr last)
    · refine ⟨_, exec_pageWrite_last flight wanted (Nat.not_lt.mp more), by simp, by simp, by simp, by simp, by simp,
        by simp, fun h => absurd h more, fun adopt none => ?_, fun r _ adopt sweep => ?_, fun _ adopt held => ?_⟩
      · simp [adopt, none] at wanted
      · rw [endPage_sweep (s := s.endFlight) adopt sweep, endSweep_eq]
        exact sweepPageEnds r
      · rw [endPage_adopt (s := s.endFlight) adopt]
        exact adoptPageEnds held
  · rw [not_or, Bool.not_eq_true, not_not] at wanted
    obtain ⟨adopt, none⟩ := wanted
    refine ⟨_, exec_pageWrite_superseded flight adopt none, by simp, by simp, by simp, by simp, by simp, by simp,
      fun _ sweep => ?_, fun _ _ inactive => ?_, fun r _ _ some => ?_, fun _ page => ?_⟩
    · simp [adopt, none] at sweep
    · have asleep : s.endFlight.wakeWriter = _ := wakeWriter_of_inactive _ inactive
      refine ⟨by simp, ?_, fun requested waiting => ?_, fun a rest requested waiting => ?_⟩
      · rw [settleArea_area, settleArea_writer _ asleep]
        rfl
      · rw [settleArea_nothing _ asleep requested waiting]
        exact ⟨rfl, waiting⟩
      · rw [settleArea_grants _ asleep requested rfl waiting]
        exact ⟨rfl, rfl⟩
    · simp [none] at some
    · simp [adopt] at page

end Sys2Proof.Machine
end

section
/-! PROOF. The ones-complement check as a remainder, and the half-words and fields of a structure (R170, R171). -/

namespace Sys2Proof.Machine

/-! ### The ones-complement sum (R171) -/

/-- The ones-complement sum of half-words whose sum is `total`. -/
def onesOf (total : Nat) : Nat := if total = 0 then 0 else (total - 1) % 65535 + 1

theorem onesAdd_onesOf (total : Nat) {halfWord : Nat} (small : halfWord < 65536) :
    onesAdd (onesOf total) halfWord = onesOf (total + halfWord) := by
  unfold onesAdd onesOf
  split <;> split <;> split <;> omega

theorem onesSum_eq {halfWords : List Nat} (small : ∀ w ∈ halfWords, w < 65536) : onesSum halfWords = onesOf halfWords.sum := by
  have folded (total : Nat) : halfWords.foldl onesAdd (onesOf total) = onesOf (total + halfWords.sum) := by
    induction halfWords generalizing total with
    | nil => rfl
    | cons w ws ih =>
      rw [List.foldl_cons, onesAdd_onesOf total (small w (by simp)), ih (fun v hv => small v (by simp [hv])), List.sum_cons,
        Nat.add_assoc]
  have start := folded 0
  rwa [Nat.zero_add] at start

theorem onesOf_eq_full (total : Nat) : onesOf total = 65535 ↔ 0 < total ∧ total % 65535 = 0 := by
  unfold onesOf
  split <;> omega

theorem onesOf_le (total : Nat) : onesOf total ≤ 65535 := by
  unfold onesOf
  split <;> omega

/-- What closes a sum. -/
theorem onesOf_closed (total : Nat) : onesOf (total + (65535 - onesOf total)) = 65535 := by
  rw [onesOf_eq_full]
  unfold onesOf
  split <;> omega

/-! ### Half-words (R171) -/

theorem byteAt_cons_succ (b : Byte) (bytes : List Byte) (i : Nat) : byteAt (b :: bytes) (i + 1) = byteAt bytes i := rfl

theorem byteAt_zero (b : Byte) (bytes : List Byte) : byteAt (b :: bytes) 0 = b.toNat := rfl

theorem areaHalfWords_eq (bytes : List Byte) : areaHalfWords bytes =
    (List.range (bytes.length / 2)).map fun i => byteAt bytes (2 * i) + 256 * byteAt bytes (2 * i + 1) := by
  induction bytes using areaHalfWords.induct with
  | case1 a b t ih =>
    have half : (a :: b :: t).length / 2 = t.length / 2 + 1 := by simp only [List.length_cons]; omega
    rw [areaHalfWords, half, List.range_succ_eq_map, List.map_cons, List.map_map, ih]
    rfl
  | case2 bytes short =>
    match bytes, short with
    | [], _ => rfl
    | [_], _ => simp [areaHalfWords]
    | a :: b :: t, short => exact absurd rfl (short a b t)

theorem linkHalfWords_eq (bytes : List Byte) : linkHalfWords bytes =
    (List.range (bytes.length / 2)).map fun i => 256 * byteAt bytes (2 * i) + byteAt bytes (2 * i + 1) := by
  induction bytes using linkHalfWords.induct with
  | case1 a b t ih =>
    have half : (a :: b :: t).length / 2 = t.length / 2 + 1 := by simp only [List.length_cons]; omega
    rw [linkHalfWords, half, List.range_succ_eq_map, List.map_cons, List.map_map, ih]
    rfl
  | case2 bytes short =>
    match bytes, short with
    | [], _ => rfl
    | [_], _ => simp [linkHalfWords]
    | a :: b :: t, short => exact absurd rfl (short a b t)

theorem areaHalfWords_lt (bytes : List Byte) : ∀ w ∈ areaHalfWords bytes, w < 65536 := by
  intro w member
  rw [areaHalfWords_eq, List.mem_map] at member
  obtain ⟨i, _, rfl⟩ := member
  have low := byteAt_lt bytes (2 * i)
  have high := byteAt_lt bytes (2 * i + 1)
  omega

theorem linkHalfWords_lt (bytes : List Byte) : ∀ w ∈ linkHalfWords bytes, w < 65536 := by
  intro w member
  rw [linkHalfWords_eq, List.mem_map] at member
  obtain ⟨i, _, rfl⟩ := member
  have low := byteAt_lt bytes (2 * i)
  have high := byteAt_lt bytes (2 * i + 1)
  omega

theorem areaCheck_iff (bytes : List Byte) : areaCheck bytes = true ↔
    0 < (areaHalfWords bytes).sum ∧ (areaHalfWords bytes).sum % 65535 = 0 := by
  unfold areaCheck
  rw [beq_iff_eq, onesSum_eq (areaHalfWords_lt bytes)]
  exact onesOf_eq_full _

theorem linkCheck_iff (bytes : List Byte) : linkCheck bytes = true ↔
    0 < (linkHalfWords bytes).sum ∧ (linkHalfWords bytes).sum % 65535 = 0 := by
  unfold linkCheck
  rw [beq_iff_eq, onesSum_eq (linkHalfWords_lt bytes)]
  exact onesOf_eq_full _

/-! ### Fields of two half-words and of four (R170) -/

theorem areaField_four (bytes : List Byte) (i : Nat) : areaField bytes i 4 =
    (byteAt bytes i + 256 * byteAt bytes (i + 1)) + 2 ^ 16 * (byteAt bytes (i + 2) + 256 * byteAt bytes (i + 3)) := by
  rw [areaField_succ, areaField_succ, areaField_two]
  simp only [Nat.add_assoc, Nat.reduceAdd]
  omega

theorem areaField_eight (bytes : List Byte) (i : Nat) : areaField bytes i 8 =
    (byteAt bytes i + 256 * byteAt bytes (i + 1)) + 2 ^ 16 * (byteAt bytes (i + 2) + 256 * byteAt bytes (i + 3))
      + 2 ^ 32 * (byteAt bytes (i + 4) + 256 * byteAt bytes (i + 5))
      + 2 ^ 48 * (byteAt bytes (i + 6) + 256 * byteAt bytes (i + 7)) := by
  rw [areaField_succ, areaField_succ, areaField_succ, areaField_succ, areaField_four]
  simp only [Nat.add_assoc, Nat.reduceAdd]
  omega

/-! ### The check of an order slot (R171) -/

/-- The bytes an order's check covers, the state taken as POSTED. -/
theorem byteAt_posted {bytes : List Byte} (i : Nat) (covered : i < 32) :
    byteAt ((bytes.take 32).set 1 1) i = if i = 1 then (if 1 < bytes.length then 1 else 0) else byteAt bytes i := by
  unfold byteAt
  rw [List.getD_eq_getElem?_getD, List.getElem?_set, List.getD_eq_getElem?_getD, List.getElem?_take_of_lt covered]
  by_cases state : 1 = i
  · subst state
    by_cases long : 1 < bytes.length <;> simp [long]
  · rw [if_neg state, if_neg (Ne.symm state)]

theorem slotCheck_iff {bytes : List Byte} (size : bytes.length = 64) : slotCheck bytes = true ↔
    (byteAt bytes 0 + 256 * 1 + ((List.range 15).map fun i =>
      byteAt bytes (2 * i + 2) + 256 * byteAt bytes (2 * i + 2 + 1)).sum) % 65535 = 0 := by
  have words : areaHalfWords ((bytes.take 32).set 1 1) = (byteAt bytes 0 + 256 * 1) ::
      (List.range 15).map fun i => byteAt bytes (2 * i + 2) + 256 * byteAt bytes (2 * i + 2 + 1) := by
    rw [areaHalfWords_eq, List.length_set, List.length_take, size, show min 32 64 / 2 = 15 + 1 from rfl,
      List.range_succ_eq_map, List.map_cons, List.map_map]
    congr 1
    · rw [byteAt_posted _ (by omega), byteAt_posted _ (by omega)]
      simp [size]
    · refine List.map_congr_left fun i member => ?_
      have below := List.mem_range.mp member
      simp only [Function.comp_apply]
      rw [byteAt_posted _ (by omega), byteAt_posted _ (by omega), if_neg (by omega), if_neg (by omega)]
      rfl
  unfold slotCheck
  rw [areaCheck_iff, words, List.sum_cons]
  exact and_iff_right (by omega)

end Sys2Proof.Machine
end

section
/-! PROOF. O60: link messages, closed by their frame check and read from their bytes. -/

namespace Sys2Proof.Machine

/-! ### The frame check (R171) -/

theorem linkHalfWords_append {a : List Byte} (b : List Byte) (even : a.length % 2 = 0) :
    linkHalfWords (a ++ b) = linkHalfWords a ++ linkHalfWords b := by
  induction a using linkHalfWords.induct with
  | case1 x y t ih =>
    have rest : t.length % 2 = 0 := by
      simp only [List.length_cons] at even
      omega
    rw [List.cons_append, List.cons_append, linkHalfWords, linkHalfWords, ih rest, List.cons_append]
  | case2 a short =>
    match a, short, even with
    | [], _, _ => rfl
    | [_], _, odd => exact absurd odd (by simp)
    | x :: y :: t, short, _ => exact absurd rfl (short x y t)

theorem leBytes_two (v : Nat) : leBytes 2 v = [BitVec.ofNat 8 v, BitVec.ofNat 8 (v / 256)] := by
  have low (n : Nat) : BitVec.ofNat 8 (n % 256) = BitVec.ofNat 8 n := BitVec.eq_of_toNat_eq (by simp)
  simp only [leBytes, low]

theorem beBytes_two (v : Nat) : beBytes 2 v = [BitVec.ofNat 8 (v / 256), BitVec.ofNat 8 v] := by
  rw [beBytes, leBytes_two]
  rfl

/-- What closes a message: FFFFh less the sum of its half-words. -/
def checkOf (bytes : List Byte) : Nat := 65535 - onesOf (linkHalfWords bytes).sum

theorem closeMessage_eq {bytes : List Byte} (even : bytes.length % 2 = 0) :
    closeMessage bytes = bytes ++ [BitVec.ofNat 8 (checkOf bytes / 256), BitVec.ofNat 8 (checkOf bytes)] := by
  unfold closeMessage checkOf
  rw [onesSum_eq (linkHalfWords_lt _), linkHalfWords_append _ even, List.sum_append, beBytes_two]
  rfl

theorem linkCheck_closeMessage {bytes : List Byte} (even : bytes.length % 2 = 0) : linkCheck (closeMessage bytes) = true := by
  have small : checkOf bytes < 65536 := by unfold checkOf; omega
  have words : (linkHalfWords (closeMessage bytes)).sum = (linkHalfWords bytes).sum + checkOf bytes := by
    rw [closeMessage_eq even, linkHalfWords_append _ even, List.sum_append]
    simp only [linkHalfWords, BitVec.toNat_ofNat, List.sum_cons, List.sum_nil]
    omega
  rw [linkCheck_iff, words, ← onesOf_eq_full]
  exact onesOf_closed _

/-! ### Messages read (R34) -/

/-- Two bytes, the most significant first, as a half-word. -/
theorem append_eq_ofNat (high low : Byte) : BitVec.ofNat 16 (low.toNat + 256 * high.toNat) = high ++ low := by
  refine BitVec.eq_of_toNat_eq ?_
  have small := low.isLt
  rw [BitVec.toNat_append, ← Nat.shiftLeft_add_eq_or_of_lt small, BitVec.toNat_ofNat, Nat.shiftLeft_eq]
  have large := high.isLt
  omega

theorem linkField_two {bytes : List Byte} (i : Nat) (within : i + 1 < bytes.length) :
    BitVec.ofNat 16 (linkField bytes i 2) = bytes.getD i 0 ++ bytes.getD (i + 1) 0 := by
  have taken : slice bytes i 2 = [bytes.getD i 0, bytes.getD (i + 1) 0] := by
    unfold slice
    rw [List.drop_eq_getElem_cons (by omega), List.drop_eq_getElem_cons within, List.getD_eq_getElem _ _ (by omega),
      List.getD_eq_getElem _ _ within]
    rfl
  rw [← append_eq_ofNat, linkField, taken]
  rfl

/-- The bytes are a message of this kind and length, and its check holds. -/
def IsMessage (bytes : List Byte) (kind : Byte) (length : Nat) : Prop :=
  linkCheck bytes = true ∧ bytes.getD 0 0 = kind ∧ bytes.length = length

theorem IsMessage.kind {bytes : List Byte} {kind : Byte} {length : Nat} (h : IsMessage bytes kind length) :
    byteAt bytes 0 = kind.toNat := congrArg BitVec.toNat h.2.1

theorem parse_hello {bytes : List Byte} (h : IsMessage bytes 1 4) : Arrival.parse bytes = some (.hello (bytes.getD 1 0)) := by
  obtain ⟨check, _, size⟩ := id h
  unfold Arrival.parse
  rw [check, h.kind, size]
  rfl

theorem parse_lookup {bytes : List Byte} (h : IsMessage bytes 2 8) : Arrival.parse bytes = some (.lookup
    { tag := (bytes.getD 1 0).setWidth 6, group := bytes.getD 2 0 ++ bytes.getD 3 0
      hash := bytes.getD 4 0 ++ bytes.getD 5 0 }) := by
  obtain ⟨check, _, size⟩ := id h
  unfold Arrival.parse
  rw [check, h.kind, size, linkField_two 2 (by omega), linkField_two 4 (by omega)]
  rfl

theorem parse_probeIn {bytes : List Byte} (h : IsMessage bytes 5 16) : Arrival.parse bytes = some (.probeIn (bytes.getD 1 0)
    { identity := identityAt bytes 2, uplink := bytes.getD 8 0, seen := (bytes.getD 9 0).getLsbD 0
      sequence := bytes.getD 10 0 ++ bytes.getD 11 0 }) := by
  obtain ⟨check, _, size⟩ := id h
  unfold Arrival.parse probeContentOf
  rw [check, h.kind, size, linkField_two 10 (by omega)]
  rfl

theorem parse_other {bytes : List Byte} (hello : ¬IsMessage bytes 1 4) (lookup : ¬IsMessage bytes 2 8)
    (probe : ¬IsMessage bytes 5 16) : Arrival.parse bytes = none := by
  cases check : linkCheck bytes with
  | false => exact parse_of_badCheck check
  | true =>
    have kind (k : Byte) (h : byteAt bytes 0 = k.toNat) : bytes.getD 0 0 = k := BitVec.eq_of_toNat_eq h
    unfold Arrival.parse
    rw [check]
    rw [if_neg (by simp)]
    split
    next first size => exact absurd ⟨check, kind 1 first, size⟩ hello
    next first size => exact absurd ⟨check, kind 2 first, size⟩ lookup
    next first size => exact absurd ⟨check, kind 5 first, size⟩ probe
    next => rfl

/-! ### Messages sent (R95; spec 12.6) -/

theorem identity_toList (identity : Identity) : identity.toList =
    [identity[0], identity[1], identity[2], identity[3], identity[4], identity[5]] := by
  refine List.ext_getElem (by simp) fun i left right => ?_
  rw [Vector.getElem_toList]
  match i, right with
  | 0, _ | 1, _ | 2, _ | 3, _ | 4, _ | 5, _ => rfl
  | i + 6, large => exact absurd large (by simp)

theorem identity_eq (identity : Identity) :
    #v[identity[0], identity[1], identity[2], identity[3], identity[4], identity[5]] = identity := by
  refine Vector.ext fun i small => ?_
  match i, small with
  | 0, _ | 1, _ | 2, _ | 3, _ | 4, _ | 5, _ => rfl

theorem leBytes_boolCode (b : Bool) : leBytes 1 (boolCode b) = [if b then 1 else 0] := by
  cases b <;> rfl

theorem probeContentBytes_eq (c : ProbeContent) : probeContentBytes c = c.identity.toList
    ++ [c.uplink, if c.seen then 1 else 0, BitVec.ofNat 8 (c.sequence.toNat / 256), BitVec.ofNat 8 c.sequence.toNat, 0, 0] := by
  unfold probeContentBytes
  rw [leBytes_boolCode, beBytes_two]
  simp [reserved, List.replicate]

theorem bytes_lookup (l : Lookup) : (Arrival.lookup l).bytes = closeMessage
    [2, l.tag.setWidth 8, BitVec.ofNat 8 (l.group.toNat / 256), BitVec.ofNat 8 l.group.toNat,
     BitVec.ofNat 8 (l.hash.toNat / 256), BitVec.ofNat 8 l.hash.toNat] := by
  unfold Arrival.bytes
  dsimp only
  rw [beBytes_two, beBytes_two]
  rfl

theorem bytes_probeIn (u : Byte) (c : ProbeContent) : (Arrival.probeIn u c).bytes = closeMessage
    ([5, u] ++ c.identity.toList
      ++ [c.uplink, if c.seen then 1 else 0, BitVec.ofNat 8 (c.sequence.toNat / 256), BitVec.ofNat 8 c.sequence.toNat,
          0, 0]) := by
  unfold Arrival.bytes
  dsimp only
  rw [probeContentBytes_eq, List.append_assoc]

theorem bytes_answer (a : Answer) : (Sending.answer a).bytes = closeMessage
    [3, a.tag.setWidth 8,
     match a.outcome with | .uplink => 0 | .noRoute => 1 | .notReady => 2 | .badGroup => 3 | .refused => 4,
     BitVec.ofNat 8 a.uplink.val, if a.escaped then 1 else 0, 0] := by
  unfold Sending.bytes
  dsimp only
  rw [leBytes_boolCode, leBytes_one, leBytes_one]
  cases a.outcome <;> rfl

theorem bytes_probe (u : Fin 32) (c : ProbeContent) : (Sending.probe { uplink := u, content := c }).bytes = closeMessage
    ([4, BitVec.ofNat 8 u.val] ++ c.identity.toList
      ++ [c.uplink, if c.seen then 1 else 0, BitVec.ofNat 8 (c.sequence.toNat / 256), BitVec.ofNat 8 c.sequence.toNat,
          0, 0]) := by
  unfold Sending.bytes
  dsimp only
  rw [probeContentBytes_eq, leBytes_one, List.append_assoc]
  rfl

/-! ### Messages read as they were sent (R34) -/

/-- A half-word from its two bytes. -/
theorem bytes_append (v : BitVec 16) : BitVec.ofNat 8 (v.toNat / 256) ++ BitVec.ofNat 8 v.toNat = v := by
  rw [← append_eq_ofNat]
  refine BitVec.eq_of_toNat_eq ?_
  have small := v.isLt
  simp only [BitVec.toNat_ofNat]
  omega

theorem parse_bytes (a : Arrival) : Arrival.parse a.bytes = some a := by
  cases a with
  | hello v =>
    have closed : (Arrival.hello v).bytes = closeMessage [1, v] := rfl
    have message : IsMessage (closeMessage [1, v]) 1 4 := ⟨linkCheck_closeMessage (by simp), rfl, rfl⟩
    rw [closed, parse_hello message]
    rfl
  | lookup l =>
    have even : [2, l.tag.setWidth 8, BitVec.ofNat 8 (l.group.toNat / 256), BitVec.ofNat 8 l.group.toNat,
      BitVec.ofNat 8 (l.hash.toNat / 256), BitVec.ofNat 8 l.hash.toNat].length % 2 = 0 := by simp
    have check := linkCheck_closeMessage even
    rw [bytes_lookup]
    rw [closeMessage_eq even] at check ⊢
    rw [parse_lookup ⟨check, rfl, rfl⟩]
    have tag : (l.tag.setWidth 8).setWidth 6 = l.tag := by simp
    change some (Arrival.lookup
      { tag := (l.tag.setWidth 8).setWidth 6
        group := BitVec.ofNat 8 (l.group.toNat / 256) ++ BitVec.ofNat 8 l.group.toNat
        hash := BitVec.ofNat 8 (l.hash.toNat / 256) ++ BitVec.ofNat 8 l.hash.toNat }) = _
    rw [tag, bytes_append, bytes_append]
  | probeIn u c =>
    have even : ([5, u] ++ c.identity.toList ++ [c.uplink, if c.seen then 1 else 0,
      BitVec.ofNat 8 (c.sequence.toNat / 256), BitVec.ofNat 8 c.sequence.toNat, 0, 0]).length % 2 = 0 := by simp
    have check := linkCheck_closeMessage even
    rw [bytes_probeIn]
    rw [closeMessage_eq even] at check ⊢
    have seen : (if c.seen then 1 else 0 : Byte).getLsbD 0 = c.seen := by cases c.seen <;> rfl
    rw [parse_probeIn ⟨check, rfl, by simp⟩, identity_toList]
    change some (Arrival.probeIn u
      { identity := #v[c.identity[0], c.identity[1], c.identity[2], c.identity[3], c.identity[4], c.identity[5]]
        uplink := c.uplink, seen := (if c.seen then 1 else 0 : Byte).getLsbD 0
        sequence := BitVec.ofNat 8 (c.sequence.toNat / 256) ++ BitVec.ofNat 8 c.sequence.toNat }) = _
    rw [identity_eq, seen, bytes_append]

/-- Settles O60: the frame check as a remainder, each message of the pipeline read back, what any bytes are read as, and
the bytes of each message sent. -/
theorem messagesAreReadAsTheyWereSent : Obligations.MessagesAreReadAsTheyWereSent := by
  unfold Obligations.MessagesAreReadAsTheyWereSent
  refine ⟨fun bytes even => ?_, parse_bytes, ⟨fun _ => rfl, bytes_lookup, bytes_probeIn⟩, fun bytes => ?_,
    ⟨rfl, rfl, rfl⟩, bytes_answer, bytes_probe⟩
  · dsimp only
    rw [← linkHalfWords_eq]
    exact ⟨linkCheck_iff bytes, closeMessage_eq even, linkCheck_closeMessage even⟩
  · exact ⟨parse_hello, parse_lookup, parse_probeIn, parse_other⟩

end Sys2Proof.Machine
end

section
/-! PROOF. O50: order slots, read, taken, failed and completed. -/

namespace Sys2Proof.Machine

namespace State

variable {s : State}

/-! ### The flush step, in what it leaves -/

/-- What the sweep's going on after a slot changes of the Area Interface. -/
theorem afterSlot_area (k : Fin 16) : (s.afterSlot k).area = { s.area with
    blocked := (s.afterSlot k).area.blocked, converged := (s.afterSlot k).area.converged
    sweep := (s.afterSlot k).area.sweep, requested := (s.afterSlot k).area.requested } := by
  unfold afterSlot
  split
  · rfl
  · unfold beginFlush
    rw [resumeFlush_area]

theorem awaitSlot_area (k : Fin 16) : (s.awaitSlot k).area = { s.area with
    blocked := (s.awaitSlot k).area.blocked, converged := (s.awaitSlot k).area.converged
    sweep := (s.awaitSlot k).area.sweep, requested := (s.awaitSlot k).area.requested } := by
  unfold awaitSlot
  split
  · rfl
  · rw [afterSlot_area]

/-- Between `s` and `t` the sweep in progress changes its phase at most. -/
def PhaseOnly (s t : State) : Prop := ∃ move : SweepPhase → SweepPhase,
  t.area.sweep = s.area.sweep.map fun r => { r with phase := move r.phase }

theorem PhaseOnly.of_sweepAt {t : State} {phase : SweepPhase} (h : s.SweepAt t phase) : s.PhaseOnly t := ⟨fun _ => phase, h⟩

theorem PhaseOnly.of_eq {t : State} (same : t.area.sweep = s.area.sweep) : s.PhaseOnly t :=
  ⟨id, by rw [same]; simp⟩

theorem PhaseOnly.trans {t v : State} (a : s.PhaseOnly t) (b : t.PhaseOnly v) : s.PhaseOnly v := by
  obtain ⟨first, a⟩ := a
  obtain ⟨second, b⟩ := b
  exact ⟨second ∘ first, by rw [b, a, Option.map_map]; rfl⟩

theorem PhaseOnly.settleArea {t : State} (h : s.PhaseOnly t) : s.PhaseOnly t.settleArea :=
  h.trans (.of_eq (settleArea_area_sweep t))

/-- The counts of the sweep in progress. -/
theorem PhaseOnly.counts {t : State} (h : s.PhaseOnly t) {r : SweepRecord} (sweep : s.area.sweep = some r) :
    ∃ q, t.area.sweep = some q ∧ q = { r with phase := q.phase } := by
  obtain ⟨move, h⟩ := h
  rw [sweep] at h
  exact ⟨_, h, rfl⟩

theorem PhaseOnly.resumeFlush : s.PhaseOnly s.resumeFlush := by
  unfold State.resumeFlush
  split
  · split
    · exact ⟨fun _ => .page 0, rfl⟩
    · exact .of_eq rfl
  · exact .of_eq rfl

theorem PhaseOnly.beginFlush : s.PhaseOnly s.beginFlush := by
  have flushing : s.PhaseOnly { s with area := { s.area with
      blocked := false, sweep := s.area.sweep.map fun r => { r with phase := .flush } } } := ⟨fun _ => .flush, rfl⟩
  exact flushing.trans .resumeFlush

theorem PhaseOnly.afterSlot (k : Fin 16) : s.PhaseOnly (s.afterSlot k) := by
  unfold State.afterSlot
  split
  · exact ⟨fun _ => _, rfl⟩
  · exact .beginFlush

theorem PhaseOnly.awaitSlot (k : Fin 16) : s.PhaseOnly (s.awaitSlot k) := by
  unfold State.awaitSlot
  split
  · exact ⟨fun _ => .slotWrite k, rfl⟩
  · exact .afterSlot k

/-! ### A slot read (R155) -/

theorem exec_slotRead {bytes : List Byte} {k : Fin 16} (size : bytes.length = 64) (flight : s.inFlight = some (.slotRead k)) :
    exec (.orderSlotReadDone bytes) s = .next (s.endFlight.treatSlot k bytes).settleArea := by
  change execOrderSlotReadDone bytes s = _
  unfold execOrderSlotReadDone
  rw [if_neg (by simp [size]), flight]

/-- The slot is not held and reads POSTED. -/
def Posted (s : State) (k : Fin 16) (bytes : List Byte) : Prop := s.area.slotHolds.get k = none ∧ byteAt bytes 1 = 1

theorem treatSlot_skips {k : Fin 16} {bytes : List Byte} (other : ¬s.Posted k bytes) :
    s.treatSlot k bytes = s.afterSlot k := by
  unfold treatSlot
  refine if_pos ?_
  unfold Posted at other
  rw [Bool.or_eq_true, Option.isSome_iff_ne_none, Bool.not_eq_true', slotPosted, beq_eq_false_iff_ne]
  tauto

theorem treatSlot_posted {k : Fin 16} {bytes : List Byte} (posted : s.Posted k bytes) :
    s.treatSlot k bytes = s.postedSlot k bytes := by
  obtain ⟨free, state⟩ := posted
  unfold treatSlot
  exact if_neg (by simp [free, slotPosted, state])

theorem postedSlot_badCheck {k : Fin 16} {bytes : List Byte} (bad : slotCheck bytes = false) :
    s.postedSlot k bytes = (s.completeUntaken k (bytes.getD 0 0) .badCheck).awaitSlot k := by
  unfold postedSlot
  exact if_pos (by simp [bad])

theorem ofCode_unknown {code : Nat} (unknown : code = 0 ∨ 7 < code) : OrderKind.ofCode code = none := by
  unfold OrderKind.ofCode
  split <;> simp_all

theorem ofCode_code (kind : OrderKind) : OrderKind.ofCode kind.code = some kind := by
  cases kind <;> rfl

theorem postedSlot_badKind {k : Fin 16} {bytes : List Byte} (good : slotCheck bytes = true)
    (unknown : byteAt bytes 0 = 0 ∨ 7 < byteAt bytes 0) :
    s.postedSlot k bytes = (s.completeUntaken k (bytes.getD 0 0) .badKind).awaitSlot k := by
  unfold postedSlot
  rw [if_neg (by simp [good]), ofCode_unknown unknown]

theorem postedSlot_takes {k : Fin 16} {bytes : List Byte} {kind : OrderKind} (good : slotCheck bytes = true)
    (code : byteAt bytes 0 = kind.code) : s.postedSlot k bytes = s.takeOrder (orderOf k kind bytes) := by
  unfold postedSlot
  rw [if_neg (by simp [good]), code, ofCode_code]

/-! ### An order that fails untaken (R155, R156) -/

theorem completeUntaken_running (running : s.control.runState = .running) (k : Fin 16) (kind : Byte) (reason : OrderReason) :
    s.completeUntaken k kind reason = s.beginCompletion
      { slot := k, kind, failed := true, reason, results := Results.zero, time := s.now } := by
  unfold completeUntaken
  exact if_pos running

theorem completeUntaken_other (other : s.control.runState ≠ .running) (k : Fin 16) (kind : Byte) (reason : OrderReason) :
    s.completeUntaken k kind reason = s.reportEnded (some k) kind true reason Results.zero := by
  unfold completeUntaken
  exact if_neg other

theorem completeUntaken_sweep (k : Fin 16) (kind : Byte) (reason : OrderReason) :
    (s.completeUntaken k kind reason).area.sweep = s.area.sweep :=
  (congrArg AreaInterface.sweep (completeUntaken_plan s k kind reason) :)

theorem completeUntaken_slotHolds (k : Fin 16) (kind : Byte) (reason : OrderReason) :
    (s.completeUntaken k kind reason).area.slotHolds = s.area.slotHolds := by
  unfold completeUntaken
  split
  · rfl
  · exact produce_area_slotHolds s _

/-- A completion begun is found. -/
theorem completion_begun (c : Completion) : ((s.beginCompletion c).completion c.slot).isSome = true := by
  unfold completion beginCompletion
  rw [List.find?_isSome]
  exact ⟨c, by simp, by simp⟩

theorem awaitSlot_waits {k : Fin 16} (waits : (s.completion k).isSome = true) :
    s.awaitSlot k = s.modifySweep fun r => { r with phase := .slotWrite k } := by
  unfold awaitSlot
  exact if_pos waits

/-- The end of an event that fails an order untaken: what stands in the slot, the holds and the sweep. -/
structure FailsUntaken (s t : State) (k : Fin 16) (kind : Byte) (reason : OrderReason) : Prop where
  running : s.control.runState = .running →
    { slot := k, kind, failed := true, reason, results := Results.zero, time := s.now } ∈ t.area.completions
      ∧ s.SweepAt t (.slotWrite k) ∧ t.Wants (.slotResult k)
  other : s.control.runState ≠ .running →
    t.Reports s.now (.orderEnded (some k) kind true reason Results.zero) ∧ (s.completion k = none → s.NextSlot t k)
  slotHolds : t.area.slotHolds = s.area.slotHolds
  phase : s.PhaseOnly t

theorem FailsUntaken.of_complete (k : Fin 16) (kind : Byte) (reason : OrderReason) :
    s.FailsUntaken ((s.completeUntaken k kind reason).awaitSlot k).settleArea k kind reason where
  running := fun running => by
    rw [completeUntaken_running running]
    rw [awaitSlot_waits (completion_begun _)]
    refine ⟨?_, ?_, wants_settleArea _ (by simp [modifySweep, setSweep, beginCompletion, request])⟩
    · rw [settleArea_area_completions]
      exact List.mem_append_right _ (List.mem_singleton_self _)
    · unfold SweepAt
      rw [settleArea_area_sweep]
      rfl
  other := fun other => by
    have next := (awaitSlot_nextSlot k (completeUntaken_sweep (s := s) k kind reason)).2
    rw [completeUntaken_other other] at next ⊢
    refine ⟨?_, fun none => next ?_⟩
    · exact State.Reports.settleArea ((produce_reports s _).of_eq (awaitSlot_holding _ k) (awaitSlot_lastDrop _ k))
    · unfold completion at none ⊢
      rw [settleArea_area_completions, awaitSlot_completions]
      unfold reportEnded
      rw [produce_area_completions]
      exact none
  slotHolds := by rw [settleArea_area_slotHolds, awaitSlot_slotHolds, completeUntaken_slotHolds]
  phase := ((PhaseOnly.of_eq (completeUntaken_sweep k kind reason)).trans (.awaitSlot k)).settleArea

/-! ### The seven commands that hand an order over (R155) -/

/-- The part that the owner of a kind of order takes. -/
def taker : OrderKind → State → OrderInHand → State
  | .drillStart => takeDrillStart
  | .drillEnd => takeDrillEnd
  | .release => takeRelease
  | .pin => takePin
  | .unpin => takeUnpin
  | .conduitClear => takeConduitClear
  | .snapshot => takeSnapshot

/-- The owner leaves the sweep and the order in hand alone. -/
theorem taker_plan (kind : OrderKind) (o : OrderInHand) : (taker kind s o).area.plan = s.area.plan := by
  cases kind with
  | drillStart => exact takeDrillStart_plan s o
  | drillEnd => exact takeDrillEnd_plan s o
  | release => exact takeRelease_plan s o
  | pin => exact takePin_plan s o
  | unpin => exact takeUnpin_plan s o
  | conduitClear => exact takeConduitClear_plan s o
  | snapshot => exact takeSnapshot_plan s o

theorem exec_handOver {command : Instr} {kind : OrderKind} {o : OrderInHand}
    (listed : (command, kind) ∈ [(Instr.drillStart, OrderKind.drillStart), (.drillEnd, .drillEnd), (.release, .release),
      (.pin, .pin), (.unpin, .unpin), (.conduitClear, .conduitClear), (.snapshot, .snapshot)])
    (taken : s.orderTaken kind = some o) : exec command s = .next (s.handOver o (taker kind)) := by
  simp only [List.mem_cons, Prod.mk.injEq, List.not_mem_nil, or_false] at listed
  rcases listed with ⟨rfl, rfl⟩ | ⟨rfl, rfl⟩ | ⟨rfl, rfl⟩ | ⟨rfl, rfl⟩ | ⟨rfl, rfl⟩ | ⟨rfl, rfl⟩ | ⟨rfl, rfl⟩
  · exact execDrillStart_eq _ _ taken
  · exact execDrillEnd_eq _ _ taken
  · exact execRelease_eq _ _ taken
  · exact execPin_eq _ _ taken
  · exact execUnpin_eq _ _ taken
  · exact execConduitClear_eq _ _ taken
  · exact execSnapshot_eq _ _ taken

/-! ### Completions written (R156) -/

theorem exec_slotResult {k : Fin 16} (flight : s.inFlight = some (.slotResult k)) :
    exec .slotResultWritten s = .next (s.endFlight.request (.slotState k)).settleArea := by
  change execSlotResultWritten s = _
  unfold execSlotResultWritten
  rw [flight]

theorem exec_slotState {k : Fin 16} (flight : s.inFlight = some (.slotState k)) :
    exec .slotStateWritten s = .next ((s.endFlight.closeCompletion k).resumeSweep k).settleArea := by
  change execSlotStateWritten s = _
  unfold execSlotStateWritten
  rw [flight]

theorem resumeSweep_waited {k : Fin 16} {r : SweepRecord} (sweep : s.area.sweep = some r) (waited : r.phase = .slotWrite k) :
    s.resumeSweep k = s.afterSlot k := by
  unfold resumeSweep
  rw [sweep]
  exact if_pos waited

theorem resumeSweep_other {k : Fin 16} (other : ∀ r, s.area.sweep = some r → r.phase ≠ .slotWrite k) :
    s.resumeSweep k = s := by
  unfold resumeSweep
  split
  next r sweep => exact if_neg (other r sweep)
  next => rfl

theorem resumeSweep_slotHolds (k : Fin 16) : (s.resumeSweep k).area.slotHolds = s.area.slotHolds := by
  unfold resumeSweep
  split
  · split
    · rw [afterSlot_area]
    · rfl
  · rfl

theorem resumeSweep_completions (k : Fin 16) : (s.resumeSweep k).area.completions = s.area.completions := by
  unfold resumeSweep
  split
  · split
    · rw [afterSlot_area]
    · rfl
  · rfl

end State

open State in
/-- Settles O50: a slot read, its bytes, the two writes of a completion, and the hand-over. -/
theorem orderSlotsAreTakenAndCompleted : Obligations.OrderSlotsAreTakenAndCompleted := by
  unfold Obligations.OrderSlotsAreTakenAndCompleted
  refine ⟨fun s bytes k size flight => ?_, fun bytes k kind size => ?_, fun s k flight => ?_, fun s k flight => ?_,
    fun s command kind o listed taken => ?_⟩
  · refine ⟨_, exec_slotRead size flight, by simp, by simp, by simp, by simp, by simp, by simp, by simp,
      fun other => ?_, fun posted bad => ?_, fun posted good unknown => ?_, fun kind posted good code => ?_⟩
    · rw [treatSlot_skips (s := s.endFlight) other]
      refine ⟨?_, ?_, ?_, ?_, fun r sweep => ?_, afterSlot_nextSlot s.endFlight k⟩
      · rw [settleArea_area_slotHolds, afterSlot_area, endFlight_area_slotHolds]
      · rw [settleArea_area_completions, afterSlot_area, endFlight_area_completions]
      · rw [settleArea_area_taking, afterSlot_area, endFlight_area_taking]
      · rw [settleArea_area_holding, afterSlot_area, endFlight_area_holding]
      · exact (PhaseOnly.afterSlot k).settleArea.counts (s := s.endFlight) sweep
    · rw [treatSlot_posted (s := s.endFlight) posted, postedSlot_badCheck bad]
      have fails := FailsUntaken.of_complete (s := s.endFlight) k (bytes.getD 0 0) .badCheck
      exact ⟨⟨fails.running, fails.other⟩, fails.slotHolds, fun r sweep => fails.phase.counts sweep⟩
    · rw [treatSlot_posted (s := s.endFlight) posted, postedSlot_badKind good unknown]
      have fails := FailsUntaken.of_complete (s := s.endFlight) k (bytes.getD 0 0) .badKind
      exact ⟨⟨fails.running, fails.other⟩, fails.slotHolds, fun r sweep => fails.phase.counts sweep⟩
    · rw [treatSlot_posted (s := s.endFlight) posted, postedSlot_takes good code]
      refine ⟨?_, ?_, wants_settleArea _ (by simp [takeOrder, orderOf]), ?_, ?_, ?_⟩
      · rw [settleArea_area_slotHolds]
        rfl
      · rw [settleArea_area_taking]
        rfl
      · rw [settleArea_area_completions]
        rfl
      · rw [settleArea_area_holding]
        rfl
      · rw [settleArea_area_sweep]
        change Option.map _ (Option.map _ s.area.sweep) = _
        rw [Option.map_map]
        rfl
  · refine ⟨slotCheck_iff size, ?_⟩
    unfold orderOf
    rw [areaField_two, areaField_two, areaField_eight, areaField_four]
  · refine ⟨_, exec_slotResult flight, wants_settleArea _ (by simp), by simp, by simp, by simp, by simp, by simp, by simp,
      by simp, by simp, by simp⟩
  · refine ⟨_, exec_slotState flight, ?_, ?_, by simp, by simp, by simp, by simp, by simp, by simp, by simp,
      fun r sweep waited => ?_, fun r sweep other => ?_⟩
    · rw [settleArea_area_slotHolds, resumeSweep_slotHolds]
      rfl
    · rw [settleArea_area_completions, resumeSweep_completions]
      refine List.filter_congr fun c _ => ?_
      rw [Bool.eq_iff_iff]
      simp
    · rw [resumeSweep_waited (s := s.endFlight.closeCompletion k) sweep waited]
      exact afterSlot_nextSlot (s.endFlight.closeCompletion k) k
    · rw [resumeSweep_other (s := s.endFlight.closeCompletion k) (fun q some => ?_), settleArea_area_sweep]
      · exact sweep
      · have same : q = r := Option.some.inj (some.symm.trans sweep)
        rwa [same]
  · have plan := taker_plan (s := s.endTaken) kind o
    have sweep : (taker kind s.endTaken o).area.sweep = s.area.sweep := (congrArg AreaInterface.sweep plan :)
    have inHand : (taker kind s.endTaken o).area.taking = none := (congrArg AreaInterface.taking plan :)
    refine ⟨_, exec_handOver listed taken, ?_, awaitSlot_nextSlot o.slot sweep⟩
    unfold handOver
    rw [settleArea_area_taking, awaitSlot_area]
    exact inHand

end Sys2Proof.Machine
end

section
/-! PROOF. O52: the flush step of a sweep, and the page that begins when it ends. -/

namespace Sys2Proof.Machine

namespace Sparse

variable {α : Type} {d v : α} {l : List (Nat × α)} {n : Nat}

/-- What is read is the default or is listed. -/
theorem get_eq_or_mem (d : α) (l : List (Nat × α)) (n : Nat) : get d l n = d ∨ (n, get d l n) ∈ l := by
  induction l with
  | nil => exact .inl rfl
  | cons e t ih =>
    rw [get]
    split
    next same => exact .inr (by rw [← same]; exact List.mem_cons_self)
    next => exact ih.imp id (List.mem_cons_of_mem _)

/-- What is listed is read. -/
theorem get_of_mem (canonical : wf d l) (listed : (n, v) ∈ l) : get d l n = v := by
  induction l with
  | nil => simp at listed
  | cons e t ih =>
    obtain ⟨sorted, values⟩ := canonical
    rw [List.pairwise_cons] at sorted
    rw [get]
    rcases List.mem_cons.mp listed with first | later
    · rw [← first, if_pos rfl]
    · have below : e.1 < n := sorted.1 _ later
      rw [if_neg (Nat.ne_of_lt below)]
      exact ih ⟨sorted.2, fun x hx => values x (List.mem_cons_of_mem _ hx)⟩ later

end Sparse

namespace State

variable {s : State}

/-! ### Acts that leave the journal writer and the pending rebuilds alone -/

/-- Between `s` and `t` the journal writer's phase stays, and every group keeps or lacks a pending rebuild. -/
structure Calm (s t : State) : Prop where
  writer : t.area.writer = s.area.writer
  rebuild : ∀ g, (t.group g).rebuild.isSome = (s.group g).rebuild.isSome

theorem Calm.refl (s : State) : s.Calm s := ⟨rfl, fun _ => rfl⟩

theorem Calm.trans {t v : State} (a : s.Calm t) (b : t.Calm v) : s.Calm v :=
  ⟨b.writer.trans a.writer, fun g => (b.rebuild g).trans (a.rebuild g)⟩

theorem Calm.of_eq {t : State} (writer : t.area.writer = s.area.writer) (groups : t.groups = s.groups) : s.Calm t :=
  ⟨writer, fun g => by unfold State.group; rw [groups]⟩

variable (s)

theorem Calm.produce (e : Entry) : s.Calm (s.produce e) := .of_eq (by simp) (by simp)

theorem Calm.recheckUplinks (p : Fin 32 → Bool) : s.Calm (s.recheckUplinks p) where
  writer := rfl
  rebuild := fun g => by
    rw [recheckUplinks_group]
    unfold GroupRecord.rechecked
    simp

theorem Calm.setGroup (canonical : Sparse.wf GroupRecord.reset s.groups) {g : Nat} {r : GroupRecord}
    (kept : r.rebuild = (s.group g).rebuild) : s.Calm (s.setGroup g r) where
  writer := rfl
  rebuild := fun h => by
    rw [setGroup_group canonical]
    split
    next same => rw [kept, same]
    next => rfl

theorem Calm.setPin (canonical : Sparse.wf GroupRecord.reset s.groups) (g : Nat) (pin : Option Nat) :
    s.Calm (s.setGroup g { s.group g with pin }) := .setGroup s canonical rfl

theorem Calm.completeOrder (slot : Option (Fin 16)) (kind : OrderKind) (failed : Bool) (reason : OrderReason)
    (results : Results) : s.Calm (s.completeOrder slot kind failed reason results) := by
  unfold State.completeOrder
  split
  · split
    · exact .of_eq rfl rfl
    · exact (Calm.of_eq rfl rfl : s.Calm (s.dropHold _)).trans (.produce _ _)
  · exact .produce _ _

theorem Calm.handWalk (u : Fin 32) (cls : WalkClass) : s.Calm (s.handWalk u cls) := .of_eq (by simp) (by simp)

theorem Calm.handChange (u : Fin 32) (previous new : UplinkState) : s.Calm (s.handChange u previous new) := by
  unfold State.handChange
  split
  · exact (Calm.handWalk s _ _).trans (.of_eq rfl rfl)
  · split
    · exact .handWalk _ _ _
    · exact .refl s

theorem Calm.modifyUplink (u : Fin 32) (f : UplinkRecord → UplinkRecord) : s.Calm (s.modifyUplink u f) := .of_eq rfl rfl

theorem Calm.changeState (u : Fin 32) (new : UplinkState) (cause : Option DarkCause) :
    s.Calm (s.changeState u new cause) :=
  (((Calm.modifyUplink s _ _).trans (.produce _ _)).trans (.recheckUplinks _ _)).trans (.handChange _ _ _ _)

theorem Calm.raiseConduit (u : Fin 32) (cause : DarkCause) (c : Fin 64) : s.Calm (s.raiseConduit u cause c) := by
  unfold State.raiseConduit
  dsimp only
  have set (a : Option Alarm) : s.Calm (s.setAlarm c a) := .of_eq rfl rfl
  split
  · exact (((set _).trans (.produce _ _)).trans (.recheckUplinks _ _)).trans (.of_eq rfl rfl)
  · exact set _

theorem Calm.handMask (u : Fin 32) (cause : DarkCause) : s.Calm (s.handMask u cause) := by
  unfold State.handMask State.raiseMask
  generalize (List.finRange 64).filter _ = conduits
  split
  · induction conduits generalizing s with
    | nil => exact .refl s
    | cons c cs ih => exact (Calm.raiseConduit s u cause c).trans (ih _)
  · exact .refl s

theorem Calm.judgeDrill (u : Fin 32) (d : DrillRecord) : s.Calm (s.judgeDrill u d) := by
  unfold State.judgeDrill
  split
  · exact .changeState _ _ _ _
  · dsimp only
    split
    · exact (Calm.changeState s _ _ _).trans (.handMask _ _ _)
    · exact .changeState _ _ _ _

/-! ### The owners' parts of a hand-over -/

theorem Calm.takeDrillStart (o : OrderInHand) : s.Calm (s.takeDrillStart o) := by
  unfold State.takeDrillStart
  dsimp only
  split
  · exact .completeOrder _ _ _ _ _ _
  split
  · exact .completeOrder _ _ _ _ _ _
  split
  · exact .completeOrder _ _ _ _ _ _
  · exact (Calm.modifyUplink s _ _).trans (.changeState _ _ _ _)

theorem Calm.takeDrillEnd (o : OrderInHand) : s.Calm (s.takeDrillEnd o) := by
  unfold State.takeDrillEnd State.endDrill
  dsimp only
  split
  · exact .completeOrder _ _ _ _ _ _
  · split
    · exact (((Calm.judgeDrill s _ _).trans (.completeOrder _ _ _ _ _ _)).trans (.modifyUplink _ _ _)).trans
        (.completeOrder _ _ _ _ _ _)
    · exact .completeOrder _ _ _ _ _ _

theorem Calm.takeRelease (o : OrderInHand) : s.Calm (s.takeRelease o) := by
  unfold State.takeRelease
  dsimp only
  split
  · exact .completeOrder _ _ _ _ _ _
  split
  · exact .completeOrder _ _ _ _ _ _
  · exact ((Calm.modifyUplink s _ _).trans (.changeState _ _ _ _)).trans (.completeOrder _ _ _ _ _ _)

theorem Calm.takePin (canonical : Sparse.wf GroupRecord.reset s.groups) (o : OrderInHand) : s.Calm (s.takePin o) := by
  unfold State.takePin
  dsimp only
  split
  · exact .completeOrder _ _ _ _ _ _
  · split
    · exact .completeOrder _ _ _ _ _ _
    · split
      · exact .completeOrder _ _ _ _ _ _
      · exact (Calm.setPin s canonical _ _).trans (.completeOrder _ _ _ _ _ _)

theorem Calm.takeUnpin (canonical : Sparse.wf GroupRecord.reset s.groups) (o : OrderInHand) : s.Calm (s.takeUnpin o) := by
  unfold State.takeUnpin
  dsimp only
  split
  · exact .completeOrder _ _ _ _ _ _
  · split
    · exact .completeOrder _ _ _ _ _ _
    · exact (Calm.setPin s canonical _ _).trans (.completeOrder _ _ _ _ _ _)

theorem Calm.takeConduitClear (o : OrderInHand) : s.Calm (s.takeConduitClear o) := by
  unfold State.takeConduitClear State.clearConduit
  split
  · dsimp only
    split
    · exact .completeOrder _ _ _ _ _ _
    · have cleared (c : Fin 64) : s.Calm (s.setAlarm c none) := .of_eq rfl rfl
      exact (((cleared _).trans (.produce _ _)).trans (.recheckUplinks _ _)).trans (.completeOrder _ _ _ _ _ _)
  · exact .completeOrder _ _ _ _ _ _

theorem Calm.takeSnapshot (o : OrderInHand) : s.Calm (s.takeSnapshot o) := by
  unfold State.takeSnapshot
  dsimp only
  split
  · exact .completeOrder _ _ _ _ _ _
  split
  · exact .completeOrder _ _ _ _ _ _
  split
  · exact .completeOrder _ _ _ _ _ _
  split
  · exact .completeOrder _ _ _ _ _ _
  split
  · exact .completeOrder _ _ _ _ _ _
  · exact .of_eq rfl rfl

theorem Calm.taker (canonical : Sparse.wf GroupRecord.reset s.groups) (kind : OrderKind) (o : OrderInHand) :
    s.Calm (taker kind s o) := by
  cases kind with
  | drillStart => exact .takeDrillStart s o
  | drillEnd => exact .takeDrillEnd s o
  | release => exact .takeRelease s o
  | pin => exact .takePin s canonical o
  | unpin => exact .takeUnpin s canonical o
  | conduitClear => exact .takeConduitClear s o
  | snapshot => exact .takeSnapshot s o

theorem Event.taker (kind : OrderKind) (o : OrderInHand) : s.Event (taker kind s o) := by
  cases kind with
  | drillStart => exact .takeDrillStart s o
  | drillEnd => exact .takeDrillEnd s o
  | release => exact .takeRelease s o
  | pin => exact .takePin s o
  | unpin => exact .takeUnpin s o
  | conduitClear => exact .takeConduitClear s o
  | snapshot => exact .takeSnapshot s o

theorem taker_runState (kind : OrderKind) (o : OrderInHand) : (taker kind s o).control.runState = s.control.runState := by
  cases kind with
  | drillStart => exact takeDrillStart_runState s o
  | drillEnd => exact takeDrillEnd_runState s o
  | release => exact takeRelease_runState s o
  | pin => exact takePin_runState s o
  | unpin => exact takeUnpin_runState s o
  | conduitClear => exact takeConduitClear_runState s o
  | snapshot => exact takeSnapshot_runState s o

/-! ### CONVERGED (R154) -/

variable {s}

/-- What CONVERGED is decided by. -/
def Converged (s : State) (r : SweepRecord) : Prop :=
  r.allUnchanged = true ∧ r.torn = 0 ∧ r.deferred = 0 ∧ r.rejected = 0 ∧ ∀ g, (s.group g).rebuild = none

theorem anyRebuild_eq_false_iff (canonical : Sparse.wf GroupRecord.reset s.groups) :
    s.anyRebuild = false ↔ ∀ g, (s.group g).rebuild = none := by
  unfold anyRebuild State.group
  rw [List.any_eq_false]
  constructor
  · intro none g
    rcases Sparse.get_eq_or_mem GroupRecord.reset s.groups g with default | listed
    · rw [default]
      rfl
    · simpa using none _ listed
  · intro none e listed
    have read := none e.1
    rw [Sparse.get_of_mem canonical listed] at read
    simp [read]

theorem decideConverged_iff (canonical : Sparse.wf GroupRecord.reset s.groups) (r : SweepRecord) :
    s.decideConverged r = true ↔ s.Converged r := by
  unfold decideConverged Converged
  simp only [Bool.and_eq_true, beq_iff_eq, Bool.not_eq_true', anyRebuild_eq_false_iff canonical, and_assoc]

theorem Calm.converged {t : State} (calm : s.Calm t) (r : SweepRecord) : t.Converged r ↔ s.Converged r := by
  have same (g : Nat) : (t.group g).rebuild = none ↔ (s.group g).rebuild = none := by
    rw [← Option.isNone_iff_eq_none, ← Option.isNone_iff_eq_none, ← Option.not_isSome, ← Option.not_isSome, calm.rebuild g]
  unfold Converged
  simp only [same]

/-! ### The flush step (R146) -/

/-- The page begins, CONVERGED decided. -/
structure PageBegins (s t : State) (r : SweepRecord) : Prop where
  converged : t.area.converged = true ↔ s.Converged r
  sweep : t.area.sweep = some { r with phase := .page 0 }
  wants : t.Wants (.pageWrite 0)

/-- The sweep is at its flush step, which has ended or retries the head of the holding queue. -/
structure Flushes (s t : State) (r : SweepRecord) : Prop where
  blocked : t.area.blocked = false
  ends : s.area.writer = .idle → t.area.holding = [] → s.PageBegins t r
  stays : s.area.writer ≠ .idle ∨ t.area.holding ≠ [] →
    t.area.converged = s.area.converged ∧ t.area.sweep = some { r with phase := .flush }
  retries : s.area.writer = .idle → t.area.holding ≠ [] → s.control.runState.active = true → s.area.stopTry = none →
    t.area.writer = .kindRead ∧ t.Wants .journalKindRead

theorem resumeFlush_page {r : SweepRecord} (sweep : s.area.sweep = some r) (phase : r.phase = .flush)
    (flushed : s.flushed = true) : s.resumeFlush = s.beginPage r := by
  unfold resumeFlush
  rw [sweep]
  exact if_pos ⟨phase, flushed⟩

theorem resumeFlush_stays (flushed : s.flushed = false) : s.resumeFlush = s := by
  unfold resumeFlush
  split
  · exact if_neg (by simp [flushed])
  · rfl

theorem flushed_iff : s.flushed = true ↔ s.area.writer = .idle ∧ (s.area.holding = [] ∨ s.area.blocked = true) := by
  simp [flushed]

/-- The page begins in place of a sweep at its flush step. -/
theorem PageBegins.of_resume {v : State} {r : SweepRecord} (canonical : Sparse.wf GroupRecord.reset v.groups)
    (same : v.Converged r ↔ s.Converged r) (sweep : v.area.sweep = some { r with phase := .flush })
    (flushed : v.flushed = true) : s.PageBegins v.resumeFlush.settleArea r where
  converged := by
    rw [resumeFlush_page sweep rfl flushed, settleArea_area_converged]
    exact (decideConverged_iff canonical _).trans same
  sweep := by
    rw [resumeFlush_page sweep rfl flushed, settleArea_area_sweep]
    change Option.map _ v.area.sweep = _
    rw [sweep]
    rfl
  wants := by
    rw [resumeFlush_page sweep rfl flushed]
    exact wants_settleArea _ (by simp [beginPage])

/-- What an act leaves to a sweep that then begins its flush step. -/
structure BeforeFlush (s v : State) (r : SweepRecord) : Prop where
  canonical : Sparse.wf GroupRecord.reset v.groups
  calm : s.Calm v
  sweep : v.area.sweep = some r
  stopTry : v.area.stopTry = s.area.stopTry
  converged : v.area.converged = s.area.converged
  runState : v.control.runState = s.control.runState

/-- The flush step begun. -/
def flushing (v : State) : State :=
  { v with area := { v.area with blocked := false, sweep := v.area.sweep.map fun r => { r with phase := .flush } } }

theorem beginFlush_eq (v : State) : v.beginFlush = v.flushing.resumeFlush := rfl

theorem BeforeFlush.flushes {v : State} {r : SweepRecord} (h : s.BeforeFlush v r) :
    s.Flushes v.beginFlush.settleArea r := by
  have holding : v.beginFlush.settleArea.area.holding = v.area.holding := by
    rw [settleArea_area_holding, beginFlush_eq, resumeFlush_holding]
    rfl
  have sweep : v.flushing.area.sweep = some { r with phase := .flush } := congrArg (Option.map _) h.sweep
  have writer : v.flushing.area.writer = s.area.writer := h.calm.writer
  refine ⟨?_, fun idle empty => ?_, fun busy => ?_, fun idle waits active untried => ?_⟩
  · rw [settleArea_area_blocked, beginFlush_eq, resumeFlush_area_blocked]
    rfl
  · rw [holding] at empty
    exact .of_resume (v := v.flushing) h.canonical (h.calm.converged r) sweep
      (flushed_iff.mpr ⟨writer.trans idle, .inl empty⟩)
  · rw [holding] at busy
    have stays : v.flushing.flushed = false := by
      rw [← Bool.not_eq_true, flushed_iff, writer]
      rintro ⟨idle, empty | blocked⟩
      · exact busy.elim (fun h => h idle) fun h => h empty
      · exact absurd blocked (by simp [flushing])
    rw [beginFlush_eq, resumeFlush_stays stays, settleArea_area_converged, settleArea_area_sweep]
    exact ⟨h.converged, sweep⟩
  · rw [holding] at waits
    refine settleArea_takes_record _ ?_ ?_ ?_ ?_ ?_
    · rw [beginFlush_control, h.runState]
      exact active
    · rw [beginFlush_eq, resumeFlush_area_blocked]
      rfl
    · rw [beginFlush_eq, resumeFlush_area_writer, writer]
      exact idle
    · rw [beginFlush_eq, resumeFlush_area_stopTry]
      exact h.stopTry.trans untried
    · rw [beginFlush_eq, resumeFlush_holding]
      exact waits

/-- Slot 15 is the last: the flush step follows it. -/
theorem afterSlot_last (v : State) : v.afterSlot 15 = v.beginFlush := by
  unfold afterSlot
  exact dif_neg (by decide)

theorem awaitSlot_last {v : State} (none : v.completion 15 = none) : v.awaitSlot 15 = v.beginFlush := by
  unfold awaitSlot
  rw [if_neg (by simp [none]), afterSlot_last]

theorem BeforeFlush.of_eq {v : State} {r : SweepRecord} (canonical : s.Canonical) (sweep : s.area.sweep = some r)
    (groups : v.groups = s.groups) (writer : v.area.writer = s.area.writer) (same : v.area.sweep = s.area.sweep)
    (stopTry : v.area.stopTry = s.area.stopTry) (converged : v.area.converged = s.area.converged)
    (runState : v.control.runState = s.control.runState) : s.BeforeFlush v r where
  canonical := by
    rw [groups]
    exact canonical.2.2.1
  calm := .of_eq writer groups
  sweep := same.trans sweep
  stopTry := stopTry
  converged := converged
  runState := runState

/-- An order fails untaken while RUNNING: the sweep waits for its completion. -/
theorem failing_waits (running : s.control.runState = .running) (k : Fin 16) (kind : Byte) (reason : OrderReason) :
    ((s.completeUntaken k kind reason).awaitSlot k).settleArea.area.blocked = s.area.blocked
      ∧ ((s.completeUntaken k kind reason).awaitSlot k).settleArea.area.converged = s.area.converged := by
  rw [completeUntaken_running running, awaitSlot_waits (completion_begun _), settleArea_area_blocked,
    settleArea_area_converged]
  exact ⟨rfl, rfl⟩

/-- An order fails untaken, not RUNNING: it is reported, and the flush step follows slot 15. -/
theorem failing_flushes {r : SweepRecord} (canonical : s.Canonical) (sweep : s.area.sweep = some r)
    (other : s.control.runState ≠ .running) (none : s.completion 15 = none) (kind : Byte) (reason : OrderReason) :
    s.Flushes ((s.endFlight.completeUntaken 15 kind reason).awaitSlot 15).settleArea r := by
  have none' : (s.endFlight.reportEnded (some 15) kind true reason Results.zero).completion 15 = Option.none := by
    unfold completion reportEnded
    rw [produce_area_completions]
    exact none
  rw [completeUntaken_other (s := s.endFlight) other, awaitSlot_last none']
  refine BeforeFlush.flushes (.of_eq canonical sweep ?_ ?_ ?_ ?_ ?_ ?_)
  · exact produce_groups _ _
  · exact produce_area_writer _ _
  · exact produce_area_sweep _ _
  · exact produce_area_stopTry _ _
  · exact produce_area_converged _ _
  · exact produce_runState _ _

/-- The hand-over of an order of slot 15 that leaves no completion to write. -/
theorem handOver_flushes {r : SweepRecord} {o : OrderInHand} (canonical : s.Canonical) (sweep : s.area.sweep = some r)
    (kind : OrderKind) (last : o.slot = 15) (none : (s.handOver o (taker kind)).completion 15 = none) :
    s.Flushes (s.handOver o (taker kind)) r := by
  have plan := taker_plan (s := s.endTaken) kind o
  have taken : s.Event (taker kind s.endTaken o) := (Event.quiet rfl rfl : s.Event s.endTaken).trans (.taker _ _ _)
  have kept := canonical.2.2.1
  have none' : (taker kind s.endTaken o).completion 15 = Option.none := by
    unfold completion at none ⊢
    rwa [handOver_completions] at none
  unfold handOver
  rw [last, awaitSlot_last none']
  refine BeforeFlush.flushes ⟨(taken.canonical canonical).2.2.1, ?_, ?_, ?_, ?_, ?_⟩
  · exact (Calm.of_eq rfl rfl : s.Calm s.endTaken).trans (Calm.taker s.endTaken kept kind o)
  · exact (congrArg AreaInterface.sweep plan : _).trans sweep
  · exact (congrArg AreaInterface.stopTry plan :)
  · exact (congrArg AreaInterface.converged plan :)
  · exact taker_runState _ kind o

/-- The hand-over of an order whose completion is being written. -/
theorem handOver_waits {r : SweepRecord} {o : OrderInHand} (sweep : s.area.sweep = some r) (kind : OrderKind)
    (written : (s.handOver o (taker kind)).completion o.slot ≠ none) :
    (s.handOver o (taker kind)).area.sweep = some { r with phase := .slotWrite o.slot }
      ∧ (s.handOver o (taker kind)).area.blocked = s.area.blocked
      ∧ (s.handOver o (taker kind)).area.converged = s.area.converged := by
  have plan := taker_plan (s := s.endTaken) kind o
  have waits : ((taker kind s.endTaken o).completion o.slot).isSome = true := by
    unfold completion at written ⊢
    rwa [handOver_completions, ← Option.isSome_iff_ne_none] at written
  have same : (taker kind s.endTaken o).area.sweep = some r := (congrArg AreaInterface.sweep plan : _).trans sweep
  unfold handOver
  rw [awaitSlot_waits waits, settleArea_area_sweep, settleArea_area_blocked, settleArea_area_converged]
  refine ⟨?_, (congrArg AreaInterface.blocked plan :), (congrArg AreaInterface.converged plan :)⟩
  change Option.map _ (taker kind s.endTaken o).area.sweep = _
  rw [same]
  rfl

/-- Records still wait, or a GAP record does. -/
theorem recordWritten_waits (more : s.area.holding.tail ≠ [] ∨ s.area.gapCount ≠ 0) : s.recordWritten.area.holding ≠ [] := by
  by_cases closed : s.area.holding.tail ≠ [] ∨ s.area.gapCount = 0
  · rw [recordWritten_closed closed]
    exact closed.elim id fun none => more.resolve_right fun gap => gap none
  · rw [not_or, not_not] at closed
    rw [recordWritten_gap closed.1 closed.2]
    exact List.cons_ne_nil _ _

theorem recordWritten_area_sweep : s.recordWritten.area.sweep = s.area.sweep := by
  unfold recordWritten closeGap
  split
  · rw [produce_area_sweep]
    rfl
  · rfl

theorem recordWritten_area_converged : s.recordWritten.area.converged = s.area.converged := by
  unfold recordWritten closeGap
  split
  · rw [produce_area_converged]
    rfl
  · rfl

theorem sweepRecord_eq {r : SweepRecord} {phase : SweepPhase} (h : r.phase = phase) : { r with phase } = r := by
  subst h
  rfl

end State

open State in
/-- Settles O52: the ways to slot 15's end, each with the flush step after it or the wait before it, and the ends of
that step. -/
theorem flushEndsBeforeThePage : Obligations.FlushEndsBeforeThePage := by
  unfold Obligations.FlushEndsBeforeThePage
  intro s r canonical sweep converged pageBegins flushes waits posted fails
  have page {t : State} (h : s.PageBegins t r) : pageBegins t := ⟨h.converged, h.sweep, h.wants⟩
  have flush {t : State} (h : s.Flushes t r) : flushes t :=
    ⟨h.blocked, fun idle empty => page (h.ends idle empty), h.stays, h.retries⟩
  have standing (phase : r.phase = .flush) : s.area.sweep = some { r with phase := .flush } := by
    rw [sweep, sweepRecord_eq phase]
  have kept := canonical.2.2.1
  refine ⟨fun bytes size flight other => ?_, fun bytes kind ⟨size, flight, ready⟩ good code => ?_,
    fun bytes ⟨⟨size, flight, ready⟩, bad⟩ running => ?_, fun bytes ⟨⟨size, flight, ready⟩, bad⟩ other none => ?_,
    fun command kind o listed taken last => ?_, fun flight phase => ?_, fun kind phase untried flight full => ?_,
    fun q phase untried flight one closed => ?_, fun phase untried flight free more active => ?_⟩
  · have skipped : ¬s.Posted 15 bytes := by
      rintro ⟨free, state⟩
      exact other.elim (fun h => h free) fun h => h state
    refine ⟨_, exec_slotRead size flight, ?_⟩
    rw [treatSlot_skips (s := s.endFlight) skipped, afterSlot_last]
    refine ⟨flush (BeforeFlush.flushes (.of_eq canonical sweep rfl rfl rfl rfl rfl rfl)), ?_, by simp, by simp, by simp⟩
    rw [settleArea_area_holding, beginFlush_eq, resumeFlush_holding]
    rfl
  · refine ⟨_, exec_slotRead size flight, ?_⟩
    rw [treatSlot_posted (s := s.endFlight) ready, postedSlot_takes good code]
    refine ⟨⟨?_, ?_, ?_⟩, wants_settleArea _ (by simp [takeOrder, orderOf])⟩
    · rw [settleArea_area_sweep]
      change Option.map _ (Option.map _ s.area.sweep) = _
      rw [sweep]
      rfl
    · rw [settleArea_area_blocked]
      rfl
    · rw [settleArea_area_converged]
      rfl
  · refine ⟨_, exec_slotRead size flight, ?_⟩
    have waited (reason : OrderReason) :
        let t := ((s.endFlight.completeUntaken 15 (bytes.getD 0 0) reason).awaitSlot 15).settleArea
        waits t (.slotWrite 15) 0 ∧ t.Wants (.slotResult 15) := by
      obtain ⟨_, stands, wants⟩ := (FailsUntaken.of_complete (s := s.endFlight) 15 (bytes.getD 0 0) reason).running running
      obtain ⟨blocked, decided⟩ := failing_waits (s := s.endFlight) running 15 (bytes.getD 0 0) reason
      refine ⟨⟨?_, blocked, decided⟩, wants⟩
      rw [stands]
      change Option.map _ s.area.sweep = _
      rw [sweep]
      rfl
    rw [treatSlot_posted (s := s.endFlight) ready]
    cases check : slotCheck bytes with
    | false =>
      rw [postedSlot_badCheck check]
      exact waited _
    | true =>
      rw [postedSlot_badKind check (bad.resolve_left (by simp [check]))]
      exact waited _
  · refine ⟨_, exec_slotRead size flight, ?_⟩
    rw [treatSlot_posted (s := s.endFlight) ready]
    cases check : slotCheck bytes with
    | false =>
      rw [postedSlot_badCheck check]
      exact flush (failing_flushes canonical sweep other none _ _)
    | true =>
      rw [postedSlot_badKind check (bad.resolve_left (by simp [check]))]
      exact flush (failing_flushes canonical sweep other none _ _)
  · refine ⟨_, exec_handOver listed taken, fun written => ?_, fun none => flush (handOver_flushes canonical sweep kind last none)⟩
    rw [← last] at written ⊢
    exact handOver_waits sweep kind written
  · refine ⟨_, exec_slotState flight, ?_⟩
    rw [resumeSweep_waited (s := s.endFlight.closeCompletion 15) sweep phase, afterSlot_last]
    refine ⟨flush (BeforeFlush.flushes (.of_eq canonical sweep rfl rfl rfl rfl rfl rfl)), ?_⟩
    rw [settleArea_area_holding, beginFlush_eq, resumeFlush_holding]
    rfl
  · refine ⟨_, exec_journalKindRead_taken flight full, page ?_⟩
    rw [slotNotEmpty_untried (s := s.endFlight) untried]
    exact .of_resume kept Iff.rfl (standing phase) (flushed_iff.mpr ⟨rfl, .inr rfl⟩)
  · refine ⟨_, exec_journalKindWritten_record flight (stopping_none untried), page ?_⟩
    rw [retryStopped_none ((recordWritten_area_stopTry (s := s.endFlight)).trans untried),
      recordWritten_closed (s := s.endFlight) (.inr closed)]
    refine .of_resume kept Iff.rfl (standing phase) (flushed_iff.mpr ⟨rfl, .inl ?_⟩)
    exact congrArg List.tail one
  · refine ⟨_, exec_journalKindWritten_record flight (stopping_none untried), ?_⟩
    rw [retryStopped_none ((recordWritten_area_stopTry (s := s.endFlight)).trans untried)]
    have blocked : s.endFlight.recordWritten.area.blocked = false := recordWritten_area_blocked.trans free
    have holding : s.endFlight.recordWritten.area.holding ≠ [] := recordWritten_waits more
    have stays : s.endFlight.recordWritten.flushed = false := by
      rw [← Bool.not_eq_true, flushed_iff, blocked]
      simp [holding]
    rw [resumeFlush_stays stays, settleArea_area_sweep, settleArea_area_converged]
    refine ⟨recordWritten_area_sweep, recordWritten_area_converged,
      settleArea_takes_record _ ?_ blocked recordWritten_area_writer ?_ holding⟩
    · rw [recordWritten_runState]
      exact active
    · exact recordWritten_area_stopTry.trans untried

end Sys2Proof.Machine
end

section
/-! PROOF. O46: a row read, treated by its generations, and the sweep that goes on to the next. -/

namespace Sys2Proof.Machine

namespace State

variable {s : State} {row : RowId}

/-! ### What the Area Interface holds for a row -/

theorem rowMemory_setRowMemory (canonical : Sparse.wf RowMemory.reset s.area.groupRows) (row : RowId) (m : RowMemory) :
    (s.setRowMemory row m).rowMemory row = m := by
  cases row with
  | uplink u =>
    change (s.area.uplinkRows.set u m).get u = m
    simp [Vector.get_eq_getElem]
  | group g => exact Sparse.get_set_same canonical

theorem rowMemory_setRowMemory_other {other : RowId} (differs : other ≠ row) (m : RowMemory) :
    (s.setRowMemory row m).rowMemory other = s.rowMemory other := by
  cases row with
  | uplink u =>
    cases other with
    | uplink v =>
      change (s.area.uplinkRows.set u m).get v = s.area.uplinkRows.get v
      have apart : u.val ≠ v.val := fun same => differs (congrArg RowId.uplink (Fin.ext same.symm))
      simp [Vector.get_eq_getElem, Vector.getElem_set_ne, apart]
    | group g => rfl
  | group g =>
    cases other with
    | uplink v => rfl
    | group h => exact Sparse.get_set_other fun same => differs (congrArg RowId.group same)

/-- The rows and the sweep between `s` and `t`: rows other than `row` and the sweep's number stay, and a sweep that has
seen a changed row has seen it. -/
structure Treats (s t : State) (row : RowId) : Prop where
  others : ∀ other, other ≠ row → t.rowMemory other = s.rowMemory other
  sweep : ∀ r, s.area.sweep = some r → ∃ q, t.area.sweep = some q ∧ q.number = r.number
    ∧ (r.allUnchanged = false → q.allUnchanged = false)

theorem Treats.trans {t v : State} (a : s.Treats t row) (b : t.Treats v row) : s.Treats v row where
  others := fun other differs => (b.others other differs).trans (a.others other differs)
  sweep := fun r sweep => by
    obtain ⟨q, between, number, changed⟩ := a.sweep r sweep
    obtain ⟨p, after, number', changed'⟩ := b.sweep q between
    exact ⟨p, after, number'.trans number, changed' ∘ changed⟩

theorem rowMemory_of_plan {t : State} (plan : t.area.plan = s.area.plan) (other : RowId) :
    t.rowMemory other = s.rowMemory other := by
  unfold rowMemory
  cases other with
  | uplink u => exact (congrArg (fun a : AreaInterface => a.uplinkRows.get u) plan :)
  | group g => exact (congrArg (fun a : AreaInterface => Sparse.get RowMemory.reset a.groupRows g) plan :)

theorem Treats.of_plan {t : State} (plan : t.area.plan = s.area.plan) : s.Treats t row where
  others := fun other _ => rowMemory_of_plan plan other
  sweep := fun r sweep => ⟨r, (congrArg AreaInterface.sweep plan : _).trans sweep, rfl, id⟩

theorem Treats.setRowMemory (m : RowMemory) : s.Treats (s.setRowMemory row m) row where
  others := fun _ differs => rowMemory_setRowMemory_other differs m
  sweep := fun r sweep => ⟨r, by cases row <;> exact sweep, rfl, id⟩

theorem Treats.modifySweep {f : SweepRecord → SweepRecord} (number : ∀ r, (f r).number = r.number)
    (changed : ∀ r, r.allUnchanged = false → (f r).allUnchanged = false) : s.Treats (s.modifySweep f) row where
  others := fun _ _ => rfl
  sweep := fun r sweep => ⟨f r, congrArg (Option.map f) sweep, number r, changed r⟩

theorem Treats.produce (e : Entry) : s.Treats (s.produce e) row := .of_plan (produce_plan s e)

theorem Treats.countHandOver : s.Treats (s.countHandOver row) row :=
  (Treats.setRowMemory _).trans (.modifySweep (fun _ => rfl) fun _ => id)

theorem Treats.countRoomReject (generation : Generation) : s.Treats (s.countRoomReject row generation) row :=
  (Treats.setRowMemory _).trans (.modifySweep (fun _ => rfl) fun _ => id)

theorem Treats.rejectRow (generation : Generation) (why : Rejection) : s.Treats (s.rejectRow row generation why) row :=
  (Treats.countRoomReject generation).trans (.produce _)

theorem Treats.checkRow (generation : Generation) (bytes : List Byte) : s.Treats (s.checkRow row generation bytes) row := by
  unfold State.checkRow
  cases row with
  | uplink u =>
    dsimp only
    split
    · exact .rejectRow _ _
    · split
      · exact .of_plan rfl
      · exact Treats.countHandOver.trans (.of_plan (adoptUplinkRow_plan _ _ _ _))
  | group g =>
    dsimp only
    split
    · exact .rejectRow _ _
    next fields _ =>
      split
      · exact .of_plan rfl
      · have adopted : s.Treats (s.adoptGroupRow g fields generation).1 (.group g) := .of_plan (adoptGroupRow_plan _ _ _ _)
        split
        next t same =>
          rw [same] at adopted
          exact adopted.trans .countHandOver
        next t same =>
          rw [same] at adopted
          exact adopted.trans (.countRoomReject _)

/-! ### The cases of R151 -/

variable {bytes : List Byte}

theorem treatRow_torn (torn : headGeneration bytes ≠ tailGeneration bytes) :
    s.treatRow row bytes = s.tornRow row (headGeneration bytes) (tailGeneration bytes) := by
  unfold treatRow
  exact if_pos torn

theorem treatRow_unchanged (whole : headGeneration bytes = tailGeneration bytes)
    (same : headGeneration bytes = s.liveGeneration row) : s.treatRow row bytes = s.setRowMemory row RowMemory.reset := by
  unfold treatRow
  dsimp only
  rw [if_neg (not_not.mpr whole), if_pos same]

theorem treatRow_standing (whole : headGeneration bytes = tailGeneration bytes)
    (differs : headGeneration bytes ≠ s.liveGeneration row)
    (rejected : (s.rowMemory row).lastRejected = some (headGeneration bytes)) : s.treatRow row bytes =
      (s.setRowMemory row { s.rowMemory row with tornCount := 0 }).modifySweep SweepRecord.changed := by
  unfold treatRow
  dsimp only
  rw [if_neg (not_not.mpr whole), if_neg differs, if_pos rejected]

theorem treatRow_changed (whole : headGeneration bytes = tailGeneration bytes)
    (differs : headGeneration bytes ≠ s.liveGeneration row)
    (fresh : (s.rowMemory row).lastRejected ≠ some (headGeneration bytes)) :
    s.treatRow row bytes = s.changedRow row (headGeneration bytes) bytes := by
  unfold treatRow
  dsimp only
  rw [if_neg (not_not.mpr whole), if_neg differs, if_neg fresh]

/-- The row's torn count cleared, and the sweep no longer all unchanged. -/
def seenChanged (s : State) (row : RowId) : State :=
  (s.setRowMemory row { s.rowMemory row with tornCount := 0 }).modifySweep SweepRecord.changed

theorem changedRow_held (held : s.control.hold = true) (generation : Generation) : s.changedRow row generation bytes =
    (s.seenChanged row).modifySweep fun r => { r with deferred := r.deferred + 1 } := by
  unfold changedRow
  dsimp only
  exact if_pos (by cases row <;> exact held)

theorem changedRow_checked (free : s.control.hold = false) (generation : Generation) : s.changedRow row generation bytes =
    (s.seenChanged row).checkRow row generation bytes := by
  unfold changedRow
  dsimp only
  exact if_neg (by cases row <;> simpa using free)

theorem tornRow_counts (few : (s.rowMemory row).tornCount < 7) (head tail : Generation) : s.tornRow row head tail =
    (s.modifySweep fun r => { r.changed with torn := r.torn + 1 }).setRowMemory row
      { s.rowMemory row with tornCount := (s.rowMemory row).tornCount + 1 } := by
  unfold tornRow
  dsimp only
  exact if_pos (show (s.rowMemory row).tornCount + 1 < 8 by omega)

theorem tornRow_rejects (many : 7 ≤ (s.rowMemory row).tornCount) (head tail : Generation) : s.tornRow row head tail =
    (((s.modifySweep fun r => { r.changed with torn := r.torn + 1 }).setRowMemory row
      { s.rowMemory row with tornCount := 0 }).modifySweep fun r => { r with rejected := r.rejected + 1 }).produce
        (.rowRejected row .torn head tail 0) := by
  unfold tornRow
  dsimp only
  exact if_neg (show ¬(s.rowMemory row).tornCount + 1 < 8 by omega)

/-! ### The sweep goes on (R146) -/

/-- The phase after a row. -/
def nextPhase (s : State) : RowId → SweepPhase
  | .uplink u => if h : u.val + 1 < 32 then .uplinkRow ⟨u.val + 1, h⟩
    else if 0 < s.area.groupCount then .groupRow 0 else .slotRead 0
  | .group g => if g + 1 < s.area.groupCount then .groupRow (g + 1) else .slotRead 0

/-- The access of that phase. -/
def nextRead (s : State) : RowId → AreaAccess
  | .uplink u => if h : u.val + 1 < 32 then .rowRead (.uplink ⟨u.val + 1, h⟩)
    else if 0 < s.area.groupCount then .rowRead (.group 0) else .slotRead 0
  | .group g => if g + 1 < s.area.groupCount then .rowRead (.group (g + 1)) else .slotRead 0

theorem afterRow_eq (row : RowId) : s.afterRow row = s.sweepTo (s.nextPhase row) (s.nextRead row) := by
  unfold afterRow nextPhase nextRead
  cases row with
  | uplink u =>
    dsimp only
    split
    · rfl
    · split <;> rfl
  | group g =>
    dsimp only
    split <;> rfl

theorem nextPhase_of_groupCount {t : State} (same : t.area.groupCount = s.area.groupCount) (row : RowId) :
    t.nextPhase row = s.nextPhase row := by
  unfold nextPhase
  rw [same]

theorem nextRead_of_groupCount {t : State} (same : t.area.groupCount = s.area.groupCount) (row : RowId) :
    t.nextRead row = s.nextRead row := by
  unfold nextRead
  rw [same]

/-- The end of the event of a row read. -/
def rowDone (s : State) (row : RowId) (bytes : List Byte) : State := ((s.endFlight.treatRow row bytes).afterRow row).settleArea

theorem exec_rowRead (size : bytes.length = 128) (flight : s.inFlight = some (.rowRead row)) :
    exec (.rowReadDone bytes) s = .next (s.rowDone row bytes) := by
  change execRowReadDone bytes s = _
  unfold execRowReadDone
  rw [if_neg (by simp [size]), flight]
  rfl

theorem treatRow_groupCount : (s.treatRow row bytes).area.groupCount = s.area.groupCount :=
  (congrArg Outside.groupCount (Event.treatRow s row bytes).outside :)

theorem rowDone_eq : s.rowDone row bytes =
    ((s.endFlight.treatRow row bytes).sweepTo (s.nextPhase row) (s.nextRead row)).settleArea := by
  have same : (s.endFlight.treatRow row bytes).area.groupCount = s.area.groupCount := treatRow_groupCount
  unfold rowDone
  rw [afterRow_eq, nextPhase_of_groupCount same, nextRead_of_groupCount same]

/-! What the sweep's going on and the end of the event leave of what the row's treatment made. -/

theorem rowDone_rowMemory (other : RowId) :
    (s.rowDone row bytes).rowMemory other = (s.endFlight.treatRow row bytes).rowMemory other := by
  rw [rowDone_eq, settleArea_eq]
  rfl

theorem rowDone_sweep {q : SweepRecord} (sweep : (s.endFlight.treatRow row bytes).area.sweep = some q) :
    (s.rowDone row bytes).area.sweep = some { q with phase := s.nextPhase row } := by
  rw [rowDone_eq, settleArea_area_sweep]
  exact congrArg (Option.map _) sweep

theorem rowDone_wants : (s.rowDone row bytes).Wants (s.nextRead row) := by
  rw [rowDone_eq]
  exact (sweepTo_settleArea _ _ _).2

theorem rowDone_reports {e : Entry} (h : (s.endFlight.treatRow row bytes).Reports s.now e) :
    (s.rowDone row bytes).Reports s.now e := by
  rw [rowDone_eq]
  exact State.Reports.settleArea (h.of_eq rfl rfl)

theorem rowDone_conduits_hold : (s.rowDone row bytes).conduits.hold = s.conduits.hold := by
  have event : s.Event (s.rowDone row bytes) := (((Event.endFlight s).trans (.treatRow _ _ _)).trans (.afterRow _ _)).trans
    (.settleArea _)
  exact (congrArg Outside.conduitHold event.outside :)

theorem rowDone_settings : (s.rowDone row bytes).control.settings = s.control.settings := by simp [rowDone]

theorem rowDone_memory : (s.rowDone row bytes).store.memory = s.store.memory := by simp [rowDone]

theorem Treats.tornRow (head tail : Generation) : s.Treats (s.tornRow row head tail) row := by
  have counted : s.Treats (s.modifySweep fun r => { r.changed with torn := r.torn + 1 }) row :=
    .modifySweep (fun _ => rfl) fun _ _ => rfl
  by_cases few : (s.rowMemory row).tornCount < 7
  · rw [tornRow_counts few]
    exact counted.trans (.setRowMemory _)
  · rw [tornRow_rejects (Nat.not_lt.mp few)]
    refine Treats.trans ?_ (.produce _)
    exact (counted.trans (.setRowMemory _)).trans (.modifySweep (fun _ => rfl) fun _ => id)

theorem Treats.seenChanged : s.Treats (s.seenChanged row) row :=
  (Treats.setRowMemory _).trans (.modifySweep (fun _ => rfl) fun _ _ => rfl)

theorem Treats.treatRow : s.Treats (s.treatRow row bytes) row := by
  unfold State.treatRow
  dsimp only
  split
  · exact .tornRow _ _
  split
  · exact .setRowMemory _
  split
  · exact .seenChanged
  unfold State.changedRow
  dsimp only
  split
  · exact Treats.seenChanged.trans (.modifySweep (fun _ => rfl) fun _ => id)
  · exact Treats.seenChanged.trans (.checkRow _ _)

/-- Only the rows' memories, the sweep and the records changed. -/
structure Untouched (s t : State) : Prop where
  monitor : t.monitor = s.monitor
  groups : t.groups = s.groups
  store : t.store = s.store
  engine : t.engine = s.engine
  port : t.port = s.port
  conduits : t.conduits = s.conduits
  slotHolds : t.area.slotHolds = s.area.slotHolds

theorem rowDone_untouched (h : s.endFlight.Untouched (s.endFlight.treatRow row bytes)) :
    (s.rowDone row bytes).monitor = s.monitor ∧ (s.rowDone row bytes).groups = s.groups
      ∧ (s.rowDone row bytes).store = s.store ∧ (s.rowDone row bytes).engine = s.engine
      ∧ (s.rowDone row bytes).port = s.port ∧ (s.rowDone row bytes).conduits = s.conduits
      ∧ (s.rowDone row bytes).area.slotHolds = s.area.slotHolds := by
  obtain ⟨monitor, groups, store, engine, port, conduits, slotHolds⟩ := h
  rw [rowDone_eq]
  simp [monitor, groups, store, engine, port, conduits, slotHolds]

theorem Untouched.trans {t v : State} (a : s.Untouched t) (b : t.Untouched v) : s.Untouched v :=
  ⟨b.monitor.trans a.monitor, b.groups.trans a.groups, b.store.trans a.store, b.engine.trans a.engine,
    b.port.trans a.port, b.conduits.trans a.conduits, b.slotHolds.trans a.slotHolds⟩

theorem Untouched.setRowMemory (m : RowMemory) : s.Untouched (s.setRowMemory row m) := by
  cases row <;> exact ⟨rfl, rfl, rfl, rfl, rfl, rfl, rfl⟩

theorem Untouched.modifySweep (f : SweepRecord → SweepRecord) : s.Untouched (s.modifySweep f) :=
  ⟨rfl, rfl, rfl, rfl, rfl, rfl, rfl⟩

theorem Untouched.produce (e : Entry) : s.Untouched (s.produce e) :=
  ⟨by simp, by simp, by simp, by simp, by simp, by simp, by simp⟩

theorem Untouched.seenChanged : s.Untouched (s.seenChanged row) := (Untouched.setRowMemory _).trans (.modifySweep _)

theorem Untouched.tornRow (head tail : Generation) : s.Untouched (s.tornRow row head tail) := by
  by_cases few : (s.rowMemory row).tornCount < 7
  · rw [tornRow_counts few]
    exact (Untouched.modifySweep _).trans (.setRowMemory _)
  · rw [tornRow_rejects (Nat.not_lt.mp few)]
    exact (((Untouched.modifySweep _).trans (.setRowMemory _)).trans (.modifySweep _)).trans (.produce _)

/-- The state after the sweep's counts `f` and the row's memory `m`. -/
theorem rowMemory_counted (canonical : s.Canonical) (m : RowMemory) (f : SweepRecord → SweepRecord) :
    ((s.setRowMemory row m).modifySweep f).rowMemory row = m := rowMemory_setRowMemory canonical.2.2.2 row m

theorem rowMemory_seenChanged (canonical : s.Canonical) :
    (s.seenChanged row).rowMemory row = { s.rowMemory row with tornCount := 0 } := rowMemory_counted canonical _ _

theorem sweep_setRowMemory (m : RowMemory) : (s.setRowMemory row m).area.sweep = s.area.sweep := by
  cases row <;> rfl

end State

open State in
/-- Settles O46: torn, unchanged, rejected before, deferred, or handed on to its checks. -/
theorem rowReadIsTreatedByItsGenerations : Obligations.RowReadIsTreatedByItsGenerations := by
  unfold Obligations.RowReadIsTreatedByItsGenerations
  intro s bytes row r canonical size flight sweep head tail m standing changed next read
  have executes := exec_rowRead size flight
  have phase : s.nextPhase row = next := by cases row <;> rfl
  have wants : (s.rowDone row bytes).Wants read := by
    have reads : s.nextRead row = read := by cases row <;> rfl
    rw [← reads]
    exact rowDone_wants
  have others (other : RowId) (differs : other ≠ row) : (s.rowDone row bytes).rowMemory other = s.rowMemory other :=
    (rowDone_rowMemory other).trans ((Treats.treatRow (s := s.endFlight)).others other differs)
  by_cases whole : head = tail
  · by_cases same : head = s.liveGeneration row
    · have treated := treatRow_unchanged (s := s.endFlight) whole same
      have memory : (s.rowDone row bytes).rowMemory row = RowMemory.reset := by
        rw [rowDone_rowMemory, treated]
        exact rowMemory_setRowMemory (s := s.endFlight) canonical.2.2.2 row _
      have after : (s.rowDone row bytes).area.sweep = some { r with phase := s.nextPhase row } := by
        refine rowDone_sweep ?_
        rw [treated, sweep_setRowMemory]
        exact sweep
      obtain ⟨monitor, groups, store, engine, port, conduits, slotHolds⟩ := rowDone_untouched (s := s) (row := row)
        (bytes := bytes) (by rw [treated]; exact .setRowMemory _)
      refine ⟨_, _, executes, after, phase, rfl, wants, rowDone_conduits_hold, rowDone_settings, rowDone_memory, others,
        fun h => ?_, fun _ => ⟨monitor, groups, store, engine, port, conduits, rfl, slotHolds⟩, fun h => absurd whole h,
        fun h => absurd whole h, fun _ _ => ⟨memory, rfl, rfl, rfl, rfl⟩, fun h => absurd same h.2.1,
        fun h => absurd same h.2.1⟩
      exact h.elim (absurd whole) (absurd same)
    · have seen : (s.endFlight.seenChanged row).area.sweep = some r.changed :=
        congrArg (Option.map SweepRecord.changed) (a₂ := some r) ((sweep_setRowMemory _).trans sweep)
      by_cases before : m.lastRejected = some head
      · have treated := treatRow_standing (s := s.endFlight) whole same before
        have memory : (s.rowDone row bytes).rowMemory row = { m with tornCount := 0 } := by
          rw [rowDone_rowMemory, treated]
          exact rowMemory_seenChanged (s := s.endFlight) canonical
        have after : (s.rowDone row bytes).area.sweep = some { r.changed with phase := s.nextPhase row } := by
          refine rowDone_sweep ?_
          rw [treated]
          exact seen
        obtain ⟨monitor, groups, store, engine, port, conduits, slotHolds⟩ := rowDone_untouched (s := s) (row := row)
          (bytes := bytes) (by rw [treated]; exact .seenChanged)
        exact ⟨_, _, executes, after, phase, rfl, wants, rowDone_conduits_hold, rowDone_settings, rowDone_memory, others,
          fun _ => rfl, fun _ => ⟨monitor, groups, store, engine, port, conduits, rfl, slotHolds⟩, fun h => absurd whole h,
          fun h => absurd whole h, fun _ h => absurd h same, fun _ => ⟨memory, rfl, rfl⟩, fun h => absurd before h.2.2⟩
      · have treated := treatRow_changed (s := s.endFlight) whole same before
        cases held : s.control.hold with
        | true =>
          rw [changedRow_held (s := s.endFlight) held] at treated
          have memory : (s.rowDone row bytes).rowMemory row = { m with tornCount := 0 } := by
            rw [rowDone_rowMemory, treated]
            exact rowMemory_seenChanged (s := s.endFlight) canonical
          have after : (s.rowDone row bytes).area.sweep =
              some { r.changed with deferred := r.deferred + 1, phase := s.nextPhase row } := by
            refine rowDone_sweep (q := { r.changed with deferred := r.deferred + 1 }) ?_
            rw [treated]
            exact congrArg (Option.map _) seen
          obtain ⟨monitor, groups, store, engine, port, conduits, slotHolds⟩ := rowDone_untouched (s := s) (row := row)
            (bytes := bytes) (by rw [treated]; exact Untouched.seenChanged.trans (.modifySweep _))
          exact ⟨_, _, executes, after, phase, rfl, wants, rowDone_conduits_hold, rowDone_settings, rowDone_memory, others,
            fun _ => rfl, fun _ => ⟨monitor, groups, store, engine, port, conduits, rfl, slotHolds⟩,
            fun h => absurd whole h, fun h => absurd whole h, fun _ h => absurd h same, fun h => absurd h.2.2 before,
            fun _ _ => ⟨memory, rfl, rfl⟩⟩
        | false =>
          rw [changedRow_checked (s := s.endFlight) held] at treated
          obtain ⟨q, checked, number, changed'⟩ := (Treats.checkRow (s := s.endFlight.seenChanged row) (row := row) head
            bytes).sweep _ seen
          rw [← treated] at checked
          exact ⟨_, _, executes, rowDone_sweep checked, phase, number, wants, rowDone_conduits_hold, rowDone_settings,
            rowDone_memory, others, fun _ => changed' rfl, fun h => absurd ⟨whole, same, before⟩ (h.resolve_right (by simp)),
            fun h => absurd whole h, fun h => absurd whole h, fun _ h => absurd h same, fun h => absurd h.2.2 before,
            fun _ h => absurd h (by simp)⟩
  · have treated := treatRow_torn (s := s.endFlight) (row := row) whole
    obtain ⟨monitor, groups, store, engine, port, conduits, slotHolds⟩ := rowDone_untouched (s := s) (row := row)
      (bytes := bytes) (by rw [treated]; exact .tornRow _ _)
    by_cases few : m.tornCount < 7
    · rw [tornRow_counts (s := s.endFlight) few] at treated
      have memory : (s.rowDone row bytes).rowMemory row = { m with tornCount := m.tornCount + 1 } := by
        rw [rowDone_rowMemory, treated]
        exact rowMemory_setRowMemory (s := s.endFlight.modifySweep _) canonical.2.2.2 row _
      have after : (s.rowDone row bytes).area.sweep = some { r.changed with torn := r.torn + 1, phase := s.nextPhase row } := by
        refine rowDone_sweep (q := { r.changed with torn := r.torn + 1 }) ?_
        rw [treated, sweep_setRowMemory]
        exact congrArg (Option.map _) sweep
      exact ⟨_, _, executes, after, phase, rfl, wants, rowDone_conduits_hold, rowDone_settings, rowDone_memory, others,
        fun _ => rfl, fun _ => ⟨monitor, groups, store, engine, port, conduits, rfl, slotHolds⟩,
        fun _ _ => ⟨memory, rfl, rfl⟩, fun _ many => absurd few (Nat.not_lt.mpr many), fun h => absurd h whole,
        fun h => absurd h.1 whole, fun h => absurd h.1 whole⟩
    · rw [tornRow_rejects (s := s.endFlight) (Nat.not_lt.mp few)] at treated
      have memory : (s.rowDone row bytes).rowMemory row = { m with tornCount := 0 } := by
        rw [rowDone_rowMemory, treated, rowMemory_of_plan (produce_plan _ _)]
        exact rowMemory_counted (s := s.endFlight.modifySweep _) canonical _ _
      have after : (s.rowDone row bytes).area.sweep =
          some { r.changed with torn := r.torn + 1, rejected := r.rejected + 1, phase := s.nextPhase row } := by
        refine rowDone_sweep (q := { r.changed with torn := r.torn + 1, rejected := r.rejected + 1 }) ?_
        rw [treated, produce_area_sweep]
        refine congrArg (Option.map _) (a₂ := some { r.changed with torn := r.torn + 1 }) ?_
        rw [sweep_setRowMemory]
        exact congrArg (Option.map _) sweep
      have reports : (s.rowDone row bytes).Reports s.now (.rowRejected row .torn head tail 0) := by
        refine rowDone_reports ?_
        rw [treated]
        cases row <;> exact produce_reports _ _
      exact ⟨_, _, executes, after, phase, rfl, wants, rowDone_conduits_hold, rowDone_settings, rowDone_memory, others,
        fun _ => rfl, fun _ => ⟨monitor, groups, store, engine, port, conduits, rfl, slotHolds⟩,
        fun _ h => absurd h few, fun _ _ => ⟨memory, rfl, rfl, reports⟩, fun h => absurd h whole,
        fun h => absurd h.1 whole, fun h => absurd h.1 whole⟩

end Sys2Proof.Machine
end

section
/-! PROOF. O47: the checks of a changed row (R152, R171). -/

namespace Sys2Proof.Machine

/-! ### The first field out of its range -/

theorem firstBad_none {fields : List (Nat × Bool)} (good : ∀ p ∈ fields, p.2 = true) : firstBad fields = none := by
  induction fields with
  | nil => rfl
  | cons p t ih =>
    obtain ⟨offset, passes⟩ := p
    have first : passes = true := good _ List.mem_cons_self
    subst first
    exact ih fun q hq => good q (List.mem_cons_of_mem _ hq)

theorem firstBad_some {before : List (Nat × Bool)} (good : ∀ p ∈ before, p.2 = true) (offset : Nat)
    (after : List (Nat × Bool)) : firstBad (before ++ (offset, false) :: after) = some offset := by
  induction before with
  | nil => rfl
  | cons p t ih =>
    obtain ⟨first, passes⟩ := p
    have good' : passes = true := good _ List.mem_cons_self
    subst good'
    exact ih fun q hq => good q (List.mem_cons_of_mem _ hq)

/-! ### Uplink rows -/

/-- A field with its range is checked. -/
def ranged (f : Nat × Nat × Nat × Nat) : Nat × Bool := (f.1, inRange f.2.2.1 f.2.2.2 f.2.1)

theorem ranged_good {f : Nat × Nat × Nat × Nat} : (ranged f).2 = true ↔ f.2.2.1 ≤ f.2.1 ∧ f.2.1 ≤ f.2.2.2 := inRange_iff _ _ _

theorem checkUplinkRow_badCheck {bytes : List Byte} (bad : areaCheck bytes = false) :
    checkUplinkRow bytes = .error { reason := .badCheck, detail1 := 0, detail2 := 0 } := by
  unfold checkUplinkRow
  exact if_pos (by simp [bad])

theorem checkUplinkRow_empty {bytes : List Byte} (check : areaCheck bytes = true) (kind : byteAt bytes 4 = 0) :
    checkUplinkRow bytes = .ok { kind := .empty, params := UplinkParams.default } := by
  unfold checkUplinkRow
  rw [if_neg (by simp [check]), if_pos kind]

theorem checkUplinkRow_badKind {bytes : List Byte} (check : areaCheck bytes = true) (kind : 2 < byteAt bytes 4) :
    checkUplinkRow bytes = .error { reason := .badField, detail1 := 4, detail2 := 0 } := by
  have bad : inRange 1 2 (byteAt bytes 4) = false := by
    rw [← Bool.not_eq_true, inRange_iff]
    omega
  unfold checkUplinkRow
  rw [if_neg (by simp [check]), if_neg (by omega), if_pos (by simp [bad])]
  rfl

theorem checkUplinkRow_fields {bytes : List Byte} (check : areaCheck bytes = true)
    (kind : byteAt bytes 4 = 1 ∨ byteAt bytes 4 = 2) : checkUplinkRow bytes =
      match firstBad (uplinkRowFields bytes) with
      | some offset => .error { reason := .badField, detail1 := offset, detail2 := 0 }
      | none => .ok { kind := if byteAt bytes 4 = 1 then .enabled else .disabled, params := uplinkRowParams bytes } := by
  have good : inRange 1 2 (byteAt bytes 4) = true := (inRange_iff _ _ _).mpr (by omega)
  unfold checkUplinkRow
  rw [if_neg (by simp [check]), if_neg (by omega), if_neg (by simp [good])] <;> rfl

theorem uplinkRowFields_eq (bytes : List Byte) : uplinkRowFields bytes =
    [(5, byteAt bytes 5, 0, 1), (6, byteAt bytes 6, 0, 31), (7, byteAt bytes 7, 2, 15),
      (14, byteAt bytes 14 + 256 * byteAt bytes (14 + 1), 1, 1000), (18, byteAt bytes 18 + 256 * byteAt bytes (18 + 1), 0, 1000),
      (20, byteAt bytes 20 + 256 * byteAt bytes (20 + 1), 1, 600), (22, byteAt bytes 22, 1, 255),
      (23, byteAt bytes 23, 2, 15)].map ranged := by
  unfold uplinkRowFields
  rw [areaField_two, areaField_two, areaField_two]
  rfl

/-! ### Group rows -/

theorem inRange_eq (low high n : Nat) : inRange low high n = decide (low ≤ n ∧ n ≤ high) := by simp [inRange]

theorem checkGroupRow_badCheck {bytes : List Byte} (bad : areaCheck bytes = false) (groupCount g : Nat) :
    checkGroupRow groupCount g bytes = .error { reason := .badCheck, detail1 := 0, detail2 := 0 } := by
  unfold checkGroupRow
  exact if_pos (by simp [bad])

theorem checkGroupRow_empty {bytes : List Byte} (check : areaCheck bytes = true) (kind : byteAt bytes 4 = 0)
    (groupCount g : Nat) : checkGroupRow groupCount g bytes = .ok none := by
  unfold checkGroupRow
  rw [if_neg (by simp [check]), if_pos kind]

theorem checkGroupRow_badKind {bytes : List Byte} (check : areaCheck bytes = true) (kind : 1 < byteAt bytes 4)
    (groupCount g : Nat) :
    checkGroupRow groupCount g bytes = .error { reason := .badField, detail1 := 4, detail2 := 0 } := by
  unfold checkGroupRow
  rw [if_neg (by simp [check]), if_neg (by omega), if_pos (by omega)]
  rfl

theorem checkGroupRow_badField {bytes : List Byte} {groupCount offset : Nat} (check : areaCheck bytes = true)
    (kind : byteAt bytes 4 = 1) (bad : firstBad (groupRowFields groupCount bytes) = some offset) (g : Nat) :
    checkGroupRow groupCount g bytes = .error { reason := .badField, detail1 := offset, detail2 := 0 } := by
  unfold checkGroupRow
  rw [if_neg (by simp [check]), if_neg (by omega), if_neg (by omega), bad]
  rfl

theorem checkGroupRow_good {bytes : List Byte} {groupCount : Nat} (check : areaCheck bytes = true)
    (kind : byteAt bytes 4 = 1) (good : firstBad (groupRowFields groupCount bytes) = none) (g : Nat) :
    checkGroupRow groupCount g bytes =
      match firstDuplicate [] ((groupRowContents bytes).members.map (·.uplink)) with
      | some (i, j) => .error { reason := .dupMember, detail1 := i, detail2 := j }
      | none =>
        if (groupRowContents bytes).escape = some g then .error { reason := .selfEscape, detail1 := 0, detail2 := 0 }
        else .ok (some (groupRowContents bytes)) := by
  unfold checkGroupRow
  rw [if_neg (by simp [check]), if_neg (by omega), if_neg (by omega), good] <;> rfl

/-! ### Two slots with one uplink (R152 check 4) -/

theorem firstDuplicate_none (seen : List (Fin 32)) {l : List (Fin 32)} (distinct : (seen ++ l).Nodup) :
    firstDuplicate seen l = none := by
  induction l generalizing seen with
  | nil => rfl
  | cons u t ih =>
    have apart : u ∉ seen := fun mem => (List.nodup_append.mp distinct).2.2 u mem u List.mem_cons_self rfl
    unfold firstDuplicate
    rw [if_neg (by simpa using apart)]
    exact ih _ (by simpa using distinct)

theorem firstDuplicate_some (seen : List (Fin 32)) {before : List (Fin 32)} {u : Fin 32} (after : List (Fin 32))
    (distinct : (seen ++ before).Nodup) (again : u ∈ seen ++ before) :
    firstDuplicate seen (before ++ u :: after) = some ((seen ++ before).idxOf u, (seen ++ before).length) := by
  induction before generalizing seen with
  | nil =>
    rw [List.append_nil] at again ⊢
    change firstDuplicate seen (u :: after) = _
    unfold firstDuplicate
    exact if_pos (by simpa using again)
  | cons v t ih =>
    have apart : v ∉ seen := fun mem => (List.nodup_append.mp distinct).2.2 v mem v List.mem_cons_self rfl
    rw [List.cons_append]
    unfold firstDuplicate
    rw [if_neg (by simpa using apart)]
    have rest := ih (seen ++ [v]) (by simpa using distinct) (by simpa using again)
    simpa using rest

/-- The uplinks of a group row's slots. -/
def slotUplinks (bytes : List Byte) : List (Fin 32) :=
  (List.range (byteAt bytes 5)).map fun k => Fin.ofNat 32 (byteAt bytes (12 + 4 * k))

theorem members_uplink (bytes : List Byte) : (groupRowContents bytes).members.map (·.uplink) = slotUplinks bytes := by
  unfold groupRowContents slotUplinks
  rw [List.map_map]
  rfl

/-- Slots `i` and `j` of a group row hold one uplink. -/
def SameUplink (bytes : List Byte) (i j : Nat) : Prop :=
  i < j ∧ j < byteAt bytes 5 ∧ byteAt bytes (12 + 4 * i) = byteAt bytes (12 + 4 * j)

/-- Each slot's uplink is in range. -/
def UplinksInRange (bytes : List Byte) : Prop := ∀ k, k < byteAt bytes 5 → byteAt bytes (12 + 4 * k) ≤ 31

variable {bytes : List Byte}

theorem slotUplinks_length : (slotUplinks bytes).length = byteAt bytes 5 := by simp [slotUplinks]

theorem slotUplinks_getElem {k : Nat} (below : k < (slotUplinks bytes).length) :
    (slotUplinks bytes)[k] = Fin.ofNat 32 (byteAt bytes (12 + 4 * k)) := by simp [slotUplinks]

theorem slotUplinks_eq_iff (inRange : UplinksInRange bytes) {i j : Nat} (hi : i < (slotUplinks bytes).length)
    (hj : j < (slotUplinks bytes).length) : (slotUplinks bytes)[i] = (slotUplinks bytes)[j] ↔
      byteAt bytes (12 + 4 * i) = byteAt bytes (12 + 4 * j) := by
  rw [slotUplinks_getElem, slotUplinks_getElem]
  rw [slotUplinks_length] at hi hj
  have first := inRange i hi
  have second := inRange j hj
  refine ⟨fun same => ?_, fun same => by rw [same]⟩
  have values := congrArg Fin.val same
  simp only [Fin.ofNat] at values
  omega

/-- Below a slot without an earlier double the uplinks are distinct. -/
theorem take_slotUplinks_nodup (inRange : UplinksInRange bytes) (j : Nat) (none : ∀ k l, l < j → ¬SameUplink bytes k l) :
    ((slotUplinks bytes).take j).Nodup := by
  rw [List.nodup_iff_pairwise_ne, List.pairwise_iff_getElem]
  intro k l hk hl below
  rw [List.getElem_take, List.getElem_take, ne_eq, slotUplinks_eq_iff inRange]
  rw [List.length_take, slotUplinks_length] at hl
  exact fun same => none k l (by omega) ⟨below, by omega, same⟩

theorem firstDuplicate_slots_none (inRange : UplinksInRange bytes) (none : ∀ i j, ¬SameUplink bytes i j) :
    firstDuplicate [] (slotUplinks bytes) = Option.none := by
  refine firstDuplicate_none [] ?_
  have distinct := take_slotUplinks_nodup inRange (slotUplinks bytes).length fun k l _ => none k l
  rwa [List.take_length] at distinct

theorem firstDuplicate_slots_some (inRange : UplinksInRange bytes) {i j : Nat} (same : SameUplink bytes i j)
    (first : ∀ k l, l < j → ¬SameUplink bytes k l) : firstDuplicate [] (slotUplinks bytes) = some (i, j) := by
  obtain ⟨below, within, equal⟩ := same
  rw [← slotUplinks_length] at within
  have distinct := take_slotUplinks_nodup inRange j first
  have length : ((slotUplinks bytes).take j).length = j := by rw [List.length_take]; omega
  have value : ((slotUplinks bytes).take j)[i]'(by omega) = (slotUplinks bytes)[j] := by
    rw [List.getElem_take]
    exact (slotUplinks_eq_iff inRange _ _).mpr equal
  have split : slotUplinks bytes =
      (slotUplinks bytes).take j ++ (slotUplinks bytes)[j] :: (slotUplinks bytes).drop (j + 1) := by
    rw [← List.drop_eq_getElem_cons within, List.take_append_drop]
  have found := firstDuplicate_some [] ((slotUplinks bytes).drop (j + 1)) (before := (slotUplinks bytes).take j)
    (u := (slotUplinks bytes)[j]) distinct (by rw [← value]; exact List.getElem_mem _)
  rw [← split, List.nil_append, length, ← value, distinct.idxOf_getElem] at found
  exact found

/-! ### The fields of a group row -/

theorem groupRowFields_eq (groupCount : Nat) (bytes : List Byte) : groupRowFields groupCount bytes =
    [(5, decide (1 ≤ byteAt bytes 5 ∧ byteAt bytes 5 ≤ 16)), (6, decide (byteAt bytes 6 ≤ 4)),
      (8, !(bytes.getD 7 0).getLsbD 1 || decide (byteAt bytes 8 + 256 * byteAt bytes 9 < groupCount))]
    ++ (List.range (byteAt bytes 5)).flatMap fun k =>
      [(12 + 4 * k, decide (byteAt bytes (12 + 4 * k) ≤ 31)),
       (13 + 4 * k, decide (1 ≤ byteAt bytes (13 + 4 * k) ∧ byteAt bytes (13 + 4 * k) ≤ 8)),
       (14 + 4 * k, decide (byteAt bytes (14 + 4 * k) ≤ 1))] := by
  unfold groupRowFields
  simp only [inRange_eq, areaField_two, Nat.zero_le, true_and]
  rfl

theorem uplinksInRange_of_good {groupCount : Nat} (good : ∀ p ∈ groupRowFields groupCount bytes, p.2 = true) :
    UplinksInRange bytes := by
  intro k below
  have uplink := good (12 + 4 * k, decide (byteAt bytes (12 + 4 * k) ≤ 31)) (by
    rw [groupRowFields_eq]
    exact List.mem_append_right _ (List.mem_flatMap.mpr ⟨k, List.mem_range.mpr below, List.mem_cons_self⟩))
  simpa using uplink

theorem groupRowContents_eq (bytes : List Byte) : groupRowContents bytes =
    { members := (List.range (byteAt bytes 5)).map fun k =>
        { uplink := Fin.ofNat 32 (byteAt bytes (12 + 4 * k)), weight := byteAt bytes (13 + 4 * k)
          role := if byteAt bytes (14 + 4 * k) = 0 then .primary else .standby }
      bucketSize := 64 * 2 ^ byteAt bytes 6
      revertive := (bytes.getD 7 0).getLsbD 0
      escape := if (bytes.getD 7 0).getLsbD 1 then some (byteAt bytes 8 + 256 * byteAt bytes 9) else none } := by
  unfold groupRowContents
  rw [areaField_two]
  rfl

/-- Settles O47: the sum of an area structure, the checks of an uplink row, and those of a group row. -/
theorem planRowsAreChecked : Obligations.PlanRowsAreChecked := by
  unfold Obligations.PlanRowsAreChecked
  refine ⟨fun bytes size => ?_, fun bytes size => ?_, fun bytes groupCount g size => ?_⟩
  · intro field word total
    have words : (areaHalfWords bytes).sum = total := by
      rw [areaHalfWords_eq, size]
    rw [areaCheck_iff, words]
  · intro field word fields good
    refine ⟨checkUplinkRow_badCheck, fun check => ⟨checkUplinkRow_empty check, checkUplinkRow_badKind check,
      fun before f after kind split goods bad => ?_, fun kind goods => ?_⟩⟩
    · have first : firstBad (uplinkRowFields bytes) = some f.1 := by
        have failing : ranged f = (f.1, false) := by
          rw [Prod.ext_iff]
          exact ⟨rfl, Bool.eq_false_iff.mpr fun h => bad (ranged_good.mp h)⟩
        rw [uplinkRowFields_eq]
        change firstBad (fields.map ranged) = _
        rw [split, List.map_append, List.map_cons, failing]
        refine firstBad_some (fun p mem => ?_) f.1 _
        obtain ⟨q, listed, rfl⟩ := List.mem_map.mp mem
        exact ranged_good.mpr (goods q listed)
      rw [checkUplinkRow_fields check kind, first]
    · have none : firstBad (uplinkRowFields bytes) = none := by
        rw [uplinkRowFields_eq]
        refine firstBad_none fun p mem => ?_
        obtain ⟨q, listed, rfl⟩ := List.mem_map.mp mem
        exact ranged_good.mpr (goods q listed)
      rw [checkUplinkRow_fields check kind, none]
      dsimp only
      unfold uplinkRowParams
      rw [areaField_two, areaField_two, areaField_two, areaField_two, areaField_eight]
      rfl
  · intro field escape present check fields passes same
    have read : groupRowFields groupCount bytes = fields := groupRowFields_eq groupCount bytes
    refine ⟨fun bad => checkGroupRow_badCheck bad _ _, fun check kind => checkGroupRow_empty check kind _ _,
      fun check kind => checkGroupRow_badKind check kind _ _, fun before offset after check kind split goods => ?_,
      fun i j ⟨check, kind, good⟩ equal _ first => ?_, fun ⟨check, kind, good⟩ distinct escapes self => ?_,
      fun ⟨check, kind, good⟩ distinct other => ?_⟩
    · refine checkGroupRow_badField check kind ?_ _
      rw [read, split]
      exact firstBad_some goods offset after
    · have inRange : UplinksInRange bytes := uplinksInRange_of_good (groupCount := groupCount) (by rwa [read])
      have passed := checkGroupRow_good check kind (by rw [read]; exact firstBad_none good) g
      rw [members_uplink, firstDuplicate_slots_some inRange equal first] at passed
      exact passed
    · have inRange : UplinksInRange bytes := uplinksInRange_of_good (groupCount := groupCount) (by rwa [read])
      have passed := checkGroupRow_good check kind (by rw [read]; exact firstBad_none good) g
      rw [members_uplink, firstDuplicate_slots_none inRange distinct, groupRowContents_eq] at passed
      refine passed.trans (if_pos ?_)
      exact (if_pos escapes).trans (congrArg some self)
    · have inRange : UplinksInRange bytes := uplinksInRange_of_good (groupCount := groupCount) (by rwa [read])
      have passed := checkGroupRow_good check kind (by rw [read]; exact firstBad_none good) g
      rw [members_uplink, firstDuplicate_slots_none inRange distinct, groupRowContents_eq] at passed
      refine passed.trans (if_neg fun (h : (if present then some escape else none) = some g) => ?_)
      rcases other with absent | differs
      · rw [if_neg (by simp [absent])] at h
        cases h
      · split at h
        · exact differs (Option.some.inj h)
        · cases h

end Sys2Proof.Machine
end

section
/-! PROOF. O53: the addresses and the bytes of the area accesses (R143, R145, R170; spec 12). -/

namespace Sys2Proof.Machine

/-! ### Bytes of a number (R170) -/

/-- Byte `i` of a number is its quotient by `256 ^ i`, as a field of a structure is laid out. -/
theorem leBytes_eq (n v : Nat) : leBytes n v = (List.range n).map fun i => BitVec.ofNat 8 (v / 256 ^ i) := by
  induction n generalizing v with
  | zero => rfl
  | succ n ih =>
    have low : BitVec.ofNat 8 (v % 256) = BitVec.ofNat 8 (v / 256 ^ 0) := BitVec.eq_of_toNat_eq (by simp)
    rw [leBytes, ih, List.range_succ_eq_map, List.map_cons, List.map_map, low]
    refine congrArg _ (List.map_congr_left fun i _ => ?_)
    rw [Function.comp_apply, Nat.succ_eq_add_one, Nat.pow_succ', Nat.div_div_eq_div_mul]

theorem byte_eq_leBytes (b : Byte) : [b] = leBytes 1 b.toNat := by
  rw [leBytes_one]
  exact congrArg (fun b : Byte => [b]) (BitVec.eq_of_toNat_eq (by simp))

theorem boolCode_eq (b : Bool) : boolCode b = b.toNat := by cases b <;> rfl

theorem groupCode_eq (g : Option Nat) : groupCode g = g.getD 0xFFFF := by cases g <;> rfl

theorem slotCode_eq (k : Option Nat) : slotCode k = k.getD 0xFF := by cases k <;> rfl

theorem timeCode_eq (t : Option PartTime) : timeCode t = (t.getD 0).toNat := by cases t <;> rfl

/-! ### Structures laid out (spec 12.3 to 12.5) -/

theorem completion_bytes_layOut (c : Completion) :
    c.bytes = layOut 32 ([(0, 1, c.reason.code), (4, 4, c.time.toNat)] ++ c.results.layout 8) := by
  unfold Completion.bytes Results.bytes
  simp only [leBytes_eq]
  rfl

theorem snapshotEntry_layOut (b : Bucket) :
    snapshotEntry b = layOut 4 [(0, 1, b.home), (1, 1, b.current), (2, 1, b.faulted.toNat)] := by
  unfold snapshotEntry
  rw [boolCode_eq]
  simp only [leBytes_eq]
  rfl

/-- A journal record, kind by kind (spec 12.4). -/
theorem record_bytes_layOut (r : Record) : r.kindByte ++ r.body = layOut 32 ((4, 4, r.time.toNat) :: r.entry.layout) := by
  obtain ⟨time, entry⟩ := r
  unfold Record.kindByte Record.body
  dsimp only
  cases entry with
  | rowAdopted row | rowRejected row =>
    cases row <;>
    · simp only [Entry.fields, leBytes_eq]
      rfl
  | orderEnded slot kind failed reason results =>
    cases slot <;>
    · simp only [Entry.fields, Results.bytes, byte_eq_leBytes, leBytes_eq]
      rfl
  | _ =>
    simp only [Entry.fields, boolCode_eq, groupCode_eq, timeCode_eq, leBytes_eq]
    rfl

theorem uplinkEntry_layOut (s : State) (u : Fin 32) : s.uplinkEntry u = layOut 32
    [(0, 1, (s.uplink u).state.code), (1, 1, causeCode (s.uplink u).darkCause), (2, 1, (s.uplink u).missCount),
      (3, 1, (s.uplink u).blindCount), (4, 1, (s.uplink u).runCount), (5, 1, (s.uplink u).flaps.length),
      (6, 1, (s.shadowed u).toNat), (8, 4, s.store.loads.get u), (12, 4, (s.uplink u).generation.toNat)] := by
  unfold State.uplinkEntry
  simp only [boolCode_eq, leBytes_eq]
  rfl

theorem groupEntry_layOut (s : State) (g : Nat) : s.groupEntry g = layOut 16
    [(0, 1, (s.group g).state.code), (1, 1, (s.group g).reported.code), (2, 1, (s.group g).rebuild.isSome.toNat),
      (3, 1, (s.group g).pin.getD 0xFF), (4, 4, (s.group g).adoptedGeneration.toNat),
      (8, 4, match (s.group g).rebuild with | none => 0 | some b => b.generation.toNat)] := by
  unfold State.groupEntry
  simp only [boolCode_eq, slotCode_eq, leBytes_eq]
  rfl

/-- Beyond its last field a structure is 0. -/
theorem layOut_pad {fields : List (Nat × Nat × Nat)} {n : Nat} (within : ∀ f ∈ fields, f.1 + f.2.1 ≤ n) (k : Nat) :
    layOut (n + k) fields = layOut n fields ++ reserved k := by
  have beyond (j : Nat) : (fields.find? fun f => decide (f.1 ≤ n + j) && decide (n + j < f.1 + f.2.1)) = none := by
    rw [List.find?_eq_none]
    intro f listed covered
    have last := within f listed
    simp only [Bool.and_eq_true, decide_eq_true_eq] at covered
    omega
  unfold layOut reserved
  rw [List.range_add, List.map_append, List.map_map]
  refine congrArg _ (List.eq_replicate_iff.mpr ⟨by simp, fun b member => ?_⟩)
  obtain ⟨j, _, value⟩ := List.mem_map.mp member
  rw [Function.comp_apply, beyond j] at value
  exact value.symm

theorem globalPart_layOut (s : State) : s.globalPart = layOut 248
    [(0, 1, if s.area.adoptPage then 1 else s.control.runState.code), (1, 1, s.area.converged.toNat),
      (2, 1, s.area.holding.length), (4, 4, s.now.toNat), (8, 2, s.freeBlockCount), (10, 2, s.freeIndexEntries),
      (12, 2, s.area.position), (14, 2, s.area.gapCount), (16, 1, s.engine.urgent.length),
      (17, 1, s.engine.restore.length), (18, 2, s.engine.intake.length)] := by
  rw [layOut_pad (n := 20) (by simp) 228]
  unfold State.globalPart
  simp only [boolCode_eq, leBytes_eq]
  rfl

/-! ### The accesses (R143, R145) -/

theorem address_add (base : BitVec 64) (offset n : Nat) :
    base + BitVec.ofNat 64 (offset + n) = base + BitVec.ofNat 64 offset + BitVec.ofNat 64 n := by
  rw [BitVec.ofNat_add, BitVec.add_assoc]

namespace State

variable {s : State}

/-- The record being written: the STOPPED record once it is tried, else the head of the queue (R158, R166). -/
theorem journalRecord_eq {r : Record} (writing : s.area.stopTry = some { record := r, begun := true }
    ∨ (s.area.holding.head? = some r ∧ (s.area.stopTry.all fun t => !t.begun) = true)) : s.journalRecord = some r := by
  unfold journalRecord
  rcases writing with tried | ⟨head, waits⟩
  · rw [tried]
    rfl
  · cases stopTry : s.area.stopTry with
    | none => exact head
    | some t =>
      rw [stopTry] at waits
      exact (if_neg (by simpa using waits)).trans head

/-- The address of a write of the page. -/
theorem accessAddress_page {part offset : Nat} (stands : pageOffset s.area.groupCount part = offset) :
    s.accessAddress (.pageWrite part) = s.area.base
      + BitVec.ofNat 64 (5376 + 128 * s.area.groupCount + 32 * s.area.journalLength + offset) := by
  rw [← stands]
  rfl

theorem pageOffset_uplink (groupCount : Nat) (u : Fin 32) : pageOffset groupCount (2 + u.val) = 256 + 32 * u.val := by
  have small := u.isLt
  unfold pageOffset
  rw [if_neg (by omega), if_neg (by omega), if_pos (by omega), Nat.add_sub_cancel_left]

theorem pageOffset_group {groupCount g : Nat} (below : g < groupCount) : pageOffset groupCount (34 + g) = 1280 + 16 * g := by
  unfold pageOffset lastPagePart
  rw [if_neg (by omega), if_neg (by omega), if_neg (by omega), if_pos (by omega), Nat.add_sub_cancel_left]

theorem pageOffset_last (groupCount : Nat) : pageOffset groupCount (34 + groupCount) = 252 := by
  unfold pageOffset lastPagePart
  rw [if_neg (by omega), if_neg (by omega), if_neg (by omega), if_neg (by omega)]

theorem pagePart_uplink (u : Fin 32) : s.pagePart (2 + u.val) = s.uplinkEntry u := by
  have small := u.isLt
  have same : Fin.ofNat 32 u.val = u := Fin.ext (Nat.mod_eq_of_lt small)
  unfold pagePart
  rw [if_neg (by omega), if_neg (by omega), if_pos (by omega), Nat.add_sub_cancel_left, same]

theorem pagePart_group {g : Nat} (below : g < s.area.groupCount) : s.pagePart (34 + g) = s.groupEntry g := by
  unfold pagePart lastPagePart
  rw [if_neg (by omega), if_neg (by omega), if_neg (by omega), if_pos (by omega), Nat.add_sub_cancel_left]

theorem pagePart_last : s.pagePart (34 + s.area.groupCount) = leBytes 4 s.area.sweepNumber.toNat := by
  unfold pagePart lastPagePart
  rw [if_neg (by omega), if_neg (by omega), if_neg (by omega), if_neg (by omega)]

theorem sweepNumber_layOut : leBytes 4 s.area.sweepNumber.toNat = layOut 4 [(0, 4, s.area.sweepNumber.toNat)] := by
  rw [leBytes_eq]
  rfl

end State

open State in
/-- Settles O53: the grant, then access by access its address and its bytes, and the codes of spec 12.1. -/
theorem areaWritesCarryTheirBytes : Obligations.AreaWritesCarryTheirBytes := by
  unfold Obligations.AreaWritesCarryTheirBytes
  refine ⟨fun s a rest free waiting => grantArea_of_waiting s free waiting, fun s u g => ?_, fun s k => ?_,
    fun s r writing => ?_, fun s slot address entry last => ⟨rfl, rfl⟩, snapshotEntry_layOut, fun s => ?_, ?_⟩
  · refine ⟨?_, rfl, rfl, rfl, rfl, rfl⟩
    exact BitVec.add_zero _
  · refine ⟨rfl, rfl, address_add _ _ 1, rfl, address_add _ _ 32, address_add _ _ 1, fun c found => ⟨?_, ?_⟩⟩
    · unfold accessData
      dsimp only
      rw [found]
      exact completion_bytes_layOut c
    · unfold accessData
      dsimp only
      rw [found]
      dsimp only
      unfold Completion.stateByte
      cases c.failed <;> rfl
  · have record := journalRecord_eq writing
    refine ⟨rfl, rfl, address_add _ _ 1, ?_, ?_⟩
    · unfold accessData
      dsimp only
      rw [record]
      exact record_bytes_layOut r
    · unfold accessData
      dsimp only
      rw [record]
      rfl
  · refine ⟨⟨accessAddress_page rfl, sweepNumber_layOut⟩, ⟨accessAddress_page rfl, globalPart_layOut s⟩,
      fun u => ⟨accessAddress_page (pageOffset_uplink _ u), (pagePart_uplink u).trans (uplinkEntry_layOut s u)⟩,
      fun g below => ⟨accessAddress_page (pageOffset_group below), (pagePart_group below).trans (groupEntry_layOut s g)⟩,
      ⟨accessAddress_page (pageOffset_last _), pagePart_last.trans sweepNumber_layOut⟩⟩
  · exact ⟨rfl, rfl, rfl, rfl, rfl, rfl, rfl, rfl, rfl, rfl, rfl, rfl, rfl⟩

end Sys2Proof.Machine
end

section
/-! PROOF. The owner table (R76 to R79), and what an event writes to the journal apart from the groups and the engine
(R159, R161, R162). -/

namespace Sys2Proof.Machine

namespace State

variable (s : State)

/-! ### The owner table (R76, R78, R79) -/

theorem setOwners_eq (entry : Nat → Owner) : ∀ (blocks : List Nat) (n : Nat) (s : State), s.setOwners entry blocks n =
    { s with store := { s.store with owners := (s.setOwners entry blocks n).store.owners } }
  | [], _, _ => rfl
  | k :: rest, n, s => setOwners_eq entry rest (n + 1) (s.setOwner k (entry n))

theorem setOwners_canonical (entry : Nat → Owner) : ∀ (blocks : List Nat) (n : Nat) (s : State),
    Sparse.wf Owner.free s.store.owners → Sparse.wf Owner.free (s.setOwners entry blocks n).store.owners
  | [], _, _, h => h
  | k :: rest, n, s, h => setOwners_canonical entry rest (n + 1) (s.setOwner k (entry n)) (Sparse.set_wf h)

theorem setOwners_owner_other (entry : Nat → Owner) {k : Nat} : ∀ (blocks : List Nat) (n : Nat) (s : State),
    k ∉ blocks → (s.setOwners entry blocks n).owner k = s.owner k
  | [], _, _, _ => rfl
  | j :: rest, n, s, apart => by
    rw [List.mem_cons, not_or] at apart
    exact (setOwners_owner_other entry rest (n + 1) (s.setOwner j (entry n)) apart.2).trans
      (Sparse.get_set_other apart.1)

theorem setOwners_owner_at (entry : Nat → Owner) {i k : Nat} : ∀ (blocks : List Nat) (n : Nat) (s : State),
    Sparse.wf Owner.free s.store.owners → blocks.Nodup → blocks[i]? = some k →
      (s.setOwners entry blocks n).owner k = entry (n + i)
  | [], _, _, _, _, found => by simp at found
  | j :: rest, n, s, canonical, distinct, found => by
    have canonical' : Sparse.wf Owner.free (s.setOwner j (entry n)).store.owners := Sparse.set_wf canonical
    obtain ⟨apart, distinct⟩ := List.nodup_cons.mp distinct
    cases i with
    | zero =>
      obtain rfl : j = k := by simpa using found
      exact (setOwners_owner_other entry rest (n + 1) (s.setOwner j (entry n)) apart).trans
        (Sparse.get_set_same canonical)
    | succ i =>
      have here := setOwners_owner_at entry rest (n + 1) (s.setOwner j (entry n)) canonical' distinct
        (by simpa using found)
      rwa [Nat.add_right_comm] at here

/-- Blocks set to one owner have it, whether listed once or more often. -/
theorem setOwners_owner_const (o : Owner) {k : Nat} : ∀ (blocks : List Nat) (n : Nat) (s : State),
    Sparse.wf Owner.free s.store.owners →
      (s.setOwners (fun _ => o) blocks n).owner k = if k ∈ blocks then o else s.owner k
  | [], _, _, _ => rfl
  | j :: rest, n, s, canonical => by
    have rest := setOwners_owner_const o (k := k) rest (n + 1) (s.setOwner j o) (Sparse.set_wf canonical)
    refine rest.trans ?_
    by_cases same : k = j
    · subst same
      have set : (s.setOwner k o).owner k = o := Sparse.get_set_same canonical
      simp [set]
    · have kept : (s.setOwner j o).owner k = s.owner k := Sparse.get_set_other same
      simp [kept, same]

variable {s}

theorem freeBlocks_owner (canonical : Sparse.wf Owner.free s.store.owners) (blocks : List Nat) (k : Nat) :
    (s.freeBlocks blocks).owner k = if k ∈ blocks then .free else s.owner k :=
  setOwners_owner_const .free blocks 0 s canonical

theorem freeBlocks_eq (blocks : List Nat) : s.freeBlocks blocks =
    { s with store := { s.store with owners := (s.freeBlocks blocks).store.owners } } := setOwners_eq _ _ _ _

theorem freeBlocks_canonical (canonical : Sparse.wf Owner.free s.store.owners) (blocks : List Nat) :
    Sparse.wf Owner.free (s.freeBlocks blocks).store.owners := setOwners_canonical _ _ _ _ canonical

/-! ### The journal side of an event -/

/-- The state without its groups and its engine. -/
def bare (s : State) : State := { s with engine := WalkEngine.reset, groups := [] }

/-- What a part of an event that may change groups and engine brings beside: the records of `l`, URGENT where `urgent`
says so, GAP and the attention interrupt as their rules give (R159, R161, R162). -/
def Logs (s t : State) (l : List Entry) (urgent : Bool) : Prop := s.bare.Brings t.bare id (fun _ => false) l urgent

variable {t v : State} {l m : List Entry} {a b : Bool}

theorem Logs.trans (x : s.Logs t l a) (y : t.Logs v m b) : s.Logs v (l ++ m) (a || b) :=
  (Brings.trans x y).congr rfl (fun _ => rfl) rfl rfl

theorem Logs.quiet (control : t.control = s.control) (area : t.area = s.area) : s.Logs t [] false :=
  Brings.quiet control rfl rfl (congrArg (·.holding) area) (congrArg (·.gapCount) area) (congrArg (·.firstDrop) area)
    (congrArg (·.lastDrop) area)

/-- What is logged does not depend on groups, engine, store or port. -/
theorem Logs.from {s' : State} (x : s'.Logs t l a) (control : s'.control = s.control) (area : s'.area = s.area) :
    s.Logs t l a := (Logs.quiet control area).trans x

theorem Logs.to (x : s.Logs t l a) (control : v.control = t.control) (area : v.area = t.area) : s.Logs v l a := by
  simpa using x.trans (.quiet control area)

theorem produce_bare (e : Entry) : (s.produce e).bare = s.bare.produce e := by
  unfold produce bare
  split
  · rfl
  · dsimp only
    split <;> rfl

theorem Logs.produce (e : Entry) : s.Logs (s.produce e) [e] false := by
  have produced := Brings.produce (s := s.bare) e
  rwa [← produce_bare] at produced

theorem Logs.urgent : s.Logs (s.setCause .urgent) [] true := Brings.urgent (s := s.bare)

theorem Logs.settleArea (x : s.Logs t l a) : s.Logs t.settleArea l a := by
  have quiet : t.Logs t.settleArea [] false := Brings.quiet (settleArea_control t) rfl rfl (settleArea_area_holding t)
    (settleArea_area_gapCount t) (settleArea_area_firstDrop t) (settleArea_area_lastDrop t)
  simpa using x.trans quiet

theorem Logs.completeOrder (slot : Option (Fin 16)) (kind : OrderKind) (failed : Bool) (reason : OrderReason)
    (results : Results) : s.Logs (s.completeOrder slot kind failed reason results)
      (s.ending slot kind failed reason results) false := by
  unfold State.completeOrder State.ending
  cases s.held slot with
  | none => exact .produce _
  | some k =>
    dsimp only
    split
    · exact Brings.quiet rfl rfl rfl rfl rfl rfl rfl
    · have dropped : s.Logs (s.dropHold k) [] false := Brings.quiet rfl rfl rfl rfl rfl rfl rfl
      exact dropped.trans (.produce _)

theorem Logs.produced (x : s.Logs t l a) : s.Produced t l :=
  let brings : s.bare.Brings t.bare _ _ l a := x
  brings.produced

theorem Logs.cause (x : s.Logs t l a) : t.control.cause = s.control.cause ||| (if a then 2 else 0)
    ||| (if s.area.gapCount = 0 ∧ t.area.gapCount ≠ 0 then 8 else 0) :=
  let brings : s.bare.Brings t.bare _ _ l a := x
  brings.cause

theorem Logs.interrupts (x : s.Logs t l a) : t.control.interruptsSent = s.control.interruptsSent
    + if s.control.cause &&& s.control.causeEn = 0 ∧ t.control.cause &&& s.control.causeEn ≠ 0 then 1 else 0 :=
  let brings : s.bare.Brings t.bare _ _ l a := x
  brings.interrupts

/-! ### The end of a snapshot (R91, R131, R137) -/

/-- The records of the end of a snapshot of group `g` with RUN_REPLACED (R156). -/
def replacedRecords (s : State) (g : Nat) : List Entry :=
  match s.store.snapshot with
  | none => []
  | some n => if n.group = g then s.ending (some n.slot) .snapshot true .runReplaced
      { r1 := BitVec.ofNat 32 n.next, r2 := 0, r3 := 0, r4 := 0 } else []

variable {g : Nat}

theorem replaceSnapshot_none (none : s.store.snapshot = none) : s.replaceSnapshot g = s := by
  unfold replaceSnapshot
  rw [none]

theorem replaceSnapshot_other {n : SnapshotRecord} (some : s.store.snapshot = some n) (other : n.group ≠ g) :
    s.replaceSnapshot g = s := by
  unfold replaceSnapshot
  simp only [some, if_neg other]

theorem replaceSnapshot_ends {n : SnapshotRecord} (some : s.store.snapshot = some n) (same : n.group = g) :
    s.replaceSnapshot g = ((s.completeOrder (.some n.slot) .snapshot true .runReplaced
      { r1 := BitVec.ofNat 32 n.next, r2 := 0, r3 := 0, r4 := 0 }).setSnapshot none).discardAccess (· == .snapshot) := by
  unfold replaceSnapshot
  simp only [some, if_pos same]
  rfl

theorem Logs.replaceSnapshot : s.Logs (s.replaceSnapshot g) (s.replacedRecords g) false := by
  unfold replacedRecords
  cases snapshot : s.store.snapshot with
  | none =>
    rw [replaceSnapshot_none snapshot]
    exact .quiet rfl rfl
  | some n =>
    by_cases same : n.group = g
    · rw [replaceSnapshot_ends snapshot same]
      dsimp only
      rw [if_pos same]
      exact (Logs.completeOrder _ _ _ _ _).to rfl rfl
    · rw [replaceSnapshot_other snapshot same]
      dsimp only
      rw [if_neg same]
      exact .quiet rfl rfl

/-- A snapshot of the group is no more, and its order has completed; one of another group goes on. -/
theorem replaceSnapshot_snapshot : (∀ n, s.store.snapshot = some n → n.group = g →
      (s.replaceSnapshot g).store.snapshot = none
      ∧ s.Completes (s.replaceSnapshot g) (some n.slot) .snapshot true .runReplaced
          { r1 := BitVec.ofNat 32 n.next, r2 := 0, r3 := 0, r4 := 0 })
    ∧ ∀ n, s.store.snapshot = some n → n.group ≠ g → (s.replaceSnapshot g).store.snapshot = some n := by
  refine ⟨fun n snapshot same => ?_, fun n snapshot other => ?_⟩
  · rw [replaceSnapshot_ends snapshot same]
    exact ⟨rfl, completeOrder_completes s _ _ _ _ _⟩
  · rw [replaceSnapshot_other snapshot other]
    exact snapshot

end State

end Sys2Proof.Machine
end

section
/-! PROOF. O42: the flip (R137, R138). -/

namespace Sys2Proof.Machine

/-! ### Pins (R71) -/

/-- The pin after a flip: kept where its slot still holds the same uplink. -/
def keptPin (pin : Option Nat) (old new : GroupFields) : Option Nat :=
  pin.filter fun slot => decide (old.uplinkOf slot ≠ none ∧ new.uplinkOf slot = old.uplinkOf slot)

theorem keptPin_stays {slot : Nat} {old new : GroupFields} {u : Fin 32} (before : old.uplinkOf slot = some u)
    (after : new.uplinkOf slot = some u) : keptPin (some slot) old new = some slot := by
  simp [keptPin, Option.filter_some, before, after]

theorem keptPin_lapses {slot : Nat} {old new : GroupFields}
    (changed : old.uplinkOf slot = none ∨ new.uplinkOf slot ≠ old.uplinkOf slot) : keptPin (some slot) old new = none := by
  rcases changed with before | after
  · simp [keptPin, Option.filter_some, before]
  · simp [keptPin, Option.filter_some, after]

/-- The record of a pin that a flip of group `g` to generation `generation` lets lapse. -/
def lapsedRecords (pin : Option Nat) (old new : GroupFields) (g : Nat) (generation : Generation) : List Entry :=
  match pin with
  | none => []
  | some slot => match old.uplinkOf slot with
    | none => []
    | some u => if new.uplinkOf slot = some u then [] else [.pinLapsed g slot u generation]

/-- The records of the comparison of a group's strandedness (R65). -/
def comparedRecords (r : GroupRecord) (fields : GroupFields) (stranded : Bool) (g : Nat) (now : PartTime) : List Entry :=
  match r.reported, stranded with
  | .active, true => [.groupStranded g fields.escape r.adoptedGeneration]
  | .stranded, false => [.groupRecovered g r.adoptedGeneration (span (r.strandedSince.getD now) now / 1000)]
  | _, _ => []

/-- The intake queue once a settle pass of group `g` is offered: absorbed where it waits (R119). -/
def passQueued (intake : List IntakeItem) (g : Nat) : List IntakeItem :=
  if .settlePass g ∈ intake then intake else intake ++ [.settlePass g]

theorem mem_passQueued (intake : List IntakeItem) (g : Nat) : .settlePass g ∈ passQueued intake g := by
  unfold passQueued
  split
  · assumption
  · simp

/-- A group's record after the flip to the run of rebuild `b`. -/
def GroupRecord.flipped (r : GroupRecord) (b : Rebuild) : GroupRecord :=
  { r with
    adoptedGeneration := b.generation, liveGeneration := b.generation
    live := some { fields := b.staged, blocks := b.blocks }, rebuild := none }

namespace State

variable {s : State} {g : Nat} {b : Rebuild} {old : Option LiveRun} {run : LiveRun}

theorem checkPin_groups (canonical : Sparse.wf GroupRecord.reset s.groups) (old new : GroupFields) :
    (∀ h, (s.checkPin g old new).group h =
      if h = g then { s.group g with pin := keptPin (s.group g).pin old new } else s.group h)
    ∧ Sparse.wf GroupRecord.reset (s.checkPin g old new).groups := by
  have kept (same : keptPin (s.group g).pin old new = (s.group g).pin) (h : Nat) : s.group h =
      if h = g then { s.group g with pin := keptPin (s.group g).pin old new } else s.group h := by
    rw [same]
    split
    · next e => rw [e]
    · rfl
  unfold checkPin
  cases pin : (s.group g).pin with
  | none => exact ⟨by simpa [pin] using kept (by rw [pin]; rfl), canonical⟩
  | some slot =>
    dsimp only
    cases before : old.uplinkOf slot with
    | none =>
      refine ⟨fun h => ?_, Sparse.set_wf canonical⟩
      rw [setGroup_group canonical, keptPin_lapses (.inl before)]
    | some u =>
      dsimp only
      by_cases after : new.uplinkOf slot = some u
      · rw [if_pos after]
        exact ⟨by simpa [pin] using kept (by rw [pin, keptPin_stays before after]), canonical⟩
      · rw [if_neg after]
        refine ⟨fun h => ?_, ?_⟩
        · rw [produce_group, setGroup_group canonical, keptPin_lapses (.inr (by rwa [before]))]
        · rw [produce_groups]
          exact Sparse.set_wf canonical

theorem Logs.checkPin (old new : GroupFields) : s.Logs (s.checkPin g old new)
    (lapsedRecords (s.group g).pin old new g (s.group g).adoptedGeneration) false := by
  unfold State.checkPin lapsedRecords
  cases (s.group g).pin with
  | none => exact .quiet rfl rfl
  | some slot =>
    dsimp only
    cases old.uplinkOf slot with
    | none => exact .quiet rfl rfl
    | some u =>
      dsimp only
      split
      · exact .quiet rfl rfl
      · exact (Logs.produce _).from rfl rfl

theorem Logs.compareStrandedness (live : (s.group g).live = some run) : s.Logs (s.compareStrandedness g)
    (comparedRecords (s.group g) run.fields (run.fields.isStranded s.isUp) g s.now)
    (decide ((s.group g).reported = .active ∧ run.fields.isStranded s.isUp = true)) := by
  unfold comparedRecords
  cases reported : (s.group g).reported <;> cases stranded : run.fields.isStranded s.isUp
  · rw [compareStrandedness_same live (by simp [reported, stranded])]
    exact .quiet rfl rfl
  · rw [compareStrandedness_strands live reported stranded]
    exact ((Logs.produce _).trans .urgent).from rfl rfl
  · rw [compareStrandedness_recovers live reported stranded]
    exact (Logs.produce _).from rfl rfl
  · rw [compareStrandedness_same live (by simp [reported, stranded])]
    exact .quiet rfl rfl

/-! ### The runs exchanged (R80, R109, R137) -/

/-- The store and the engine with the run of a rebuild in place of the old one. -/
def exchangeRuns (s : State) (g : Nat) (b : Rebuild) (old : Option LiveRun) : State :=
  let t := (((s.setOwners (Owner.run g) b.blocks 0).returnRun old).countRun b.staged b.blocks).reindex g (membersOf old)
    b.staged.members
  { t with engine := { t.engine with entriesReserved := t.engine.entriesReserved - b.indexReservation } }

theorem exchangeRuns_control : (s.exchangeRuns g b old).control = s.control := by simp [exchangeRuns]

theorem exchangeRuns_area : (s.exchangeRuns g b old).area = s.area := by simp [exchangeRuns]

theorem exchangeRuns_groups : (s.exchangeRuns g b old).groups = s.groups := by simp [exchangeRuns]

theorem exchangeRuns_snapshot : (s.exchangeRuns g b old).store.snapshot = s.store.snapshot := by
  simp only [exchangeRuns, reindex_store, countRun_store_snapshot]
  cases old <;> simp [returnRun]

theorem exchangeRuns_engine : (s.exchangeRuns g b old).engine = { s.engine with
    index := changeLists (insertGroup g) (uplinksOf b.staged.members)
      (changeLists (removeGroup g) ((uplinksOf (membersOf old)).filter fun u => !hasUplink b.staged.members u)
        s.engine.index)
    entriesInUse := s.engine.entriesInUse + b.staged.members.length - (membersOf old).length
    entriesReserved := s.engine.entriesReserved - b.indexReservation } := by
  simp [exchangeRuns, reindex]

/-- The new run's blocks are its own, and the old run's are free (R137). -/
theorem exchangeRuns_owner (canonical : Sparse.wf Owner.free s.store.owners) (distinct : b.blocks.Nodup)
    (apart : ∀ run, old = some run → ∀ k ∈ run.blocks, k ∉ b.blocks) :
    (∀ i k, b.blocks[i]? = some k → (s.exchangeRuns g b old).owner k = .run g i)
    ∧ ∀ run, old = some run → ∀ k ∈ run.blocks, (s.exchangeRuns g b old).owner k = .free := by
  have set {i k : Nat} (at_ : b.blocks[i]? = some k) : (s.setOwners (Owner.run g) b.blocks 0).owner k = .run g i := by
    simpa using setOwners_owner_at (Owner.run g) b.blocks 0 s canonical distinct at_
  have canonical' := setOwners_canonical (Owner.run g) b.blocks 0 s canonical
  cases old with
  | none => exact ⟨fun i k => set, by simp⟩
  | some run =>
    have freed (k : Nat) : (s.exchangeRuns g b (some run)).owner k =
        if k ∈ run.blocks then .free else (s.setOwners (Owner.run g) b.blocks 0).owner k :=
      freeBlocks_owner (s := (s.setOwners (Owner.run g) b.blocks 0).uncountRun run) canonical' run.blocks k
    refine ⟨fun i k at_ => ?_, fun run' same k inside => ?_⟩
    · rw [freed, if_neg (fun inside => apart run rfl k inside (List.mem_of_getElem? at_)), set at_]
    · obtain rfl : run = run' := Option.some.inj same
      rw [freed, if_pos inside]

/-- The buckets of a run that may not be there whose current member is uplink `u`'s. -/
def oldLoad (old : Option LiveRun) (memory : List (Nat × Bucket)) (u : Fin 32) : Nat :=
  match old with
  | some run => run.load memory u
  | none => 0

theorem returnRun_loads (u : Fin 32) : (s.returnRun old).store.loads.get u =
    s.store.loads.get u - oldLoad old s.store.memory u := by
  cases old with
  | none => rfl
  | some run =>
    change ((s.uncountRun run).freeBlocks run.blocks).store.loads.get u = _
    rw [freeBlocks_store_loads]
    change (subLoads s.store.loads (runUplinks s.store.memory run.fields run.blocks)).get u = _
    rw [subLoads_get, runUplinks_count]
    rfl

theorem exchangeRuns_loads (u : Fin 32) : (s.exchangeRuns g b old).store.loads.get u =
    s.store.loads.get u - oldLoad old s.store.memory u
      + ({ fields := b.staged, blocks := b.blocks } : LiveRun).load s.store.memory u := by
  change (addLoads _ (runUplinks _ b.staged b.blocks)).get u = _
  rw [addLoads_get, returnRun_loads, setOwners_store_loads, setOwners_store_memory, returnRun_store_memory,
    setOwners_store_memory, ← runUplinks_count]

/-- The new members' lists hold the group at its place, those of the other old members hold it no more, and the rest
stay (R109). -/
theorem exchangedIndex_get (index : Vector (List Nat) 32) (old new : List Member) (u : Fin 32) :
    (changeLists (insertGroup g) (uplinksOf new)
      (changeLists (removeGroup g) ((uplinksOf old).filter fun u => !hasUplink new u) index)).get u =
    if ∃ m ∈ new, m.uplink = u then (index.get u).filter (· < g) ++ g :: (index.get u).filter (g < ·)
    else if ∃ m ∈ old, m.uplink = u then (index.get u).filter (· ≠ g) else index.get u := by
  have among (ms : List Member) : u ∈ uplinksOf ms ↔ ∃ m ∈ ms, m.uplink = u := by simp [uplinksOf]
  have has : hasUplink new u = true ↔ ∃ m ∈ new, m.uplink = u := by simp [hasUplink]
  rw [changeLists_get _ (insertGroup_stable g), changeLists_get _ (removeGroup_stable g)]
  by_cases inNew : ∃ m ∈ new, m.uplink = u
  · rw [if_pos ((among new).mpr inNew), if_pos inNew, if_neg (by simp [has.mpr inNew])]
    rfl
  · rw [if_neg (mt (among new).mp inNew), if_neg inNew]
    have notHas : hasUplink new u = false := by simpa using mt has.mp inNew
    simp [notHas, among, removeGroup]

/-! ### The flip, stage by stage -/

/-- The flip's exchange with the group's record and REBUILD_DONE, R137's acts before the checks. -/
def flipRecorded (s : State) (g : Nat) (b : Rebuild) : State :=
  (((s.exchangeRuns g b (s.group g).live).setGroup g ((s.group g).flipped b)).produce
    (.rebuildDone g b.staged.bucketSize b.generation (s.group g).adoptedGeneration (s.now - b.adoptedAt)
      b.blocks.length b.recheck))

/-- The flip with its checks of the pin and the strandedness. -/
def flipChecked (s : State) (g : Nat) (b : Rebuild) : State :=
  ((s.flipRecorded g b).checkPin g (fieldsOf (s.group g).live) b.staged).compareStrandedness g

theorem flip_eq (pending : (s.group g).rebuild = some b) : s.flip g =
    if b.recheck then ((s.flipChecked g b).replaceSnapshot g).offerSettlePass g else (s.flipChecked g b).replaceSnapshot g := by
  have now : (s.exchangeRuns g b (s.group g).live).now = s.now := congrArg (·.now) exchangeRuns_control
  unfold flip
  dsimp only
  rw [pending]
  unfold flipChecked flipRecorded
  rw [← now]
  rfl

theorem exchangeRuns_monitor : (s.exchangeRuns g b old).monitor = s.monitor := by simp [exchangeRuns]

theorem flipRecorded_group (canonical : Sparse.wf GroupRecord.reset s.groups) (h : Nat) :
    (s.flipRecorded g b).group h = if h = g then (s.group g).flipped b else s.group h := by
  have same (h : Nat) : (s.exchangeRuns g b (s.group g).live).group h = s.group h :=
    congrArg (Sparse.get GroupRecord.reset · h) exchangeRuns_groups
  rw [flipRecorded, produce_group, setGroup_group (by rwa [exchangeRuns_groups]), same]

theorem flipRecorded_canonical (canonical : Sparse.wf GroupRecord.reset s.groups) :
    Sparse.wf GroupRecord.reset (s.flipRecorded g b).groups := by
  rw [flipRecorded, produce_groups]
  exact Sparse.set_wf (by rwa [exchangeRuns_groups])

/-- The group's record once the flip has checked its pin. -/
def flippedAndPinned (s : State) (g : Nat) (b : Rebuild) : GroupRecord :=
  { (s.group g).flipped b with pin := keptPin (s.group g).pin (fieldsOf (s.group g).live) b.staged }

theorem flipPinned_groups (canonical : Sparse.wf GroupRecord.reset s.groups) :
    (∀ h, ((s.flipRecorded g b).checkPin g (fieldsOf (s.group g).live) b.staged).group h =
      if h = g then s.flippedAndPinned g b else s.group h)
    ∧ Sparse.wf GroupRecord.reset ((s.flipRecorded g b).checkPin g (fieldsOf (s.group g).live) b.staged).groups := by
  obtain ⟨groups, wf⟩ := checkPin_groups (flipRecorded_canonical (b := b) (g := g) canonical) (fieldsOf (s.group g).live)
    b.staged
  refine ⟨fun h => ?_, wf⟩
  rw [groups, flipRecorded_group canonical, flipRecorded_group canonical, if_pos rfl]
  split <;> rfl

theorem flipPinned_now : ((s.flipRecorded g b).checkPin g (fieldsOf (s.group g).live) b.staged).now = s.now := by
  simp [flipRecorded, exchangeRuns_control]

theorem flipPinned_isUp : ((s.flipRecorded g b).checkPin g (fieldsOf (s.group g).live) b.staged).isUp = s.isUp := by
  have monitor : ((s.flipRecorded g b).checkPin g (fieldsOf (s.group g).live) b.staged).monitor = s.monitor := by
    rw [checkPin_monitor, flipRecorded, produce_monitor, setGroup_monitor, exchangeRuns_monitor]
  unfold isUp uplink
  rw [monitor]

/-- Only the flipped group's record changes. -/
theorem flipChecked_group (canonical : Sparse.wf GroupRecord.reset s.groups) (h : Nat) :
    (s.flipChecked g b).group h = if h = g then
      (s.flippedAndPinned g b).compared (b.staged.isStranded s.isUp) s.now else s.group h := by
  obtain ⟨groups, wf⟩ := flipPinned_groups (g := g) (b := b) canonical
  have record := groups g
  rw [if_pos rfl] at record
  have live : (((s.flipRecorded g b).checkPin g (fieldsOf (s.group g).live) b.staged).group g).live =
      some { fields := b.staged, blocks := b.blocks } := by rw [record]; rfl
  rw [flipChecked, (compareStrandedness_groups wf live).1, record, flipPinned_isUp, flipPinned_now, groups]
  split <;> rfl

/-- The records of a flip before the end of a snapshot (R71, R65, R138). -/
def flipRecords (s : State) (g : Nat) (b : Rebuild) : List Entry :=
  .rebuildDone g b.staged.bucketSize b.generation (s.group g).adoptedGeneration (s.now - b.adoptedAt) b.blocks.length
      b.recheck
    :: (lapsedRecords (s.group g).pin (fieldsOf (s.group g).live) b.staged g b.generation
      ++ comparedRecords (s.flippedAndPinned g b) b.staged (b.staged.isStranded s.isUp) g s.now)

theorem flipChecked_logs (canonical : Sparse.wf GroupRecord.reset s.groups) : s.Logs (s.flipChecked g b) (s.flipRecords g b)
    (decide ((s.group g).reported = .active ∧ b.staged.isStranded s.isUp = true)) := by
  obtain ⟨groups, wf⟩ := flipPinned_groups (g := g) (b := b) canonical
  have record := groups g
  rw [if_pos rfl] at record
  have live : (((s.flipRecorded g b).checkPin g (fieldsOf (s.group g).live) b.staged).group g).live =
      some { fields := b.staged, blocks := b.blocks } := by rw [record]; rfl
  have recorded : s.Logs (s.flipRecorded g b) _ false := (Logs.produce _).from exchangeRuns_control exchangeRuns_area
  have pinned := Logs.checkPin (s := s.flipRecorded g b) (g := g) (fieldsOf (s.group g).live) b.staged
  have compared := Logs.compareStrandedness live
  rw [flipRecorded_group canonical, if_pos rfl] at pinned
  rw [record, flipPinned_isUp, flipPinned_now] at compared
  have all := (recorded.trans pinned).trans compared
  simp only [Bool.false_or, List.append_assoc] at all
  exact all

theorem KeepsOrders.checkPin (old new : GroupFields) : s.KeepsOrders (s.checkPin g old new) := by
  unfold State.checkPin
  split
  · exact .refl s
  · split
    · exact .of_area rfl
    · split
      · exact .refl s
      · exact (KeepsOrders.of_area (t := s.setGroup g _) rfl).trans (.produce _ _)

theorem KeepsOrders.compareStrandedness : s.KeepsOrders (s.compareStrandedness g) := by
  unfold State.compareStrandedness
  dsimp only
  split
  · exact .refl s
  · split
    · exact ((KeepsOrders.of_area (t := s.setGroup g _) rfl).trans (.produce _ _)).trans (.of_area rfl)
    · exact (KeepsOrders.of_area (t := s.setGroup g _) rfl).trans (.produce _ _)
    · exact .refl s

theorem flipChecked_keepsOrders : s.KeepsOrders (s.flipChecked g b) :=
  (((KeepsOrders.of_area (t := (s.exchangeRuns g b (s.group g).live).setGroup g _) exchangeRuns_area).trans
    (.produce _ _)).trans (.checkPin _ _)).trans .compareStrandedness

/-- The store but for the runs is as it was. -/
theorem flipChecked_store : (s.flipChecked g b).store = (s.exchangeRuns g b (s.group g).live).store := by
  simp [flipChecked, flipRecorded]

theorem flipChecked_engine : (s.flipChecked g b).engine = (s.exchangeRuns g b (s.group g).live).engine := by
  simp [flipChecked, flipRecorded]

theorem flipChecked_runState : (s.flipChecked g b).control.runState = s.control.runState := by
  have control := congrArg (·.runState) (exchangeRuns_control (s := s) (g := g) (b := b) (old := (s.group g).live))
  simpa [flipChecked, flipRecorded] using control

theorem flipChecked_now : (s.flipChecked g b).now = s.now :=
  (compareStrandedness_now _ g).trans flipPinned_now

/-- The flip without the settle pass it may queue. -/
theorem flipReplaced_logs (canonical : Sparse.wf GroupRecord.reset s.groups) :
    s.Logs ((s.flipChecked g b).replaceSnapshot g) (s.flipRecords g b ++ s.replacedRecords g)
      (decide ((s.group g).reported = .active ∧ b.staged.isStranded s.isUp = true)) := by
  have replaced := (flipChecked_logs (g := g) (b := b) canonical).trans (Logs.replaceSnapshot (g := g))
  have same : (s.flipChecked g b).replacedRecords g = s.replacedRecords g := by
    unfold replacedRecords
    rw [flipChecked_store, exchangeRuns_snapshot]
    simp only [ending_eq flipChecked_keepsOrders flipChecked_runState]
  rwa [same, Bool.or_false] at replaced

/-- The settle pass that a set recheck flag queues concerns no more than the intake queue (R137). -/
theorem flip_frame (pending : (s.group g).rebuild = some b) :
    (s.flip g).control = ((s.flipChecked g b).replaceSnapshot g).control
    ∧ (s.flip g).area = ((s.flipChecked g b).replaceSnapshot g).area
    ∧ (s.flip g).store = ((s.flipChecked g b).replaceSnapshot g).store
    ∧ (s.flip g).groups = ((s.flipChecked g b).replaceSnapshot g).groups := by
  rw [flip_eq pending]
  split <;> simp

theorem offerSettlePass_engine : (s.offerSettlePass g).engine =
    { s.engine with intake := passQueued s.engine.intake g } := by
  unfold offerSettlePass passQueued
  by_cases waits : .settlePass g ∈ s.engine.intake <;> simp [waits]

theorem flip_engine (pending : (s.group g).rebuild = some b) : (s.flip g).engine =
    { (s.exchangeRuns g b (s.group g).live).engine with
      intake := if b.recheck then passQueued s.engine.intake g else s.engine.intake } := by
  have intake : ((s.flipChecked g b).replaceSnapshot g).engine = (s.exchangeRuns g b (s.group g).live).engine := by
    rw [replaceSnapshot_engine, flipChecked_engine]
  rw [flip_eq pending]
  cases b.recheck
  · simpa [exchangeRuns_engine] using intake
  · rw [if_pos rfl, offerSettlePass_engine, intake]
    simp [exchangeRuns_engine]

theorem flip_group (pending : (s.group g).rebuild = some b) (canonical : Sparse.wf GroupRecord.reset s.groups) (h : Nat) :
    (s.flip g).group h = if h = g then
      (s.flippedAndPinned g b).compared (b.staged.isStranded s.isUp) s.now else s.group h := by
  rw [← flipChecked_group canonical, ← replaceSnapshot_group (s.flipChecked g b) g]
  exact congrArg (Sparse.get GroupRecord.reset · h) (flip_frame pending).2.2.2

theorem flip_owners (pending : (s.group g).rebuild = some b) (k : Nat) :
    (s.flip g).owner k = (s.exchangeRuns g b (s.group g).live).owner k := by
  unfold owner
  rw [(flip_frame pending).2.2.1, replaceSnapshot_store_owners, flipChecked_store]

theorem flip_loads (pending : (s.group g).rebuild = some b) :
    (s.flip g).store.loads = (s.exchangeRuns g b (s.group g).live).store.loads := by
  rw [(flip_frame pending).2.2.1, replaceSnapshot_store_loads, flipChecked_store]

theorem flip_logs (pending : (s.group g).rebuild = some b) (canonical : Sparse.wf GroupRecord.reset s.groups) :
    s.Logs (s.flip g) (s.flipRecords g b ++ s.replacedRecords g)
      (decide ((s.group g).reported = .active ∧ b.staged.isStranded s.isUp = true)) :=
  (flipReplaced_logs canonical).to (flip_frame pending).1 (flip_frame pending).2.1

theorem flip_snapshot (pending : (s.group g).rebuild = some b) :
    (∀ n, s.store.snapshot = some n → n.group = g → (s.flip g).store.snapshot = none
      ∧ s.Completes (s.flip g) (some n.slot) .snapshot true .runReplaced
          { r1 := BitVec.ofNat 32 n.next, r2 := 0, r3 := 0, r4 := 0 })
    ∧ ∀ n, s.store.snapshot = some n → n.group ≠ g → (s.flip g).store.snapshot = some n := by
  obtain ⟨_, area, store, _⟩ := flip_frame pending
  have same : (s.flipChecked g b).store.snapshot = s.store.snapshot := by rw [flipChecked_store, exchangeRuns_snapshot]
  obtain ⟨ends, stays⟩ := replaceSnapshot_snapshot (s := s.flipChecked g b) (g := g)
  rw [same] at ends stays
  rw [store]
  refine ⟨fun n snapshot named => ?_, stays⟩
  obtain ⟨gone, done⟩ := ends n snapshot named
  refine ⟨gone, ?_⟩
  have done := done.from flipChecked_now flipChecked_runState (flipChecked_keepsOrders.held _)
  exact done.of_eq (congrArg (·.completions) area) (congrArg (·.holding) area) (congrArg (·.lastDrop) area)
    (congrArg (·.slotHolds) area)

/-- A flip that has been selected. -/
theorem exec_workSelect_flip {rest : List IntakeItem} (idle : s.engine.work = none) (noUrgent : s.engine.urgent = [])
    (turn : s.engine.restore = [] ∨ s.engine.weight ≤ s.engine.tally) (first : s.engine.intake = .flip g :: rest) :
    exec .workSelect s =
      .next (State.flip { s with engine := { s.engine with intake := rest, tally := 0 } } g).settleArea := by
  have other : s.engine.restore = [] ∨ ¬ (s.engine.intake = [] ∨ s.engine.tally < s.engine.weight) := by
    simpa [first] using turn
  rw [exec_workSelect idle, select_intake _ noUrgent other first, takeIntake, first]
  rfl

end State

/-- The lapsed pin in the words of the statement. -/
theorem lapsedRecords_eq (pin : Option Nat) (live : Option LiveRun) (new : GroupFields) (g : Nat) (generation : Generation) :
    lapsedRecords pin (fieldsOf live) new g generation = match pin with
      | none => []
      | some slot => match (membersOf live)[slot]? with
        | none => []
        | some m => if (new.members[slot]?).map (·.uplink) = some m.uplink then [] else [.pinLapsed g slot m.uplink generation] := by
  have members : (fieldsOf live).members = membersOf live := by cases live <;> rfl
  unfold lapsedRecords GroupFields.uplinkOf
  rw [members]
  cases pin with
  | none => rfl
  | some slot =>
    dsimp only
    cases (membersOf live)[slot]? <;> rfl

/-- The comparison's records in the words of the statement. -/
theorem comparedRecords_eq (r : GroupRecord) (fields : GroupFields) {stranded : Bool} {P : Prop} [Decidable P]
    (holds : stranded = true ↔ P) (g : Nat) (now : PartTime) : comparedRecords r fields stranded g now =
      if r.reported = .active ∧ P then [.groupStranded g fields.escape r.adoptedGeneration]
      else if r.reported = .stranded ∧ ¬P then
        [.groupRecovered g r.adoptedGeneration (span (r.strandedSince.getD now) now / 1000)]
      else [] := by
  simp only [← holds]
  unfold comparedRecords
  cases r.reported <;> cases stranded <;> rfl


/-- Settles O42: the flip stage by stage, from the state whose intake queue has lost the flip. -/
theorem flipReplacesTheLiveRun : Obligations.FlipReplacesTheLiveRun := by
  unfold Obligations.FlipReplacesTheLiveRun
  intro s g b rest canonical idle noUrgent turn first pending distinct apart new oldMembers load among r stranded lapsed
    compared replaced
  obtain ⟨_, owners, groups, _⟩ := canonical
  let v : State := { s with engine := { s.engine with intake := rest, tally := 0 } }
  have pendingV : (v.group g).rebuild = some b := pending
  have holds : b.staged.isStranded v.isUp = true ↔ stranded := State.isStranded_isUp b.staged
  have record := State.flip_group pendingV (b := b) groups g
  rw [if_pos rfl] at record
  have engine := State.flip_engine pendingV
  obtain ⟨owned, freed⟩ := State.exchangeRuns_owner (s := v) (g := g) (b := b) (old := (s.group g).live) owners distinct apart
  obtain ⟨ends, stays⟩ := State.flip_snapshot pendingV
  have logs := (State.flip_logs pendingV groups).settleArea
  have members : membersOf (v.group g).live = oldMembers := by
    change membersOf (s.group g).live = match (s.group g).live with | some run => run.fields.members | none => []
    cases (s.group g).live <;> rfl
  rw [State.exchangeRuns_engine, members] at engine
  have index (u : Fin 32) := State.exchangedIndex_get (g := g) s.engine.index oldMembers b.staged.members u
  have group (h : Nat) : (v.flip g).settleArea.group h = (v.flip g).group h := State.settleArea_group _ _
  have owner (k : Nat) : (v.flip g).settleArea.owner k = (v.flip g).owner k := congrArg (fun b : BucketStore => Sparse.get Owner.free b.owners k) (State.settleArea_store _)
  have pinned : ((v.flip g).group g).pin = keptPin r.pin (fieldsOf r.live) b.staged := by rw [record]; rfl
  have before (slot : Nat) : (fieldsOf r.live).uplinkOf slot = (oldMembers[slot]?).map (·.uplink) := by
    rw [← members]
    change _ = ((membersOf r.live)[slot]?).map (·.uplink)
    cases r.live <;> rfl
  refine ⟨_, State.exec_workSelect_flip idle noUrgent turn first, ?_, ?_, ?_, ?_, ?_, ?_, ?_, ?_, ?_, ?_, ?_,
    fun h other => ?_, fun i k at_ => ?_, fun run live k inside => ?_, fun u => ?_, fun u inside => ?_,
    fun u outside gone => ?_, fun u outside apart => ?_, ?_, ?_, ?_, fun none => ?_, fun slot m pin was => ⟨fun same => ?_,
    fun changed => ?_⟩, fun n snapshot same => ?_, fun n snapshot other => ?_, fun set => ?_, fun clear => ?_, ?_, ?_, ?_, ?_⟩
  · rw [State.settleArea_engine, engine]
    exact idle
  · exact (State.settleArea_port _).trans (State.flip_port _ _)
  · exact (State.settleArea_monitor _).trans (State.flip_monitor _ _)
  · rw [State.settleArea_store]
    exact State.flip_store_memory _ _
  · exact (State.settleArea_conduits _).trans (State.flip_conduits _ _)
  · rw [group, record]
    rfl
  · rw [group, record]
    rfl
  · rw [group, record]
    rfl
  · rw [group, record]
    rfl
  · rw [group, record]
    simp only [GroupRecord.compared, holds]
  · rw [group, record]
    have served : b.staged.isStranded v.isUp = false ↔ ¬stranded := by rw [← holds, Bool.not_eq_true]
    simp only [GroupRecord.compared, holds, served]
    rfl
  · rw [group, State.flip_group pendingV groups, if_neg other]
    rfl
  · rw [owner, State.flip_owners pendingV]
    exact owned i k at_
  · rw [owner, State.flip_owners pendingV]
    exact freed run live k inside
  · rw [State.settleArea_store, State.flip_loads pendingV]
    have same : State.oldLoad (s.group g).live s.store.memory u = load u := by
      change State.oldLoad (s.group g).live s.store.memory u =
        match (s.group g).live with | some run => run.load s.store.memory u | none => 0
      cases (s.group g).live <;> rfl
    rw [State.exchangeRuns_loads]
    exact congrArg (s.store.loads.get u - · + _) same
  · rw [State.settleArea_engine, engine]
    exact (index u).trans (if_pos inside)
  · rw [State.settleArea_engine, engine]
    exact ((index u).trans (if_neg outside)).trans (if_pos gone)
  · rw [State.settleArea_engine, engine]
    exact ((index u).trans (if_neg outside)).trans (if_neg apart)
  · rw [State.settleArea_engine, engine]
  · rw [State.settleArea_engine, engine]
  · rw [State.settleArea_engine, engine]
  · rw [group, pinned, none]
    rfl
  · rw [group, pinned, pin, keptPin_stays ((before slot).trans (by rw [was]; rfl)) same]
  · rw [group, pinned, pin, keptPin_lapses (.inr (by rw [before, was]; exact changed))]
  · obtain ⟨gone, done⟩ := ends n snapshot same
    exact ⟨(congrArg (·.snapshot) (State.settleArea_store _)).trans gone, done.of_eq (State.settleArea_area_completions _)
      (State.settleArea_area_holding _) (State.settleArea_area_lastDrop _) (State.settleArea_area_slotHolds _)⟩
  · exact (congrArg (·.snapshot) (State.settleArea_store _)).trans (stays n snapshot other)
  · rw [State.settleArea_engine, engine]
    simpa [set] using mem_passQueued _ g
  · rw [State.settleArea_engine, engine]
    simp [clear, v]
  · have produced := logs.produced
    unfold State.flipRecords at produced
    have one : lapsedRecords (v.group g).pin (fieldsOf (v.group g).live) b.staged g b.generation = lapsed := by
      rw [lapsedRecords_eq, members]
      rfl
    have two : comparedRecords (v.flippedAndPinned g b) b.staged (b.staged.isStranded v.isUp) g v.now = compared :=
      comparedRecords_eq _ _ holds _ _
    have three : v.replacedRecords g = replaced := rfl
    rw [one, two, three] at produced
    exact produced
  · rw [State.settleArea_control, State.flip_settings]
  · have cause := logs.cause
    simp only [holds, decide_eq_true_eq] at cause
    exact cause
  · exact logs.interrupts

end Sys2Proof.Machine
end

section
/-! PROOF. The supersede of a rebuild, the removal of a group and the reservation of a row (R110, R130 to R133). -/

namespace Sys2Proof.Machine

namespace State

variable {s : State} {g : Nat} {b : Rebuild}

/-! ### The accesses discarded -/

theorem discardAccess_access (p : Requester → Bool) : (s.discardAccess p).store.access =
    s.store.access.map fun a => if p a.requester then { a with wanted := false } else a := rfl

theorem abandonBlockStep_building {p o : Nat} {w : Bool} (work : s.engine.work = some (.blockStep g p o w)) :
    s.abandonBlockStep g = State.discardAccess { s with engine := { s.engine with work := none } }
      fun r => r == Requester.blockStep := by
  unfold abandonBlockStep
  rw [work]
  exact if_pos (by simp [Work.buildsGroup])

theorem abandonBlockStep_other (other : ¬∃ p o w, s.engine.work = some (.blockStep g p o w)) :
    s.abandonBlockStep g = s := by
  unfold abandonBlockStep
  refine if_neg ?_
  cases work : s.engine.work with
  | none => simp
  | some unit =>
    cases unit with
    | blockStep h p o w =>
      have apart : h ≠ g := by
        rintro rfl
        exact other ⟨p, o, w, work⟩
      simpa [Work.buildsGroup] using apart
    | _ => simp [Work.buildsGroup]

theorem abandonBlockStep_store : (s.abandonBlockStep g).store =
    { s.store with access := (s.abandonBlockStep g).store.access } := by
  unfold abandonBlockStep
  split <;> rfl

theorem abandonBlockStep_engine : (s.abandonBlockStep g).engine =
    { s.engine with work := (s.abandonBlockStep g).engine.work } := by
  unfold abandonBlockStep
  split <;> rfl

/-! ### Supersede (R130) -/

/-- The engine without the reservation and the intake items of a rebuild. -/
def unreserved (s : State) (g : Nat) (b : Rebuild) : State :=
  { s.freeBlocks b.blocks with engine := { s.engine with
      entriesReserved := s.engine.entriesReserved - b.indexReservation
      intake := s.engine.intake.filter fun i => !i.rebuilds g } }

theorem supersede_none (generation : Generation) (idle : (s.group g).rebuild = none) : s.supersede g generation = s := by
  unfold supersede
  rw [idle]

theorem supersede_eq (generation : Generation) (pending : (s.group g).rebuild = some b) : s.supersede g generation =
    (((s.unreserved g b).abandonBlockStep g).setGroup g
      { s.group g with rebuild := none, liveGeneration := (s.group g).adoptedGeneration }).produce
        (.rowSuperseded g b.stepsEnded b.generation generation) := by
  have engine : (s.freeBlocks b.blocks).engine = s.engine := freeBlocks_engine s b.blocks
  have group : ((s.unreserved g b).abandonBlockStep g).group g = s.group g := by
    rw [abandonBlockStep_group]
    exact freeBlocks_group s b.blocks g
  unfold supersede
  rw [pending]
  dsimp only
  rw [engine]
  change State.produce (State.setGroup ((s.unreserved g b).abandonBlockStep g) g
    { ((s.unreserved g b).abandonBlockStep g).group g with
      rebuild := none, liveGeneration := (((s.unreserved g b).abandonBlockStep g).group g).adoptedGeneration }) _ = _
  rw [group]

theorem supersede_store (generation : Generation) (pending : (s.group g).rebuild = some b) :
    (s.supersede g generation).store = ((s.unreserved g b).abandonBlockStep g).store := by
  rw [supersede_eq generation pending, produce_store]
  rfl

theorem supersede_engine (generation : Generation) (pending : (s.group g).rebuild = some b) :
    (s.supersede g generation).engine = ((s.unreserved g b).abandonBlockStep g).engine := by
  rw [supersede_eq generation pending, produce_engine]
  rfl

theorem supersede_owner (canonical : Sparse.wf Owner.free s.store.owners) (generation : Generation)
    (pending : (s.group g).rebuild = some b) (k : Nat) :
    (s.supersede g generation).owner k = if k ∈ b.blocks then .free else s.owner k := by
  rw [← freeBlocks_owner canonical]
  unfold owner
  rw [supersede_store generation pending, abandonBlockStep_store_owners]
  rfl

/-- The group's record after a supersede. -/
def superseded (r : GroupRecord) : GroupRecord :=
  match r.rebuild with
  | none => r
  | some _ => { r with rebuild := none, liveGeneration := r.adoptedGeneration }

theorem supersede_group (canonical : Sparse.wf GroupRecord.reset s.groups) (generation : Generation) (h : Nat) :
    (s.supersede g generation).group h = if h = g then superseded (s.group g) else s.group h := by
  unfold superseded
  cases pending : (s.group g).rebuild with
  | none =>
    rw [supersede_none generation pending]
    split
    · next same => rw [same]
    · rfl
  | some b =>
    have groups : ((s.unreserved g b).abandonBlockStep g).groups = s.groups := by
      rw [abandonBlockStep_groups]
      exact freeBlocks_groups s b.blocks
    rw [supersede_eq generation pending, produce_group, setGroup_group (by rwa [groups])]
    unfold group
    rw [groups]

theorem supersede_canonical (canonical : s.Canonical) (generation : Generation) :
    Sparse.wf Owner.free (s.supersede g generation).store.owners
    ∧ Sparse.wf GroupRecord.reset (s.supersede g generation).groups :=
  have kept := (Event.supersede s g generation).canonical canonical
  ⟨kept.2.1, kept.2.2.1⟩

theorem supersede_reports (generation : Generation) (pending : (s.group g).rebuild = some b) :
    (s.supersede g generation).Reports s.now (.rowSuperseded g b.stepsEnded b.generation generation) := by
  have now : ((s.unreserved g b).abandonBlockStep g).now = s.now := by
    have control : ((s.unreserved g b).abandonBlockStep g).control = s.control := by
      rw [abandonBlockStep_control]
      exact freeBlocks_control s b.blocks
    exact congrArg (·.now) control
  rw [supersede_eq generation pending, ← now]
  exact produce_reports _ _

/-- The store, the engine and the groups after a supersede do not depend on the Area Interface. -/
theorem setOwners_withArea (entry : Nat → Owner) (a : AreaInterface) : ∀ (blocks : List Nat) (n : Nat) (s : State),
    ({ s with area := a } : State).setOwners entry blocks n = { s.setOwners entry blocks n with area := a }
  | [], _, _ => rfl
  | k :: rest, n, s => setOwners_withArea entry a rest (n + 1) (s.setOwner k (entry n))

theorem supersede_withArea (a : AreaInterface) (generation : Generation) :
    (({ s with area := a } : State).supersede g generation).store = (s.supersede g generation).store
    ∧ (({ s with area := a } : State).supersede g generation).engine = (s.supersede g generation).engine
    ∧ (({ s with area := a } : State).supersede g generation).groups = (s.supersede g generation).groups := by
  cases pending : (s.group g).rebuild with
  | none =>
    rw [supersede_none generation pending, supersede_none (s := { s with area := a }) generation pending]
    exact ⟨rfl, rfl, rfl⟩
  | some b =>
    have apart : State.unreserved { s with area := a } g b = { s.unreserved g b with area := a } := by
      unfold unreserved freeBlocks
      rw [setOwners_withArea]
    have abandoned : ∀ v : State, State.abandonBlockStep { v with area := a } g = { v.abandonBlockStep g with area := a } := by
      intro v
      unfold abandonBlockStep
      dsimp only
      split <;> rfl
    rw [supersede_eq generation pending, supersede_eq (s := { s with area := a }) generation pending, apart, abandoned]
    simp only [produce_store, produce_engine, produce_groups]
    exact ⟨rfl, rfl, rfl⟩

theorem freeBlocks_store_eq (blocks : List Nat) : (s.freeBlocks blocks).store =
    { s.store with owners := (s.freeBlocks blocks).store.owners } := congrArg (·.store) (freeBlocks_eq blocks)

/-- The supersede of a rebuild in the words of the statement. -/
theorem supersede_cancels (generation : Generation) (pending : (s.group g).rebuild = some b) :
    let t := s.supersede g generation
    let building := ∃ p o w, s.engine.work = some (.blockStep g p o w)
    t.store = { s.store with owners := t.store.owners, access := t.store.access }
    ∧ t.engine = { s.engine with
        entriesReserved := s.engine.entriesReserved - b.indexReservation
        intake := s.engine.intake.filter fun i => !i.rebuilds g
        work := t.engine.work }
    ∧ (building → t.engine.work = none ∧ t.store.access = s.store.access.map fun a =>
        if a.requester = .blockStep then { a with wanted := false } else a)
    ∧ (¬building → t.engine.work = s.engine.work ∧ t.store.access = s.store.access) := by
  intro t building
  have store : t.store = _ := supersede_store generation pending
  have engine : t.engine = _ := supersede_engine generation pending
  have freed : (s.unreserved g b).store = { s.store with owners := (s.freeBlocks b.blocks).store.owners } :=
    freeBlocks_store_eq b.blocks
  rw [store, engine]
  refine ⟨?_, ?_, ?_, fun other => ?_⟩
  · rw [abandonBlockStep_store, freed]
  · rw [abandonBlockStep_engine]
    rfl
  · rintro ⟨p, o, w, work⟩
    rw [abandonBlockStep_building (s := s.unreserved g b) work, discardAccess_access]
    refine ⟨rfl, ?_⟩
    change ((s.unreserved g b).store.access).map _ = _
    rw [freed]
    simp only [beq_iff_eq]
  · rw [abandonBlockStep_other (s := s.unreserved g b) other, freed]
    exact ⟨rfl, rfl⟩

end State

end Sys2Proof.Machine
end

section
/-! PROOF. The removal of a group and the reservation of a row (R110, R131 to R133). -/

namespace Sys2Proof.Machine

namespace State

variable {s : State} {g : Nat} {run : LiveRun}

/-! ### What a supersede leaves (R130) -/

/-- What a supersede leaves of the engine, and of a unit that is no block step of the group. -/
structure Supersedes (s t : State) (g : Nat) : Prop where
  index : t.engine.index = s.engine.index
  entriesInUse : t.engine.entriesInUse = s.engine.entriesInUse
  urgent : t.engine.urgent = s.engine.urgent
  restore : t.engine.restore = s.engine.restore
  loads : t.store.loads = s.store.loads
  memory : t.store.memory = s.store.memory
  snapshot : t.store.snapshot = s.store.snapshot
  other : (¬∃ p o w, s.engine.work = some (.blockStep g p o w)) →
    t.engine.work = s.engine.work ∧ t.store.access = s.store.access

theorem supersede_supersedes (generation : Generation) : s.Supersedes (s.supersede g generation) g := by
  cases pending : (s.group g).rebuild with
  | none =>
    rw [supersede_none generation pending]
    exact ⟨rfl, rfl, rfl, rfl, rfl, rfl, rfl, fun _ => ⟨rfl, rfl⟩⟩
  | some b =>
    obtain ⟨store, engine, _, other⟩ := supersede_cancels generation pending
    exact ⟨congrArg (·.index) engine, congrArg (·.entriesInUse) engine, congrArg (·.urgent) engine,
      congrArg (·.restore) engine, congrArg (·.loads) store, congrArg (·.memory) store, congrArg (·.snapshot) store, other⟩

/-! ### Work ended by a removal (R86, R117, R141) -/

/-- A walk of uplink `v` after the step of it on a removed group has ended (R117). -/
def steppedOn (v : Fin 32) (g : Nat) (converted : Bool) (w : Walk) : Walk :=
  if w.uplink = v then
    { w with groupsTouched := min 65535 (w.groupsTouched + 1), cursor := if converted then w.cursor else some g }
  else w

/-- The unit in progress has ended and the result of its access of the store is discarded. -/
def stopWork (s : State) : State := s.endWork.discardAccess Requester.isEngine

theorem endWorkOn_walkStep {v : Fin 32} {b : Nat} {converted : Bool} {phase : AccessPhase}
    (work : s.engine.work = some (.walkStep v g b converted phase)) : s.endWorkOn g =
      State.stopWork { s with engine := { s.engine with
        urgent := s.engine.urgent.map (steppedOn v g converted)
        restore := s.engine.restore.map (steppedOn v g converted) } } := by
  have same : (fun w : Walk => if w.uplink == v then w.stepped g converted else w) = steppedOn v g converted := by
    funext w
    simp only [beq_iff_eq]
    rfl
  unfold endWorkOn
  rw [work]
  dsimp only
  rw [if_pos rfl]
  unfold modifyWalk
  rw [same]
  rfl

theorem endWorkOn_settlePass {b : Nat} {phase : AccessPhase} (work : s.engine.work = some (.settlePass g b phase)) :
    s.endWorkOn g = s.stopWork := by
  unfold endWorkOn
  rw [work]
  exact if_pos rfl

theorem endWorkOn_fix {item : FixItem} {phase : AccessPhase} (work : s.engine.work = some (.fix item phase))
    (same : item.group = g) (granted : phase ≠ .wantRead) : s.endWorkOn g = s.stopWork := by
  unfold endWorkOn
  rw [work]
  exact if_pos ⟨same, granted⟩

/-- A fix whose read waits goes on (log 27). -/
theorem endWorkOn_waitingFix {item : FixItem} (work : s.engine.work = some (.fix item .wantRead)) : s.endWorkOn g = s := by
  unfold endWorkOn
  rw [work]
  exact if_neg (by simp)

theorem endWorkOn_index : (s.endWorkOn g).engine.index = s.engine.index
    ∧ (s.endWorkOn g).engine.entriesInUse = s.engine.entriesInUse := by
  unfold endWorkOn
  split
  · split <;> exact ⟨rfl, rfl⟩
  · split <;> exact ⟨rfl, rfl⟩
  · split <;> exact ⟨rfl, rfl⟩
  · exact ⟨rfl, rfl⟩
  · exact ⟨rfl, rfl⟩

/-! ### The live run dropped (R131) -/

/-- The store and the index without a live run. -/
def withoutRun (s : State) (g : Nat) (run : LiveRun) : State :=
  ((s.uncountRun run).freeBlocks run.blocks).reindex g run.fields.members []

theorem dropRun_none (idle : (s.group g).live = none) : s.dropRun g = s := by
  unfold dropRun liveRun
  rw [idle]

theorem dropRun_some (live : (s.group g).live = some run) :
    s.dropRun g = ((s.withoutRun g run).replaceSnapshot g).endWorkOn g := by
  unfold dropRun liveRun
  rw [live]
  rfl

theorem withoutRun_store : (s.withoutRun g run).store = { s.store with
    owners := ((s.uncountRun run).freeBlocks run.blocks).store.owners
    loads := subLoads s.store.loads (runUplinks s.store.memory run.fields run.blocks) } := freeBlocks_store_eq _

theorem withoutRun_engine : (s.withoutRun g run).engine = { s.engine with
    index := changeLists (insertGroup g) (uplinksOf [])
      (changeLists (removeGroup g) ((uplinksOf run.fields.members).filter fun u => !hasUplink [] u) s.engine.index)
    entriesInUse := s.engine.entriesInUse + 0 - run.fields.members.length } := by
  have engine : ((s.uncountRun run).freeBlocks run.blocks).engine = s.engine := freeBlocks_engine _ _
  unfold withoutRun reindex
  dsimp only
  rw [engine]
  rfl

theorem dropRun_owner (canonical : Sparse.wf Owner.free s.store.owners) (live : (s.group g).live = some run) (k : Nat) :
    (s.dropRun g).owner k = if k ∈ run.blocks then .free else s.owner k := by
  have freed := freeBlocks_owner (s := s.uncountRun run) canonical run.blocks k
  refine Eq.trans ?_ freed
  unfold owner
  rw [dropRun_some live, endWorkOn_store_owners, replaceSnapshot_store_owners, withoutRun_store]

theorem dropRun_loads (live : (s.group g).live = some run) (v : Fin 32) :
    (s.dropRun g).store.loads.get v = s.store.loads.get v - run.load s.store.memory v := by
  rw [dropRun_some live, endWorkOn_store_loads, replaceSnapshot_store_loads, withoutRun_store, subLoads_get,
    runUplinks_count]

theorem dropRun_index (live : (s.group g).live = some run) (v : Fin 32) :
    (s.dropRun g).engine.index.get v = if ∃ m ∈ run.fields.members, m.uplink = v then
      (s.engine.index.get v).filter (· ≠ g) else s.engine.index.get v := by
  rw [dropRun_some live, endWorkOn_index.1, replaceSnapshot_engine, withoutRun_engine]
  exact (exchangedIndex_get s.engine.index run.fields.members [] v).trans (if_neg (by simp))

theorem dropRun_entriesInUse (live : (s.group g).live = some run) :
    (s.dropRun g).engine.entriesInUse = s.engine.entriesInUse - run.fields.members.length := by
  rw [dropRun_some live, endWorkOn_index.2, replaceSnapshot_engine, withoutRun_engine]
  rfl

/-- The end of a snapshot discards no access of another requester. -/
theorem replaceSnapshot_access {a : BucketAccess} (access : s.store.access = some a) (other : a.requester ≠ .snapshot) :
    (s.replaceSnapshot g).store.access = some a := by
  cases snapshot : s.store.snapshot with
  | none => rwa [replaceSnapshot_none snapshot]
  | some n =>
    by_cases same : n.group = g
    · rw [replaceSnapshot_ends snapshot same, discardAccess_access]
      have kept : ((s.completeOrder (some n.slot) .snapshot true .runReplaced
        { r1 := BitVec.ofNat 32 n.next, r2 := 0, r3 := 0, r4 := 0 }).setSnapshot none).store.access = some a := by
        refine Eq.trans ?_ access
        exact congrArg (·.access) (completeOrder_store s _ _ _ _ _)
      rw [kept]
      simp [other]
    · rwa [replaceSnapshot_other snapshot same]

/-- Before the unit in progress ends, the engine's unit, walks and access stand as they did. -/
theorem dropRun_before : ((s.withoutRun g run).replaceSnapshot g).engine.work = s.engine.work
    ∧ ((s.withoutRun g run).replaceSnapshot g).engine.urgent = s.engine.urgent
    ∧ ((s.withoutRun g run).replaceSnapshot g).engine.restore = s.engine.restore
    ∧ ∀ a, s.store.access = some a → a.requester ≠ .snapshot →
        ((s.withoutRun g run).replaceSnapshot g).store.access = some a := by
  rw [replaceSnapshot_engine, withoutRun_engine]
  refine ⟨rfl, rfl, rfl, fun a access other => replaceSnapshot_access ?_ other⟩
  rw [withoutRun_store]
  exact access

/-- Work that stops: no unit, and the engine's access discarded. -/
def Halts (s t : State) (requester : Requester) : Prop := t.engine.work = none
  ∧ ∀ a, s.store.access = some a → a.requester = requester → t.store.access = some { a with wanted := false }

theorem stopWork_halts {w : State} {requester : Requester} (engine : requester.isEngine = true)
    (access : ∀ a, s.store.access = some a → a.requester ≠ .snapshot → w.store.access = some a) :
    s.Halts w.stopWork requester := by
  refine ⟨rfl, fun a found is => ?_⟩
  subst is
  have other : a.requester ≠ .snapshot := by
    intro is
    rw [is] at engine
    cases engine
  change (w.store.access.map _) = _
  rw [access a found other]
  simp [engine]

theorem dropRun_walkStep {v : Fin 32} {b : Nat} {converted : Bool} {phase : AccessPhase}
    (live : (s.group g).live = some run) (work : s.engine.work = some (.walkStep v g b converted phase)) :
    s.Halts (s.dropRun g) .walkStep
    ∧ (s.dropRun g).engine.urgent = s.engine.urgent.map (steppedOn v g converted)
    ∧ (s.dropRun g).engine.restore = s.engine.restore.map (steppedOn v g converted) := by
  obtain ⟨unit, urgent, restore, access⟩ := dropRun_before (s := s) (g := g) (run := run)
  rw [dropRun_some live, endWorkOn_walkStep (unit.trans work), urgent, restore]
  exact ⟨stopWork_halts rfl access, rfl, rfl⟩

theorem dropRun_settlePass {b : Nat} {phase : AccessPhase} (live : (s.group g).live = some run)
    (work : s.engine.work = some (.settlePass g b phase)) : s.Halts (s.dropRun g) .settlePass
    ∧ (s.dropRun g).engine.urgent = s.engine.urgent ∧ (s.dropRun g).engine.restore = s.engine.restore := by
  obtain ⟨unit, urgent, restore, access⟩ := dropRun_before (s := s) (g := g) (run := run)
  rw [dropRun_some live, endWorkOn_settlePass (unit.trans work)]
  exact ⟨stopWork_halts rfl access, urgent, restore⟩

theorem dropRun_fix {item : FixItem} {phase : AccessPhase} (live : (s.group g).live = some run)
    (work : s.engine.work = some (.fix item phase)) (same : item.group = g) (granted : phase ≠ .wantRead) :
    s.Halts (s.dropRun g) .fix
    ∧ (s.dropRun g).engine.urgent = s.engine.urgent ∧ (s.dropRun g).engine.restore = s.engine.restore := by
  obtain ⟨unit, urgent, restore, access⟩ := dropRun_before (s := s) (g := g) (run := run)
  rw [dropRun_some live, endWorkOn_fix (unit.trans work) same granted]
  exact ⟨stopWork_halts rfl access, urgent, restore⟩

theorem dropRun_waitingFix {item : FixItem} (live : (s.group g).live = some run)
    (work : s.engine.work = some (.fix item .wantRead)) : (s.dropRun g).engine.work = s.engine.work
    ∧ (s.dropRun g).engine.urgent = s.engine.urgent ∧ (s.dropRun g).engine.restore = s.engine.restore := by
  obtain ⟨unit, urgent, restore, access⟩ := dropRun_before (s := s) (g := g) (run := run)
  rw [dropRun_some live, endWorkOn_waitingFix (unit.trans work)]
  exact ⟨unit, urgent, restore⟩

theorem withoutRun_area : (s.withoutRun g run).area = s.area := freeBlocks_area _ _

theorem withoutRun_control : (s.withoutRun g run).control = s.control := freeBlocks_control _ _

theorem dropRun_snapshot (live : (s.group g).live = some run) :
    (∀ n, s.store.snapshot = some n → n.group = g → (s.dropRun g).store.snapshot = none
      ∧ s.Completes (s.dropRun g) (some n.slot) .snapshot true .runReplaced
          { r1 := BitVec.ofNat 32 n.next, r2 := 0, r3 := 0, r4 := 0 })
    ∧ ∀ n, s.store.snapshot = some n → n.group ≠ g → (s.dropRun g).store.snapshot = some n := by
  have same : (s.withoutRun g run).store.snapshot = s.store.snapshot := by rw [withoutRun_store]
  obtain ⟨ends, stays⟩ := replaceSnapshot_snapshot (s := s.withoutRun g run) (g := g)
  rw [same] at ends stays
  rw [dropRun_some live, endWorkOn_store_snapshot]
  refine ⟨fun n snapshot named => ?_, stays⟩
  obtain ⟨gone, done⟩ := ends n snapshot named
  have done := done.from (s := s) (congrArg (·.now) withoutRun_control) (congrArg (·.runState) withoutRun_control)
    (by unfold held; rw [withoutRun_area])
  have area : (((s.withoutRun g run).replaceSnapshot g).endWorkOn g).area = ((s.withoutRun g run).replaceSnapshot g).area :=
    endWorkOn_area _ _
  exact ⟨gone, done.of_eq (congrArg (·.completions) area) (congrArg (·.holding) area) (congrArg (·.lastDrop) area)
    (congrArg (·.slotHolds) area)⟩

/-- What is reported stays reported when the run is dropped in the same event. -/
theorem Reports.dropRun {t : State} {now : PartTime} {e : Entry} (h : t.Reports now e) (same : t.now = now) :
    (t.dropRun g).Reports now e := by
  cases live : (t.group g).live with
  | none => rwa [dropRun_none live]
  | some run =>
    have before : (t.withoutRun g run).Reports now e := h.of_eq (congrArg (·.holding) withoutRun_area)
      (congrArg (·.lastDrop) withoutRun_area)
    have replaced : ((t.withoutRun g run).replaceSnapshot g).Reports now e := by
      cases snapshot : (t.withoutRun g run).store.snapshot with
      | none => rwa [replaceSnapshot_none snapshot]
      | some n =>
        by_cases named : n.group = g
        · rw [replaceSnapshot_ends snapshot named]
          exact (before.completeOrder ((congrArg (·.now) withoutRun_control).trans same) _ _ _ _ _).of_eq rfl rfl
        · rwa [replaceSnapshot_other snapshot named]
    rw [dropRun_some live]
    exact replaced.of_eq (congrArg (·.holding) (endWorkOn_area _ _)) (congrArg (·.lastDrop) (endWorkOn_area _ _))

end State

end Sys2Proof.Machine
end

section
/-! PROOF. The reservation of a row, and its rejection for room (R76, R78, R110, R132, R133). -/

namespace Sys2Proof.Machine

namespace State

variable {s : State} {g : Nat} {f : GroupFields} {generation : Generation}

/-! ### The free pool (R76, R78) -/

/-- The free block count counts no block that is not free. -/
theorem freeBlockCount_le : s.freeBlockCount ≤
    (List.range' 0 2048).countP fun k => decide (Sparse.get Owner.free s.store.owners k = .free) := by
  have taken : ((List.range' 0 2048).filter fun k => !decide (Sparse.get Owner.free s.store.owners k = .free)).length
      ≤ (s.store.owners.map Prod.fst).length := by
    refine (List.Nodup.subperm ((List.nodup_range' (step := 1)).filter _) fun k inside => ?_).length_le
    have taken : ¬Sparse.get Owner.free s.store.owners k = .free := by simpa using (List.mem_filter.mp inside).2
    rcases Sparse.get_eq_or_mem Owner.free s.store.owners k with free | found
    · exact absurd free taken
    · exact List.mem_map.mpr ⟨_, found, rfl⟩
  have all := List.length_eq_length_filter_add (l := List.range' 0 2048)
    fun k => decide (Sparse.get Owner.free s.store.owners k = .free)
  rw [List.length_map] at taken
  rw [List.length_range', ← List.countP_eq_length_filter] at all
  change 2048 - s.store.owners.length ≤ _
  omega

/-- The blocks that a reservation of `n` blocks takes. -/
def lowestBlocks (s : State) (n : Nat) : List Nat := lowestFree s.store.owners Config.blockCount 0 n

theorem lowestBlocks_spec {n : Nat} (room : n ≤ s.freeBlockCount) : (s.lowestBlocks n).length = n
    ∧ (s.lowestBlocks n).Pairwise (· < ·) ∧ (∀ k ∈ s.lowestBlocks n, k < 2048 ∧ s.owner k = .free)
    ∧ ∀ k ∈ s.lowestBlocks n, ∀ free < k, s.owner free = .free → free ∈ s.lowestBlocks n := by
  obtain ⟨length, ascending, free, lowest⟩ := lowestFree_spec s.store.owners 2048 0 n
  refine ⟨length.trans (Nat.min_eq_left (room.trans freeBlockCount_le)), ascending, fun k inside => ?_,
    fun k inside i below isFree => lowest k inside i (Nat.zero_le i) below (decide_eq_true isFree)⟩
  obtain ⟨_, below, isFree⟩ := free k inside
  exact ⟨by omega, of_decide_eq_true isFree⟩

theorem lowestBlocks_nodup {n : Nat} (room : n ≤ s.freeBlockCount) : (s.lowestBlocks n).Nodup :=
  (lowestBlocks_spec room).2.1.imp fun below => Nat.ne_of_lt below

/-! ### The row without room, and the rebuild created (R128, R132, R133) -/

theorem rejectRoom_group (canonical : Sparse.wf GroupRecord.reset s.groups) (reason : RowReason) (asked found h : Nat) :
    (s.rejectRoom g generation reason asked found).group h =
      if h = g then { s.group g with liveGeneration := (s.group g).adoptedGeneration } else s.group h := by
  unfold rejectRoom
  rw [produce_group, setGroup_group canonical]

theorem rejectRoom_reports (reason : RowReason) (asked found : Nat) :
    (s.rejectRoom g generation reason asked found).Reports s.now
      (.rowRejected (.group g) reason generation (BitVec.ofNat 32 asked) (BitVec.ofNat 32 found)) := produce_reports _ _

theorem reserveRow_noBlocks (short : s.freeBlockCount < f.blockCount) : s.reserveRow g f generation =
    (s.rejectRoom g generation .noBlocks f.blockCount s.freeBlockCount, false) := by
  unfold reserveRow reserveBlocks
  rw [if_neg (Nat.not_le.mpr short)]

/-- The state with the blocks of a reservation RESERVED. -/
def reserved (s : State) (g n : Nat) : State := s.setOwners (Owner.reserved g) (s.lowestBlocks n) 0

theorem reserveRow_noIndex (room : f.blockCount ≤ s.freeBlockCount) (short : s.freeIndexEntries < s.netIncrease g f) :
    s.reserveRow g f generation = (((s.reserved g f.blockCount).freeBlocks (s.lowestBlocks f.blockCount)).rejectRoom g
      generation .noIndex (s.netIncrease g f) s.freeIndexEntries, false) := by
  unfold reserveRow reserveBlocks
  rw [if_pos room]
  exact if_neg (Nat.not_le.mpr short)

theorem reserveRow_adopts (room : f.blockCount ≤ s.freeBlockCount) (space : s.netIncrease g f ≤ s.freeIndexEntries) :
    s.reserveRow g f generation = ((s.reserved g f.blockCount).createRebuild g f generation
      (s.lowestBlocks f.blockCount) (s.netIncrease g f), true) := by
  unfold reserveRow reserveBlocks
  rw [if_pos room]
  exact if_pos space

theorem reserved_eq (n : Nat) : s.reserved g n =
    { s with store := { s.store with owners := (s.reserved g n).store.owners } } := setOwners_eq _ _ _ _

theorem reserved_owner (canonical : Sparse.wf Owner.free s.store.owners) {n : Nat} (room : n ≤ s.freeBlockCount) :
    (∀ i k, (s.lowestBlocks n)[i]? = some k → (s.reserved g n).owner k = .reserved g i)
    ∧ ∀ k, k ∉ s.lowestBlocks n → (s.reserved g n).owner k = s.owner k := by
  refine ⟨fun i k found => ?_, fun k apart => setOwners_owner_other _ _ _ _ apart⟩
  have set := setOwners_owner_at (Owner.reserved g) (s.lowestBlocks n) 0 s canonical (lowestBlocks_nodup room) found
  rwa [Nat.zero_add] at set

/-- Blocks reserved and returned are free again, as they were. -/
theorem reserved_freed_owner (canonical : Sparse.wf Owner.free s.store.owners) {n : Nat} (room : n ≤ s.freeBlockCount)
    (k : Nat) : ((s.reserved g n).freeBlocks (s.lowestBlocks n)).owner k = s.owner k := by
  have canonical' : Sparse.wf Owner.free (s.reserved g n).store.owners := setOwners_canonical _ _ _ _ canonical
  rw [freeBlocks_owner canonical']
  split
  · next inside => exact ((lowestBlocks_spec room).2.2.1 k inside).2.symm
  · next apart => exact (reserved_owner canonical room).2 k apart

theorem createRebuild_group (canonical : Sparse.wf GroupRecord.reset s.groups) (blocks : List Nat) (entries h : Nat) :
    (s.createRebuild g f generation blocks entries).group h = if h = g then { s.group g with
      liveGeneration := generation
      rebuild := some { staged := f, generation, blocks, indexReservation := entries, progress := .step 0
                        recheck := false, adoptedAt := s.now } } else s.group h := by
  unfold createRebuild
  rw [produce_group]
  exact setGroup_group canonical _ h

theorem createRebuild_engine (blocks : List Nat) (entries : Nat) :
    (s.createRebuild g f generation blocks entries).engine = { s.engine with
      entriesReserved := s.engine.entriesReserved + entries
      intake := s.engine.intake ++ [.blockStep g 0] } := by
  unfold createRebuild
  rw [produce_engine]
  rfl

theorem createRebuild_reports (blocks : List Nat) (entries : Nat) :
    (s.createRebuild g f generation blocks entries).Reports s.now
      (.rowAdopted (.group g) .planned generation f.bucketSize blocks.length entries) := produce_reports _ _

theorem Reports.createRebuild {t : State} {now : PartTime} {e : Entry} (h : t.Reports now e) (same : t.now = now)
    (blocks : List Nat) (entries : Nat) : (t.createRebuild g f generation blocks entries).Reports now e := by
  subst same
  refine Reports.produce (s := State.mk _ _ _ _ _ _ _ _ _ _) ?_ _
  exact h.of_eq rfl rfl

theorem Reports.rejectRoom {t : State} {now : PartTime} {e : Entry} (h : t.Reports now e) (same : t.now = now)
    (reason : RowReason) (asked found : Nat) : (t.rejectRoom g generation reason asked found).Reports now e := by
  subst same
  have set : (t.setGroup g { t.group g with liveGeneration := (t.group g).adoptedGeneration }).Reports t.now e :=
    h.of_eq rfl rfl
  exact set.produce _

/-- What is reported stays reported when a row is reserved or rejected for room in the same event. -/
theorem Reports.reserveRow {t : State} {now : PartTime} {e : Entry} (h : t.Reports now e) (same : t.now = now) :
    (t.reserveRow g f generation).1.Reports now e := by
  by_cases room : f.blockCount ≤ t.freeBlockCount
  · have reserved : (t.reserved g f.blockCount).Reports now e := by
      rw [reserved_eq]
      exact h.of_eq rfl rfl
    by_cases space : t.netIncrease g f ≤ t.freeIndexEntries
    · rw [reserveRow_adopts room space]
      refine reserved.createRebuild ?_ _ _
      rw [reserved_eq]
      exact same
    · rw [reserveRow_noIndex room (Nat.not_le.mp space)]
      have freed : ((t.reserved g f.blockCount).freeBlocks (t.lowestBlocks f.blockCount)).Reports now e := by
        rw [freeBlocks_eq]
        exact reserved.of_eq rfl rfl
      refine freed.rejectRoom ?_ _ _ _
      rw [freeBlocks_eq, reserved_eq]
      exact same
  · rw [reserveRow_noBlocks (Nat.not_le.mp room)]
    exact h.rejectRoom same _ _ _

/-! ### The row removed (R131) -/

theorem removeGroupRow_group (canonical : Sparse.wf GroupRecord.reset s.groups) (h : Nat) :
    (s.removeGroupRow g generation).group h =
      if h = g then { GroupRecord.reset with liveGeneration := generation } else s.group h := by
  unfold removeGroupRow
  rw [produce_group, setGroup_group (by rwa [dropRun_groups]), dropRun_group]

theorem removeGroupRow_store : (s.removeGroupRow g generation).store = (s.dropRun g).store := by
  unfold removeGroupRow
  rw [produce_store]
  rfl

theorem removeGroupRow_engine : (s.removeGroupRow g generation).engine = (s.dropRun g).engine := by
  unfold removeGroupRow
  rw [produce_engine]
  rfl

theorem removeGroupRow_reports : (s.removeGroupRow g generation).Reports s.now
    (.rowAdopted (.group g) .empty generation 0 0 0) := by
  have now : (s.dropRun g).now = s.now := dropRun_now s g
  rw [← now]
  exact produce_reports _ _

theorem Reports.removeGroupRow {t : State} {now : PartTime} {e : Entry} (h : t.Reports now e) (same : t.now = now) :
    (t.removeGroupRow g generation).Reports now e := by
  have dropped := h.dropRun (g := g) same
  have kept : (t.dropRun g).now = now := (dropRun_now t g).trans same
  subst kept
  have set : ((t.dropRun g).setGroup g { GroupRecord.reset with liveGeneration := generation }).Reports (t.dropRun g).now e :=
    dropped.of_eq rfl rfl
  exact set.produce _

/-- What completed stays so when a record is produced. -/
theorem Completes.produce {t : State} {slot : Option (Fin 16)} {kind : OrderKind} {failed : Bool} {reason : OrderReason}
    {results : Results} (h : s.Completes t slot kind failed reason results) (now : t.now = s.now) (e : Entry) :
    s.Completes (t.produce e) slot kind failed reason results := by
  have reports {e' : Entry} (h : t.Reports s.now e') : (t.produce e).Reports s.now e' := by
    rw [← now] at h ⊢
    exact h.produce e
  unfold Completes at *
  cases held : s.held slot with
  | none =>
    rw [held] at h
    exact reports h
  | some k =>
    rw [held] at h
    dsimp only at h ⊢
    split
    · next running =>
      rw [if_pos running] at h
      rwa [produce_area_completions]
    · next other =>
      rw [if_neg other] at h
      rw [produce_area_slotHolds]
      exact ⟨reports h.1, h.2⟩

theorem Completes.removeGroupRow {slot : Option (Fin 16)} {kind : OrderKind} {failed : Bool} {reason : OrderReason}
    {results : Results} (h : s.Completes (s.dropRun g) slot kind failed reason results) :
    s.Completes (s.removeGroupRow g generation) slot kind failed reason results := by
  have set : s.Completes ((s.dropRun g).setGroup g { GroupRecord.reset with liveGeneration := generation }) slot kind failed
      reason results := h.of_eq rfl rfl rfl rfl
  exact set.produce (dropRun_now s g) _

end State

end Sys2Proof.Machine
end

section
/-! PROOF. A changed row checked: the read that brings it, its rejection, and what the sweep counts (R149 to R153). -/

namespace Sys2Proof.Machine

namespace State

variable {s : State} {row : RowId} {bytes : List Byte}

/-! ### A changed row read (R151 case 4) -/

/-- A whole row of a generation that is neither live nor rejected before has been read, and HOLD is off. -/
structure ChangedRowRead (s : State) (row : RowId) (bytes : List Byte) : Prop where
  size : bytes.length = 128
  flight : s.inFlight = some (.rowRead row)
  free : s.control.hold = false
  whole : headGeneration bytes = tailGeneration bytes
  differs : headGeneration bytes ≠ s.liveGeneration row
  fresh : (s.rowMemory row).lastRejected ≠ some (headGeneration bytes)

/-- The state in which the row is checked. -/
def checking (s : State) (row : RowId) : State := s.endFlight.seenChanged row

theorem ChangedRowRead.treated (h : s.ChangedRowRead row bytes) : s.endFlight.treatRow row bytes =
    (s.checking row).checkRow row (headGeneration bytes) bytes := by
  have treated := treatRow_changed (s := s.endFlight) h.whole h.differs h.fresh
  rwa [changedRow_checked (s := s.endFlight) h.free] at treated

/-- Only the Area Interface differs from the state before. -/
theorem checking_eq : s.checking row = { s with area := (s.checking row).area } := by cases row <;> rfl

theorem checking_sweep : (s.checking row).area.sweep = s.area.sweep.map SweepRecord.changed := by cases row <;> rfl

/-- The records and the orders stand as before. -/
theorem checking_journal : (s.checking row).area.holding = s.area.holding
    ∧ (s.checking row).area.gapCount = s.area.gapCount ∧ (s.checking row).area.firstDrop = s.area.firstDrop
    ∧ (s.checking row).area.lastDrop = s.area.lastDrop ∧ (s.checking row).area.slotHolds = s.area.slotHolds := by
  cases row <;> exact ⟨rfl, rfl, rfl, rfl, rfl⟩

/-- A row that passes its checks is handed over but in the first sweep after START_ADOPT, where a free value says whether
it is (log 47). -/
theorem passesOver_iff : s.passesOver = false ↔
    ¬(s.control.runState = .starting ∧ s.control.headlessReason ≠ none) ∨ Config.adoptsInFirstSweep = true := by
  simp only [passesOver, resuming, Bool.and_eq_false_iff, Bool.not_eq_false', beq_eq_false_iff_ne, ne_eq,
    Option.isSome_eq_false_iff, Option.isNone_iff_eq_none]
  tauto

theorem checking_passesOver : (s.checking row).passesOver = s.passesOver := by cases row <;> rfl

/-! ### The end of the event -/

/-- The going on of the sweep leaves what the row's treatment made. -/
theorem rowDone_frame : (s.rowDone row bytes).store = (s.endFlight.treatRow row bytes).store
    ∧ (s.rowDone row bytes).engine = (s.endFlight.treatRow row bytes).engine
    ∧ (s.rowDone row bytes).groups = (s.endFlight.treatRow row bytes).groups
    ∧ (s.rowDone row bytes).monitor = (s.endFlight.treatRow row bytes).monitor
    ∧ (s.rowDone row bytes).conduits = (s.endFlight.treatRow row bytes).conduits
    ∧ (s.rowDone row bytes).port = (s.endFlight.treatRow row bytes).port
    ∧ (s.rowDone row bytes).control = (s.endFlight.treatRow row bytes).control := by
  rw [rowDone_eq]
  simp

/-- The going on of the sweep leaves the records and the orders. -/
theorem rowDone_journal : (s.rowDone row bytes).area.holding = (s.endFlight.treatRow row bytes).area.holding
    ∧ (s.rowDone row bytes).area.gapCount = (s.endFlight.treatRow row bytes).area.gapCount
    ∧ (s.rowDone row bytes).area.firstDrop = (s.endFlight.treatRow row bytes).area.firstDrop
    ∧ (s.rowDone row bytes).area.lastDrop = (s.endFlight.treatRow row bytes).area.lastDrop
    ∧ (s.rowDone row bytes).area.slotHolds = (s.endFlight.treatRow row bytes).area.slotHolds
    ∧ (s.rowDone row bytes).area.completions = (s.endFlight.treatRow row bytes).area.completions := by
  rw [rowDone_eq]
  simp

/-- What the sweep counts of a row: handed over, rejected, or neither. -/
def Counts (s t : State) (handedOver rejected : Nat) : Prop := ∀ q, s.area.sweep = some q → ∃ p, t.area.sweep = some p
  ∧ p.handedOver = q.handedOver + handedOver ∧ p.rejected = q.rejected + rejected ∧ p.deferred = q.deferred

theorem rowDone_counts {f : SweepRecord → SweepRecord} {handedOver rejected : Nat}
    (sweep : (s.endFlight.treatRow row bytes).area.sweep = (s.checking row).area.sweep.map f)
    (counted : ∀ q, (f q).handedOver = q.handedOver + handedOver ∧ (f q).rejected = q.rejected + rejected
      ∧ (f q).deferred = q.deferred) : s.Counts (s.rowDone row bytes) handedOver rejected := by
  intro q before
  have treated : (s.endFlight.treatRow row bytes).area.sweep = some (f q.changed) := by
    rw [sweep, checking_sweep, before]
    rfl
  exact ⟨_, rowDone_sweep treated, counted q.changed⟩

/-! ### Rows rejected, passed over, and handed over (R152, R153) -/

theorem rowMemory_setRowMemory_uplink (u : Fin 32) (m : RowMemory) :
    (s.setRowMemory (.uplink u) m).rowMemory (.uplink u) = m := by
  change (s.area.uplinkRows.set u m).get u = m
  simp [Vector.get_eq_getElem]

theorem rejectRow_sweep (generation : Generation) (why : Rejection) : (s.rejectRow row generation why).area.sweep =
    s.area.sweep.map fun q => { q with rejected := q.rejected + 1 } := by
  unfold rejectRow
  rw [produce_area_sweep]
  cases row <;> rfl

theorem countHandOver_sweep : (s.countHandOver row).area.sweep =
    s.area.sweep.map fun q => { q with handedOver := q.handedOver + 1 } := by cases row <;> rfl

theorem countRoomReject_sweep (generation : Generation) : (s.countRoomReject row generation).area.sweep =
    s.area.sweep.map fun q => { q with rejected := q.rejected + 1 } := by cases row <;> rfl

theorem countHandOver_journal : (s.countHandOver row).area.holding = s.area.holding
    ∧ (s.countHandOver row).area.lastDrop = s.area.lastDrop ∧ (s.countHandOver row).area.slotHolds = s.area.slotHolds
    ∧ (s.countHandOver row).area.completions = s.area.completions := by
  cases row <;> exact ⟨rfl, rfl, rfl, rfl⟩

theorem countRoomReject_journal (generation : Generation) :
    (s.countRoomReject row generation).area.holding = s.area.holding
    ∧ (s.countRoomReject row generation).area.lastDrop = s.area.lastDrop := by
  cases row <;> exact ⟨rfl, rfl⟩

theorem Untouched.rejectRow (generation : Generation) (why : Rejection) : s.Untouched (s.rejectRow row generation why) :=
  ((Untouched.setRowMemory _).trans (.modifySweep _)).trans (.produce _)

/-- A rejected row brings its record, and no other. -/
theorem rejectRow_produced (generation : Generation) (why : Rejection) : s.Produced (s.rejectRow row generation why)
    [.rowRejected row why.reason generation (BitVec.ofNat 32 why.detail1) (BitVec.ofNat 32 why.detail2)] := by
  cases row <;> exact Produced.produce (State.modifySweep _ _) _

end State

end Sys2Proof.Machine
end

section
/-! PROOF. O49: a changed group row, rejected, removed or reserved. -/

namespace Sys2Proof.Machine

namespace State

variable {s : State} {g : Nat} {bytes : List Byte}

/-! ### The checks of a group row (R152, R153) -/

theorem checkRow_group_rejects (generation : Generation) {why : Rejection}
    (bad : checkGroupRow s.area.groupCount g bytes = .error why) :
    s.checkRow (.group g) generation bytes = s.rejectRow (.group g) generation why := by
  unfold checkRow
  simp only [bad]

theorem checkRow_group_passes (generation : Generation) {asked : Option GroupFields}
    (good : checkGroupRow s.area.groupCount g bytes = .ok asked) (passes : s.passesOver = true) :
    s.checkRow (.group g) generation bytes = s := by
  unfold checkRow
  simp only [good, passes, if_true]

theorem checkRow_group_takes (generation : Generation) {asked : Option GroupFields} {t : State}
    (good : checkGroupRow s.area.groupCount g bytes = .ok asked) (adopts : s.passesOver = false)
    (taken : s.adoptGroupRow g asked generation = (t, true)) :
    s.checkRow (.group g) generation bytes = t.countHandOver (.group g) := by
  unfold checkRow
  simp only [good, adopts, Bool.false_eq_true, if_false, taken]

theorem checkRow_group_short (generation : Generation) {asked : Option GroupFields} {t : State}
    (good : checkGroupRow s.area.groupCount g bytes = .ok asked) (adopts : s.passesOver = false)
    (short : s.adoptGroupRow g asked generation = (t, false)) :
    s.checkRow (.group g) generation bytes = t.countRoomReject (.group g) generation := by
  unfold checkRow
  simp only [good, adopts, Bool.false_eq_true, if_false, short]

/-- The superseded state in which a group row is adopted; it has the store, the engine and the groups that the supersede
makes of the state before the read. -/
def adopting (s : State) (g : Nat) (generation : Generation) : State := (s.checking (.group g)).supersede g generation

theorem adopting_eq (generation : Generation) : (s.adopting g generation).store = (s.supersede g generation).store
    ∧ (s.adopting g generation).engine = (s.supersede g generation).engine
    ∧ (s.adopting g generation).groups = (s.supersede g generation).groups :=
  supersede_withArea (s := s) (s.checking (.group g)).area generation

theorem adopting_now (generation : Generation) : (s.adopting g generation).now = s.now := by
  exact supersede_now (s.checking (.group g)) g generation

/-- The sweep and the rows' memories in the state after the adoption of a row are those before it. -/
theorem adopted_plan (asked : Option GroupFields) (generation : Generation) :
    ((s.checking (.group g)).adoptGroupRow g asked generation).1.area.sweep = (s.checking (.group g)).area.sweep
    ∧ (s.Canonical → Sparse.wf RowMemory.reset
        ((s.checking (.group g)).adoptGroupRow g asked generation).1.area.groupRows) := by
  refine ⟨(congrArg AreaInterface.sweep (adoptGroupRow_plan _ _ _ _) :), fun canonical => ?_⟩
  rw [adoptGroupRow_groupRows]
  exact Sparse.set_wf canonical.2.2.2

/-- All but the counts and the rows' memories is as it was. -/
structure Carries (s t : State) : Prop where
  store : t.store = s.store
  engine : t.engine = s.engine
  groups : t.groups = s.groups
  holding : t.area.holding = s.area.holding
  lastDrop : t.area.lastDrop = s.area.lastDrop
  slotHolds : t.area.slotHolds = s.area.slotHolds
  completions : t.area.completions = s.area.completions

variable {t v : State}

theorem Carries.trans (a : s.Carries t) (b : t.Carries v) : s.Carries v :=
  ⟨b.store.trans a.store, b.engine.trans a.engine, b.groups.trans a.groups, b.holding.trans a.holding,
    b.lastDrop.trans a.lastDrop, b.slotHolds.trans a.slotHolds, b.completions.trans a.completions⟩

theorem Carries.reports (h : s.Carries t) {now : PartTime} {e : Entry} (r : s.Reports now e) : t.Reports now e :=
  r.of_eq h.holding h.lastDrop

theorem Carries.group (h : s.Carries t) (g : Nat) : t.group g = s.group g := by
  unfold State.group
  rw [h.groups]

theorem Carries.owner (h : s.Carries t) (k : Nat) : t.owner k = s.owner k := by
  unfold State.owner
  rw [h.store]

theorem Carries.countHandOver (row : RowId) : s.Carries (s.countHandOver row) := by
  cases row <;> exact ⟨rfl, rfl, rfl, rfl, rfl, rfl, rfl⟩

theorem Carries.countRoomReject (row : RowId) (generation : Generation) :
    s.Carries (s.countRoomReject row generation) := by
  cases row <;> exact ⟨rfl, rfl, rfl, rfl, rfl, rfl, rfl⟩

theorem Carries.rowDone (row : RowId) : (s.endFlight.treatRow row bytes).Carries (s.rowDone row bytes) := by
  obtain ⟨store, engine, groups, _⟩ := rowDone_frame (s := s) (row := row) (bytes := bytes)
  obtain ⟨holding, _, _, last, holds, completions⟩ := rowDone_journal (s := s) (row := row) (bytes := bytes)
  exact ⟨store, engine, groups, holding, last, holds, completions⟩

/-! ### The four ends of a changed group row -/

theorem changedGroupRow_rejected (read : s.ChangedRowRead (.group g) bytes) (canonical : s.Canonical) {why : Rejection}
    (bad : checkGroupRow s.area.groupCount g bytes = .error why) : let t := s.rowDone (.group g) bytes
    t.groups = s.groups ∧ t.store = s.store ∧ t.engine = s.engine
    ∧ (t.rowMemory (.group g)).lastRejected = some (headGeneration bytes) ∧ s.Counts t 0 1
    ∧ t.Reports s.now (.rowRejected (.group g) why.reason (headGeneration bytes) (BitVec.ofNat 32 why.detail1)
        (BitVec.ofNat 32 why.detail2)) := by
  have treated := read.treated
  rw [checkRow_group_rejects (s := s.checking (.group g)) _ bad] at treated
  have rejected := rejectRow_sweep (s := s.checking (.group g)) (row := .group g) (headGeneration bytes) why
  rw [← treated] at rejected
  obtain ⟨_, groups, store, engine, _⟩ := rowDone_untouched (s := s) (row := .group g) (bytes := bytes) (by
    rw [treated]
    exact Untouched.seenChanged.trans (.rejectRow _ _))
  have memory : (s.rowDone (.group g) bytes).rowMemory (.group g) = { tornCount := 0, lastRejected := some (headGeneration bytes) } := by
    rw [rowDone_rowMemory, treated]
    refine (rowMemory_of_plan (produce_plan _ _) _).trans ?_
    exact Sparse.get_set_same (Sparse.set_wf canonical.2.2.2)
  refine ⟨groups, store, engine, by rw [memory], rowDone_counts rejected fun q => ⟨rfl, rfl, rfl⟩, ?_⟩
  refine rowDone_reports ?_
  rw [treated]
  exact produce_reports _ _

theorem changedGroupRow_passed (read : s.ChangedRowRead (.group g) bytes) (canonical : s.Canonical)
    {asked : Option GroupFields} (good : checkGroupRow s.area.groupCount g bytes = .ok asked)
    (passes : s.passesOver = true) : let t := s.rowDone (.group g) bytes
    t.groups = s.groups ∧ t.store = s.store ∧ t.engine = s.engine ∧ t.area.holding = s.area.holding ∧ s.Counts t 0 0
    ∧ t.rowMemory (.group g) = { s.rowMemory (.group g) with tornCount := 0 } := by
  have treated := read.treated
  rw [checkRow_group_passes (s := s.checking (.group g)) _ good passes] at treated
  obtain ⟨_, groups, store, engine, _⟩ := rowDone_untouched (s := s) (row := .group g) (bytes := bytes) (by
    rw [treated]
    exact .seenChanged)
  refine ⟨groups, store, engine, ?_, rowDone_counts (f := id) ?_ fun q => ⟨rfl, rfl, rfl⟩, ?_⟩
  · rw [rowDone_journal.1, treated]
    exact checking_journal.1
  · rw [treated, Option.map_id]
    rfl
  · rw [rowDone_rowMemory, treated]
    exact rowMemory_seenChanged (s := s.endFlight) canonical

/-- A row taken: the sweep counts it handed over, and its memory is cleared. -/
theorem changedGroupRow_taken (read : s.ChangedRowRead (.group g) bytes) (canonical : s.Canonical)
    {asked : Option GroupFields} (good : checkGroupRow s.area.groupCount g bytes = .ok asked)
    (adopts : s.passesOver = false)
    (taken : (s.checking (.group g)).adoptGroupRow g asked (headGeneration bytes) = (t, true)) :
    t.Carries (s.rowDone (.group g) bytes) ∧ (s.rowDone (.group g) bytes).rowMemory (.group g) = RowMemory.reset
    ∧ s.Counts (s.rowDone (.group g) bytes) 1 0 := by
  have treated := read.treated
  rw [checkRow_group_takes (s := s.checking (.group g)) _ good adopts taken] at treated
  obtain ⟨sweep, rows⟩ := adopted_plan (s := s) (g := g) asked (headGeneration bytes)
  rw [taken] at sweep rows
  have carries := Carries.rowDone (s := s) (bytes := bytes) (.group g)
  rw [treated] at carries
  refine ⟨(Carries.countHandOver _).trans carries, ?_,
    rowDone_counts (f := fun q => { q with handedOver := q.handedOver + 1 }) ?_ fun q => ⟨rfl, rfl, rfl⟩⟩
  · rw [rowDone_rowMemory, treated]
    exact Sparse.get_set_same (rows canonical)
  · rw [treated, countHandOver_sweep, sweep]

/-- A row rejected for room: the sweep counts it rejected, and its generation is remembered. -/
theorem changedGroupRow_short (read : s.ChangedRowRead (.group g) bytes) (canonical : s.Canonical)
    {asked : Option GroupFields} (good : checkGroupRow s.area.groupCount g bytes = .ok asked)
    (adopts : s.passesOver = false)
    (short : (s.checking (.group g)).adoptGroupRow g asked (headGeneration bytes) = (t, false)) :
    t.Carries (s.rowDone (.group g) bytes)
    ∧ ((s.rowDone (.group g) bytes).rowMemory (.group g)).lastRejected = some (headGeneration bytes)
    ∧ s.Counts (s.rowDone (.group g) bytes) 0 1 := by
  have treated := read.treated
  rw [checkRow_group_short (s := s.checking (.group g)) _ good adopts short] at treated
  obtain ⟨sweep, rows⟩ := adopted_plan (s := s) (g := g) asked (headGeneration bytes)
  rw [short] at sweep rows
  have carries := Carries.rowDone (s := s) (bytes := bytes) (.group g)
  rw [treated] at carries
  have memory : (t.countRoomReject (.group g) (headGeneration bytes)).rowMemory (.group g) =
    { tornCount := 0, lastRejected := some (headGeneration bytes) } := Sparse.get_set_same (rows canonical)
  refine ⟨(Carries.countRoomReject _ _).trans carries, ?_,
    rowDone_counts (f := fun q => { q with rejected := q.rejected + 1 }) ?_ fun q => ⟨rfl, rfl, rfl⟩⟩
  · rw [rowDone_rowMemory, treated, memory]
  · rw [treated, countRoomReject_sweep, sweep]

end State

end Sys2Proof.Machine
end

section
/-! PROOF. O49: a changed group row adopted, and the obligation. -/

namespace Sys2Proof.Machine

namespace State

variable {s : State} {g : Nat} {bytes : List Byte} {generation : Generation} {run : LiveRun}

/-! ### The superseded state (R129, R130) -/

theorem checking_canonical (canonical : s.Canonical) : (s.checking (.group g)).Canonical :=
  ⟨canonical.1, canonical.2.1, canonical.2.2.1, Sparse.set_wf canonical.2.2.2⟩

theorem adopting_canonical (canonical : s.Canonical) : Sparse.wf Owner.free (s.adopting g generation).store.owners
    ∧ Sparse.wf GroupRecord.reset (s.adopting g generation).groups :=
  supersede_canonical (checking_canonical canonical) generation

theorem adopting_group (h : Nat) : (s.adopting g generation).group h = (s.supersede g generation).group h := by
  unfold group
  rw [(adopting_eq generation).2.2]

theorem adopting_group_other (canonical : s.Canonical) {h : Nat} (other : h ≠ g) :
    (s.adopting g generation).group h = s.group h := by
  rw [adopting_group, supersede_group canonical.2.2.1, if_neg other]

theorem adopting_live (canonical : s.Canonical) : ((s.adopting g generation).group g).live = (s.group g).live := by
  rw [adopting_group, supersede_group canonical.2.2.1, if_pos rfl]
  unfold superseded
  split <;> rfl

theorem adopting_supersedes : s.Supersedes (s.adopting g generation) g :=
  let kept := supersede_supersedes (s := s.checking (.group g)) (g := g) generation
  ⟨kept.index, kept.entriesInUse, kept.urgent, kept.restore, kept.loads, kept.memory, kept.snapshot, kept.other⟩

theorem supersede_slotHolds : (s.supersede g generation).area.slotHolds = s.area.slotHolds := by
  cases pending : (s.group g).rebuild with
  | none => rw [supersede_none generation pending]
  | some b =>
    have area : ((s.unreserved g b).abandonBlockStep g).area = s.area := by
      rw [abandonBlockStep_area]
      exact freeBlocks_area _ _
    rw [supersede_eq generation pending, produce_area_slotHolds]
    exact congrArg (·.slotHolds) area

theorem adopting_held (slot : Option (Fin 16)) : (s.adopting g generation).held slot = s.held slot := by
  have holds : (s.adopting g generation).area.slotHolds = s.area.slotHolds :=
    supersede_slotHolds.trans checking_journal.2.2.2.2
  unfold held
  rw [holds]

/-- What completes from the superseded state completes from the one before. -/
theorem Completes.of_adopting {t : State} {slot : Option (Fin 16)} {kind : OrderKind} {failed : Bool} {reason : OrderReason}
    {results : Results} (h : (s.adopting g generation).Completes t slot kind failed reason results) :
    s.Completes t slot kind failed reason results :=
  h.from (adopting_now generation) (supersede_runState (s.checking (.group g)) g generation) (adopting_held slot)

theorem adopting_reports {b : Rebuild} (pending : (s.group g).rebuild = some b) : (s.adopting g generation).Reports s.now
    (.rowSuperseded g b.stepsEnded b.generation generation) :=
  supersede_reports (s := s.checking (.group g)) generation pending

/-- A unit that is no block step stays in progress in the superseded state, and its access stands. -/
theorem adopting_work {unit : Work} (work : s.engine.work = some unit) (other : ∀ p o w, unit ≠ .blockStep g p o w) :
    (s.adopting g generation).engine.work = some unit ∧ (s.adopting g generation).store.access = s.store.access := by
  obtain ⟨same, access⟩ := (adopting_supersedes (generation := generation)).other fun ⟨p, o, w, is⟩ =>
    other p o w (Option.some.inj (work.symm.trans is))
  exact ⟨same.trans work, access⟩

/-! ### An EMPTY row (R131) -/

/-- The state in which an EMPTY row has removed the group. -/
def removed (s : State) (g : Nat) (generation : Generation) : State := (s.adopting g generation).removeGroupRow g generation

theorem removed_group (canonical : s.Canonical) (h : Nat) : (s.removed g generation).group h =
    if h = g then { GroupRecord.reset with liveGeneration := generation } else s.group h := by
  unfold removed
  rw [removeGroupRow_group (adopting_canonical canonical).2]
  split
  · rfl
  · next other => exact adopting_group_other canonical other

theorem removed_unplanned (canonical : s.Canonical) (idle : (s.group g).live = none) :
    (s.removed g generation).store = (s.supersede g generation).store
    ∧ (s.removed g generation).engine = (s.supersede g generation).engine := by
  obtain ⟨store, engine, _⟩ := adopting_eq (s := s) (g := g) generation
  unfold removed
  rw [removeGroupRow_store, removeGroupRow_engine, dropRun_none ((adopting_live canonical).trans idle)]
  exact ⟨store, engine⟩

/-- The store and the index after the removal of a LIVE group (R79, R81, R109). -/
theorem removed_store (canonical : s.Canonical) (live : (s.group g).live = some run) :
    (∀ k, (s.removed g generation).owner k = if k ∈ run.blocks then .free else (s.supersede g generation).owner k)
    ∧ (∀ v, (s.removed g generation).store.loads.get v = s.store.loads.get v - run.load s.store.memory v)
    ∧ (∀ v, (s.removed g generation).engine.index.get v = if ∃ m ∈ run.fields.members, m.uplink = v then
        (s.engine.index.get v).filter (· ≠ g) else s.engine.index.get v)
    ∧ (s.removed g generation).engine.entriesInUse = s.engine.entriesInUse - run.fields.members.length := by
  have live' := (adopting_live (generation := generation) canonical).trans live
  have kept := adopting_supersedes (s := s) (g := g) (generation := generation)
  obtain ⟨store, _, _⟩ := adopting_eq (s := s) (g := g) generation
  refine ⟨fun k => ?_, fun v => ?_, fun v => ?_, ?_⟩
  · have dropped := dropRun_owner (adopting_canonical (generation := generation) (g := g) canonical).1 live' k
    unfold owner at *
    unfold removed
    rw [removeGroupRow_store, dropped, store]
  · unfold removed
    rw [removeGroupRow_store, dropRun_loads live', kept.loads, kept.memory]
  · unfold removed
    rw [removeGroupRow_engine, dropRun_index live', kept.index]
  · unfold removed
    rw [removeGroupRow_engine, dropRun_entriesInUse live', kept.entriesInUse]

theorem Halts.of_adopting {t : State} {requester : Requester} {unit : Work} (work : s.engine.work = some unit)
    (other : ∀ p o w, unit ≠ .blockStep g p o w) (h : (s.adopting g generation).Halts t requester) : s.Halts t requester := by
  obtain ⟨_, access⟩ := adopting_work (generation := generation) work other
  refine ⟨h.1, fun a found is => h.2 a ?_ is⟩
  rw [access, found]

/-- The unit in progress on a removed group ends (R86, R117, R141). -/
theorem removed_work (canonical : s.Canonical) (live : (s.group g).live = some run) :
    (∀ v b converted phase, s.engine.work = some (.walkStep v g b converted phase) →
      s.Halts (s.removed g generation) .walkStep
      ∧ (s.removed g generation).engine.urgent = s.engine.urgent.map (steppedOn v g converted)
      ∧ (s.removed g generation).engine.restore = s.engine.restore.map (steppedOn v g converted))
    ∧ (∀ b phase, s.engine.work = some (.settlePass g b phase) → s.Halts (s.removed g generation) .settlePass
      ∧ (s.removed g generation).engine.urgent = s.engine.urgent
      ∧ (s.removed g generation).engine.restore = s.engine.restore)
    ∧ (∀ item phase, s.engine.work = some (.fix item phase) → item.group = g → phase ≠ .wantRead →
      s.Halts (s.removed g generation) .fix ∧ (s.removed g generation).engine.urgent = s.engine.urgent
      ∧ (s.removed g generation).engine.restore = s.engine.restore)
    ∧ ∀ item, s.engine.work = some (.fix item .wantRead) → (s.removed g generation).engine.work = s.engine.work
      ∧ (s.removed g generation).engine.urgent = s.engine.urgent
      ∧ (s.removed g generation).engine.restore = s.engine.restore := by
  have live' := (adopting_live (generation := generation) canonical).trans live
  have kept := adopting_supersedes (s := s) (g := g) (generation := generation)
  have engine : (s.removed g generation).engine = ((s.adopting g generation).dropRun g).engine := removeGroupRow_engine
  have halts {requester : Requester} (h : (s.adopting g generation).Halts ((s.adopting g generation).dropRun g) requester) :
      (s.adopting g generation).Halts (s.removed g generation) requester := by
    unfold Halts at *
    unfold removed
    rwa [removeGroupRow_engine, removeGroupRow_store]
  rw [engine, ← kept.urgent, ← kept.restore]
  refine ⟨fun v b converted phase work => ?_, fun b phase work => ?_, fun item phase work same granted => ?_,
    fun item work => ?_⟩
  · have other : ∀ p o w, Work.walkStep v g b converted phase ≠ .blockStep g p o w := nofun
    obtain ⟨stops, walks⟩ := dropRun_walkStep live' (adopting_work (generation := generation) work other).1
    exact ⟨(halts stops).of_adopting work other, walks⟩
  · have other : ∀ p o w, Work.settlePass g b phase ≠ .blockStep g p o w := nofun
    obtain ⟨stops, walks⟩ := dropRun_settlePass live' (adopting_work (generation := generation) work other).1
    exact ⟨(halts stops).of_adopting work other, walks⟩
  · have other : ∀ p o w, Work.fix item phase ≠ .blockStep g p o w := nofun
    obtain ⟨stops, walks⟩ := dropRun_fix live' (adopting_work (generation := generation) work other).1 same granted
    exact ⟨(halts stops).of_adopting work other, walks⟩
  · have other : ∀ p o w, Work.fix item .wantRead ≠ .blockStep g p o w := nofun
    have waits := (adopting_work (generation := generation) work other).1
    obtain ⟨goesOn, walks⟩ := dropRun_waitingFix live' waits
    exact ⟨goesOn.trans (waits.trans work.symm), walks⟩

theorem removed_snapshot (canonical : s.Canonical) (live : (s.group g).live = some run) :
    (∀ n, s.store.snapshot = some n → n.group = g → (s.removed g generation).store.snapshot = none
      ∧ s.Completes (s.removed g generation) (some n.slot) .snapshot true .runReplaced
          { r1 := BitVec.ofNat 32 n.next, r2 := 0, r3 := 0, r4 := 0 })
    ∧ ∀ n, s.store.snapshot = some n → n.group ≠ g → (s.removed g generation).store.snapshot = some n := by
  have live' := (adopting_live (generation := generation) canonical).trans live
  have kept := adopting_supersedes (s := s) (g := g) (generation := generation)
  obtain ⟨ends, stays⟩ := dropRun_snapshot live'
  rw [kept.snapshot] at ends stays
  have store : (s.removed g generation).store = ((s.adopting g generation).dropRun g).store := removeGroupRow_store
  rw [store]
  refine ⟨fun n snapshot named => ?_, stays⟩
  obtain ⟨gone, done⟩ := ends n snapshot named
  exact ⟨gone, done.removeGroupRow.of_adopting⟩

/-! ### A planned row (R132, R133) -/

variable {f : GroupFields}

theorem adopting_freeBlockCount : (s.adopting g generation).freeBlockCount = (s.supersede g generation).freeBlockCount := by
  unfold freeBlockCount
  rw [(adopting_eq generation).1]

theorem adopting_freeIndexEntries :
    (s.adopting g generation).freeIndexEntries = (s.supersede g generation).freeIndexEntries := by
  unfold freeIndexEntries
  rw [(adopting_eq generation).2.1]

theorem adopting_owner (k : Nat) : (s.adopting g generation).owner k = (s.supersede g generation).owner k := by
  unfold owner
  rw [(adopting_eq generation).1]

theorem adopting_netIncrease (canonical : s.Canonical) : (s.adopting g generation).netIncrease g f =
    f.members.length - (match (s.group g).live with | some run => run.fields.members.length | none => 0) := by
  unfold netIncrease liveRun
  rw [adopting_live canonical] <;> cases (s.group g).live <;> rfl

theorem changedGroupRow_noBlocks (canonical : s.Canonical) (read : s.ChangedRowRead (.group g) bytes)
    (good : checkGroupRow s.area.groupCount g bytes = .ok (some f)) (adopts : s.passesOver = false)
    (short : (s.supersede g (headGeneration bytes)).freeBlockCount < f.blockCount) :
    let t := s.rowDone (.group g) bytes
    let u := s.supersede g (headGeneration bytes)
    (∀ h, t.group h = if h = g then { u.group g with liveGeneration := (u.group g).adoptedGeneration } else s.group h)
    ∧ t.store = u.store ∧ t.engine = u.engine ∧ (t.rowMemory (.group g)).lastRejected = some (headGeneration bytes)
    ∧ s.Counts t 0 1 ∧ t.Reports s.now (.rowRejected (.group g) .noBlocks (headGeneration bytes)
        (BitVec.ofNat 32 f.blockCount) (BitVec.ofNat 32 u.freeBlockCount)) := by
  rw [← adopting_freeBlockCount] at short
  have rejected := reserveRow_noBlocks (g := g) (generation := headGeneration bytes) short
  obtain ⟨carries, memory, counts⟩ := changedGroupRow_short read canonical good adopts rejected
  obtain ⟨store, engine, _⟩ := adopting_eq (s := s) (g := g) (headGeneration bytes)
  refine ⟨fun h => ?_, ?_, ?_, memory, counts, carries.reports ?_⟩
  · rw [carries.group, rejectRoom_group (adopting_canonical canonical).2, adopting_group]
    split
    · rfl
    · next other => exact adopting_group_other canonical other
  · rw [carries.store, rejectRoom_store, store]
  · rw [carries.engine, rejectRoom_engine, engine]
  · rw [← adopting_freeBlockCount, ← adopting_now (s := s) (g := g) (headGeneration bytes)]
    exact rejectRoom_reports _ _ _

/-- Blocks reserved and returned change the owner table only. -/
theorem reserved_freed (n : Nat) : (s.reserved g n).freeBlocks (s.lowestBlocks n) = { s with store := { s.store with
    owners := ((s.reserved g n).freeBlocks (s.lowestBlocks n)).store.owners } } := by
  rw [freeBlocks_eq]
  congr 1 <;> rw [reserved_eq]

theorem changedGroupRow_noIndex (canonical : s.Canonical) (read : s.ChangedRowRead (.group g) bytes)
    (good : checkGroupRow s.area.groupCount g bytes = .ok (some f)) (adopts : s.passesOver = false)
    (room : f.blockCount ≤ (s.supersede g (headGeneration bytes)).freeBlockCount)
    (short : (s.supersede g (headGeneration bytes)).freeIndexEntries < (s.adopting g (headGeneration bytes)).netIncrease g f) :
    let t := s.rowDone (.group g) bytes
    let u := s.supersede g (headGeneration bytes)
    (∀ h, t.group h = if h = g then { u.group g with liveGeneration := (u.group g).adoptedGeneration } else s.group h)
    ∧ t.engine = u.engine ∧ (∀ k, t.owner k = u.owner k)
    ∧ (t.rowMemory (.group g)).lastRejected = some (headGeneration bytes) ∧ s.Counts t 0 1
    ∧ t.Reports s.now (.rowRejected (.group g) .noIndex (headGeneration bytes)
        (BitVec.ofNat 32 ((s.adopting g (headGeneration bytes)).netIncrease g f)) (BitVec.ofNat 32 u.freeIndexEntries)) := by
  rw [← adopting_freeBlockCount] at room
  rw [← adopting_freeIndexEntries] at short
  have rejected := reserveRow_noIndex (generation := headGeneration bytes) room short
  obtain ⟨carries, memory, counts⟩ := changedGroupRow_short read canonical good adopts rejected
  obtain ⟨_, engine, _⟩ := adopting_eq (s := s) (g := g) (headGeneration bytes)
  obtain ⟨owners, groups⟩ := adopting_canonical (g := g) (generation := headGeneration bytes) canonical
  have returned := reserved_freed (s := s.adopting g (headGeneration bytes)) (g := g) f.blockCount
  refine ⟨fun h => ?_, ?_, fun k => ?_, memory, counts, carries.reports ?_⟩
  · have kept : (((s.adopting g (headGeneration bytes)).reserved g f.blockCount).freeBlocks
        ((s.adopting g (headGeneration bytes)).lowestBlocks f.blockCount)).groups =
        (s.adopting g (headGeneration bytes)).groups := by rw [returned]
    have group (h : Nat) : (((s.adopting g (headGeneration bytes)).reserved g f.blockCount).freeBlocks
        ((s.adopting g (headGeneration bytes)).lowestBlocks f.blockCount)).group h =
        (s.adopting g (headGeneration bytes)).group h := by
      unfold State.group
      rw [kept]
    rw [carries.group, rejectRoom_group (by rwa [kept]), group, group, adopting_group]
    split
    · rfl
    · next other => exact adopting_group_other canonical other
  · rw [carries.engine, rejectRoom_engine, returned, engine]
  · rw [carries.owner, ← adopting_owner, ← reserved_freed_owner owners room k]
    unfold owner
    rw [rejectRoom_store]
  · have now : ((s.adopting g (headGeneration bytes)).reserved g f.blockCount |>.freeBlocks
        ((s.adopting g (headGeneration bytes)).lowestBlocks f.blockCount)).now = s.now := by
      rw [returned]
      exact adopting_now _
    rw [← adopting_freeIndexEntries, ← now]
    exact rejectRoom_reports _ _ _

/-- The lowest-numbered free blocks are reserved and the rebuild is created. -/
theorem changedGroupRow_planned (canonical : s.Canonical) (read : s.ChangedRowRead (.group g) bytes)
    (good : checkGroupRow s.area.groupCount g bytes = .ok (some f)) (adopts : s.passesOver = false)
    (room : f.blockCount ≤ (s.supersede g (headGeneration bytes)).freeBlockCount)
    (space : (s.adopting g (headGeneration bytes)).netIncrease g f ≤ (s.supersede g (headGeneration bytes)).freeIndexEntries) :
    let t := s.rowDone (.group g) bytes
    let u := s.supersede g (headGeneration bytes)
    let blocks := u.lowestBlocks f.blockCount
    let entries := (s.adopting g (headGeneration bytes)).netIncrease g f
    (∀ h, t.group h = if h = g then { u.group g with
        liveGeneration := headGeneration bytes
        rebuild := some { staged := f, generation := headGeneration bytes, blocks, indexReservation := entries,
                          progress := .step 0, recheck := false, adoptedAt := s.now } } else s.group h)
    ∧ (∀ i k, blocks[i]? = some k → t.owner k = .reserved g i) ∧ (∀ k, k ∉ blocks → t.owner k = u.owner k)
    ∧ t.engine.intake = u.engine.intake ++ [.blockStep g 0]
    ∧ t.engine.entriesReserved = u.engine.entriesReserved + entries
    ∧ t.rowMemory (.group g) = RowMemory.reset ∧ s.Counts t 1 0
    ∧ t.Reports s.now (.rowAdopted (.group g) .planned (headGeneration bytes) f.bucketSize f.blockCount entries) := by
  have blocks : (s.adopting g (headGeneration bytes)).lowestBlocks f.blockCount =
      (s.supersede g (headGeneration bytes)).lowestBlocks f.blockCount := by
    unfold lowestBlocks
    rw [(adopting_eq _).1]
  rw [← adopting_freeBlockCount] at room
  rw [← adopting_freeIndexEntries] at space
  have taken := reserveRow_adopts (generation := headGeneration bytes) room space
  obtain ⟨carries, memory, counts⟩ := changedGroupRow_taken read canonical good adopts taken
  obtain ⟨_, engine, _⟩ := adopting_eq (s := s) (g := g) (headGeneration bytes)
  obtain ⟨owners, groups⟩ := adopting_canonical (g := g) (generation := headGeneration bytes) canonical
  obtain ⟨reservedAt, others⟩ := reserved_owner (g := g) owners room
  have same := reserved_eq (s := s.adopting g (headGeneration bytes)) (g := g) f.blockCount
  have owner (k : Nat) : (s.rowDone (.group g) bytes).owner k =
      ((s.adopting g (headGeneration bytes)).reserved g f.blockCount).owner k := by
    rw [carries.owner]
    unfold State.owner
    rw [createRebuild_store]
  have now : ((s.adopting g (headGeneration bytes)).reserved g f.blockCount).now = s.now := by
    rw [same]
    exact adopting_now _
  rw [blocks] at reservedAt others
  refine ⟨fun h => ?_, fun i k at_ => (owner k).trans (reservedAt i k at_),
    fun k apart => ((owner k).trans (others k apart)).trans (adopting_owner k), ?_, ?_, memory, counts, carries.reports ?_⟩
  · have kept : ((s.adopting g (headGeneration bytes)).reserved g f.blockCount).groups =
        (s.adopting g (headGeneration bytes)).groups := by rw [same]
    have group (h : Nat) : ((s.adopting g (headGeneration bytes)).reserved g f.blockCount).group h =
        (s.adopting g (headGeneration bytes)).group h := by
      unfold State.group
      rw [kept]
    rw [carries.group, createRebuild_group (by rwa [kept]), group, group, now, blocks, adopting_group]
    split
    · rfl
    · next other => exact adopting_group_other canonical other
  · rw [carries.engine, createRebuild_engine, same, ← engine]
  · rw [carries.engine, createRebuild_engine, same, ← engine]
  · have reports := createRebuild_reports (s := (s.adopting g (headGeneration bytes)).reserved g f.blockCount) (g := g) (f := f)
      (generation := headGeneration bytes) ((s.adopting g (headGeneration bytes)).lowestBlocks f.blockCount)
      ((s.adopting g (headGeneration bytes)).netIncrease g f)
    rwa [now, (lowestBlocks_spec room).1] at reports

end State

end Sys2Proof.Machine
end

section
/-! PROOF. O49: the obligation. -/

namespace Sys2Proof.Machine

namespace State

variable {s : State} {g : Nat} {bytes : List Byte}

/-- The supersede of a rebuild by a newer row (R130). -/
theorem supersede_conclude {generation : Generation} {b : Rebuild} (canonical : s.Canonical)
    (pending : (s.group g).rebuild = some b) : let t := s.supersede g generation
    let building := ∃ p o w, s.engine.work = some (.blockStep g p o w)
    t.group g = { s.group g with rebuild := none, liveGeneration := (s.group g).adoptedGeneration }
    ∧ (∀ h, h ≠ g → t.group h = s.group h)
    ∧ (∀ k, t.owner k = if k ∈ b.blocks then .free else s.owner k)
    ∧ t.store = { s.store with owners := t.store.owners, access := t.store.access }
    ∧ t.engine = { s.engine with
        entriesReserved := s.engine.entriesReserved - b.indexReservation
        intake := s.engine.intake.filter fun i => match i with
          | .blockStep h _ => decide (h ≠ g)
          | .flip h => decide (h ≠ g)
          | _ => true
        work := t.engine.work }
    ∧ (building → t.engine.work = none ∧ t.store.access = s.store.access.map fun a =>
        if a.requester = .blockStep then { a with wanted := false } else a)
    ∧ (¬building → t.engine.work = s.engine.work ∧ t.store.access = s.store.access)
    ∧ t.monitor = s.monitor ∧ t.conduits = s.conduits ∧ t.port = s.port
    ∧ t.Reports s.now (.rowSuperseded g b.stepsEnded b.generation generation) := by
  obtain ⟨store, engine, abandoned, other⟩ := supersede_cancels generation pending
  refine ⟨?_, fun h apart => ?_, supersede_owner canonical.2.1 generation pending, store, ?_, abandoned, other,
    supersede_monitor _ _ _, supersede_conduits _ _ _, supersede_port _ _ _, supersede_reports generation pending⟩
  · rw [supersede_group canonical.2.2.1, if_pos rfl, superseded, pending]
  · rw [supersede_group canonical.2.2.1, if_neg apart]
  · refine engine.trans ?_
    refine congrArg (fun intake => ({ s.engine with
      entriesReserved := s.engine.entriesReserved - b.indexReservation, intake, work := _ } : WalkEngine)) ?_
    refine List.filter_congr fun i _ => ?_
    cases i <;> simp [IntakeItem.rebuilds, beq_eq_decide]

theorem Carries.halts {t v : State} {requester : Requester} (h : t.Carries v) (halts : s.Halts t requester) :
    s.Halts v requester := by
  unfold Halts at *
  rwa [h.engine, h.store]

/-- The supersede is reported whatever the row then becomes. -/
theorem changedGroupRow_reports_supersede (read : s.ChangedRowRead (.group g) bytes) (canonical : s.Canonical)
    {asked : Option GroupFields} (good : checkGroupRow s.area.groupCount g bytes = .ok asked)
    (adopts : s.passesOver = false) {b : Rebuild} (pending : (s.group g).rebuild = some b) :
    (s.rowDone (.group g) bytes).Reports s.now
      (.rowSuperseded g b.stepsEnded b.generation (headGeneration bytes)) := by
  have reports := adopting_reports (generation := headGeneration bytes) pending
  have now := adopting_now (s := s) (g := g) (headGeneration bytes)
  cases asked with
  | none =>
    obtain ⟨carries, _⟩ := changedGroupRow_taken read canonical good adopts rfl
    exact carries.reports (reports.removeGroupRow now)
  | some f =>
    have reserved := reports.reserveRow (f := f) (g := g) (generation := headGeneration bytes) now
    cases taken : ((s.adopting g (headGeneration bytes)).reserveRow g f (headGeneration bytes)).2 with
    | true =>
      obtain ⟨carries, _⟩ := changedGroupRow_taken read canonical good adopts (Prod.ext rfl taken)
      exact carries.reports reserved
    | false =>
      obtain ⟨carries, _⟩ := changedGroupRow_short read canonical good adopts (Prod.ext rfl taken)
      exact carries.reports reserved

theorem checkRow_group_monitor (generation : Generation) :
    (s.checkRow (.group g) generation bytes).monitor = s.monitor := by
  unfold checkRow
  dsimp only
  split
  · exact rejectRow_monitor _ _ _ _
  · next asked _ =>
    split
    · rfl
    · have kept := adoptGroupRow_monitor s g asked generation
      split
      · next taken =>
        rw [taken] at kept
        exact (countHandOver_monitor _ _).trans kept
      · next short =>
        rw [short] at kept
        exact (countRoomReject_monitor _ _ _).trans kept

theorem ChangedRowRead.monitor (read : s.ChangedRowRead (.group g) bytes) :
    (s.rowDone (.group g) bytes).monitor = s.monitor := by
  rw [rowDone_frame.2.2.2.1, read.treated]
  exact checkRow_group_monitor _

end State

open State in
/-- Settles O49: the supersede, then the row rejected, removed, without room, or planned. -/
theorem changedGroupRowIsAdoptedOrRejected : Obligations.ChangedGroupRowIsAdoptedOrRejected := by
  unfold Obligations.ChangedGroupRowIsAdoptedOrRejected
  refine ⟨fun s g generation b canonical pending => supersede_conclude canonical pending, ?_⟩
  intro s bytes g canonical size flight free generation whole differs fresh adopts counts u stops walksKept among
  have read : s.ChangedRowRead (.group g) bytes := ⟨size, flight, free, whole, differs, fresh⟩
  have executes := exec_rowRead size flight
  have handsOver : s.passesOver = false ↔ adopts := passesOver_iff
  cases checked : checkGroupRow s.area.groupCount g bytes with
  | error why =>
    obtain ⟨groups, store, engine, memory, counted, reports⟩ := changedGroupRow_rejected read canonical checked
    refine ⟨_, executes, fun h _ => congrArg (Sparse.get GroupRecord.reset · h) groups, read.monitor, rowDone_memory,
      fun why' same => ?_, nofun, nofun, nofun, nofun⟩
    obtain rfl : why = why' := Except.error.inj same
    exact ⟨groups, store, engine, memory, counted, reports⟩
  | ok asked =>
    by_cases passes : s.passesOver = true
    · obtain ⟨groups, store, engine, holding, counted, memory⟩ := changedGroupRow_passed read canonical checked passes
      have not : ¬adopts := fun adopts => by simp [handsOver.mpr adopts] at passes
      exact ⟨_, executes, fun h _ => congrArg (Sparse.get GroupRecord.reset · h) groups, read.monitor, rowDone_memory,
        nofun, fun _ _ => .inr ⟨groups, store, engine, holding, counted, memory⟩, fun _ _ h => absurd h not,
        fun _ h => absurd h not, fun _ _ h => absurd h not⟩
    · have takes : s.passesOver = false := by simpa using passes
      have superseded := fun b => changedGroupRow_reports_supersede (b := b) read canonical checked takes
      cases asked with
      | none =>
        obtain ⟨carries, memory, counted⟩ := changedGroupRow_taken (t := s.removed g generation) read canonical checked takes rfl
        refine ⟨_, executes, fun h other => ?_, read.monitor, rowDone_memory, nofun, fun _ _ => .inl (handsOver.mp takes),
          fun _ _ _ b pending => superseded b pending,
          fun _ _ => ⟨?_, memory, counted, carries.reports ?_, fun idle => ?_, fun run live => ?_⟩, nofun⟩
        · rw [carries.group, removed_group canonical, if_neg other]
        · rw [carries.group, removed_group canonical, if_pos rfl]
        · rw [← adopting_now (s := s) (g := g) generation]
          exact removeGroupRow_reports
        · rw [carries.store, carries.engine]
          exact removed_unplanned canonical idle
        · obtain ⟨owner, loads, index, entries⟩ := removed_store (generation := generation) canonical live
          obtain ⟨walk, pass, fix, waiting⟩ := removed_work (generation := generation) canonical live
          obtain ⟨ends, stays⟩ := removed_snapshot (generation := generation) canonical live
          have urgent := congrArg (·.urgent) carries.engine
          have restore := congrArg (·.restore) carries.engine
          refine ⟨fun k => (carries.owner k).trans (owner k), fun v => ?_, fun v inside => ?_, fun v outside => ?_, ?_,
            fun v b converted phase work => ?_, fun b phase work => ?_, fun item phase work same granted => ?_,
            fun item work => ?_, fun n snapshot same => ?_, fun n snapshot other => ?_⟩
          · rw [carries.store, loads]
          · rw [carries.engine, index, if_pos inside]
          · rw [carries.engine, index, if_neg outside]
          · rw [carries.engine, entries]
          · obtain ⟨halts, urgent', restore'⟩ := walk v b converted phase work
            exact ⟨carries.halts halts, urgent.trans urgent', restore.trans restore'⟩
          · obtain ⟨halts, urgent', restore'⟩ := pass b phase work
            exact ⟨carries.halts halts, urgent.trans urgent', restore.trans restore'⟩
          · obtain ⟨halts, urgent', restore'⟩ := fix item phase work same granted
            exact ⟨carries.halts halts, urgent.trans urgent', restore.trans restore'⟩
          · obtain ⟨goesOn, urgent', restore'⟩ := waiting item work
            exact ⟨(congrArg (·.work) carries.engine).trans goesOn, urgent.trans urgent', restore.trans restore'⟩
          · obtain ⟨gone, done⟩ := ends n snapshot same
            rw [carries.store]
            exact ⟨gone, done.of_eq carries.completions carries.holding carries.lastDrop carries.slotHolds⟩
          · rw [carries.store]
            exact stays n snapshot other
      | some f =>
        have net := adopting_netIncrease (g := g) (f := f) (generation := generation) canonical
        by_cases room : f.blockCount ≤ u.freeBlockCount
        · by_cases space : (s.adopting g generation).netIncrease g f ≤ u.freeIndexEntries
          · obtain ⟨groups, reservedAt, others, intake, reserved, memory, counted, reports⟩ :=
              changedGroupRow_planned canonical read checked takes room space
            obtain ⟨length, ascending, free, lowest⟩ := lowestBlocks_spec room
            rw [net] at groups reserved reports space
            refine ⟨_, executes, fun h other => (groups h).trans (if_neg other), read.monitor, rowDone_memory, nofun,
              fun _ _ => .inl (handsOver.mp takes), fun _ _ _ b pending => superseded b pending, nofun, fun f' same _ => ?_⟩
            obtain rfl : f = f' := Option.some.inj (Except.ok.inj same)
            exact ⟨fun short => absurd room (Nat.not_le.mpr short), fun _ short => absurd space (Nat.not_le.mpr short),
              fun _ _ => ⟨⟨_, length, ascending, free, lowest, (groups g).trans (if_pos rfl), reservedAt, others⟩, intake,
                reserved, memory, counted, reports⟩⟩
          · obtain ⟨groups, engine, owner, memory, counted, reports⟩ :=
              changedGroupRow_noIndex canonical read checked takes room (Nat.not_le.mp space)
            rw [net] at space reports
            refine ⟨_, executes, fun h other => (groups h).trans (if_neg other), read.monitor, rowDone_memory, nofun,
              fun _ _ => .inl (handsOver.mp takes), fun _ _ _ b pending => superseded b pending, nofun, fun f' same _ => ?_⟩
            obtain rfl : f = f' := Option.some.inj (Except.ok.inj same)
            exact ⟨fun short => absurd room (Nat.not_le.mpr short),
              fun _ _ => ⟨(groups g).trans (if_pos rfl), engine, owner, memory, counted, reports⟩,
              fun _ fits => absurd fits space⟩
        · obtain ⟨groups, store, engine, memory, counted, reports⟩ :=
            changedGroupRow_noBlocks canonical read checked takes (Nat.not_le.mp room)
          refine ⟨_, executes, fun h other => (groups h).trans (if_neg other), read.monitor, rowDone_memory, nofun,
            fun _ _ => .inl (handsOver.mp takes), fun _ _ _ b pending => superseded b pending, nofun, fun f' same _ => ?_⟩
          obtain rfl : f = f' := Option.some.inj (Except.ok.inj same)
          exact ⟨fun _ => ⟨(groups g).trans (if_pos rfl), store, engine, memory, counted, reports⟩,
            fun fits => absurd fits room, fun fits => absurd fits room⟩

end Sys2Proof.Machine
end

section
/-! PROOF. What the adoption of an uplink row brings after the end of a drill (R25 to R28, R112, R113). -/

namespace Sys2Proof.Machine

namespace State

variable {s t v : State} {u : Fin 32} {raised : Option DarkCause} {others : List Entry} {first moves : List Move}

/-! ### Records and completions kept -/

/-- What was reported stays reported when records are produced. -/
theorem Reports.keep {l : List Entry} {e : Entry} (reported : t.Reports t.now e) (h : t.Produced v l) :
    v.Reports t.now e := by
  obtain ⟨holding, fits, drops⟩ := h
  unfold Reports at *
  rw [holding]
  rcases reported with held | ⟨full, last⟩
  · exact .inl (List.mem_append_left _ held)
  · refine .inr ⟨by rw [List.length_append]; omega, ?_⟩
    by_cases room : l.length ≤ 16 - t.area.holding.length
    · rw [(fits room).2.2, last]
    · exact (drops (by omega)).2.1

/-- What completed stays so while orders and reports are kept. -/
theorem Completes.keep {slot : Option (Fin 16)} {kind : OrderKind} {failed : Bool} {reason : OrderReason}
    {results : Results} (h : s.Completes t slot kind failed reason results)
    (completions : v.area.completions = t.area.completions) (slotHolds : v.area.slotHolds = t.area.slotHolds)
    (reports : ∀ e, t.Reports s.now e → v.Reports s.now e) : s.Completes v slot kind failed reason results := by
  unfold Completes at *
  cases held : s.held slot with
  | none =>
    rw [held] at h
    exact reports _ h
  | some k =>
    rw [held] at h
    dsimp only at h ⊢
    rw [completions, slotHolds]
    split
    · next running =>
      rwa [if_pos running] at h
    · next other =>
      rw [if_neg other] at h
      exact ⟨reports _ h.1, h.2⟩

/-! ### An event in two parts, the second without a raise -/

/-- What the second part brings: the changes of state `moves` of uplink `u`, which is handed over where `handed` says. -/
def Then (t v : State) (u : Fin 32) (moves : List Move) (handed : Bool) : Prop :=
  t.Brings v (fun e => e.moved u t.now moves) (fun w => decide (w = u) && handed) (moves.map (Move.record u))
    (decide (∃ m ∈ moves, m.left = .up ∧ m.entered ≠ .up))

theorem Then.quiet (control : v.control = t.control) (engine : v.engine = t.engine) (groups : v.groups = t.groups)
    (area : v.area = t.area) : t.Then v u [] false :=
  (Brings.quiet (f := id) control engine groups (congrArg (·.holding) area) (congrArg (·.gapCount) area)
    (congrArg (·.firstDrop) area) (congrArg (·.lastDrop) area)).congr rfl (fun w => by simp) rfl (by simp)

theorem Then.changeState (new : UplinkState) (cause : Option DarkCause) : t.Then (t.changeState u new cause) u
    [{ left := (t.uplink u).state, entered := new, cause := causeAfter new cause }] true :=
  (Brings.changeState (s := t) u new cause).congr rfl (fun w => by simp) rfl (by simp)

theorem Then.recheck : t.Then (t.recheckUplinks (· == u)) u [] true :=
  (Brings.recheck (s := t) (· == u)).congr rfl (fun w => by by_cases e : w = u <;> simp [e]) rfl (by simp)

theorem Then.trans {w : State} {more : List Move} {handed handed' : Bool} (x : t.Then v u moves handed)
    (y : v.Then w u more handed') : t.Then w u (moves ++ more) (handed || handed') := by
  have both : t.Brings w _ _ _ _ := Brings.trans x y
  refine both.congr ?_ (fun a => ?_) (List.map_append) ?_
  · simp only [Function.comp_apply, WalkEngine.moved, List.foldl_append, x.now]
  · by_cases e : a = u <;> simp [e]
  · rw [← Bool.decide_or]
    apply decide_eq_decide.2
    simp only [List.mem_append]
    constructor
    · rintro ⟨m, inside | inside, left⟩
      exacts [.inl ⟨m, inside, left⟩, .inr ⟨m, inside, left⟩]
    · rintro (⟨m, inside, left⟩ | ⟨m, inside, left⟩)
      exacts [⟨m, .inl inside, left⟩, ⟨m, .inr inside, left⟩]

/-- What is brought stays so where nothing that it is about changes. -/
theorem Then.settle {w : State} {handed : Bool} (x : t.Then v u moves handed) (control : w.control = v.control)
    (engine : w.engine = v.engine) (groups : w.groups = v.groups) (holding : w.area.holding = v.area.holding)
    (gap : w.area.gapCount = v.area.gapCount) (first : w.area.firstDrop = v.area.firstDrop)
    (last : w.area.lastDrop = v.area.lastDrop) : t.Then w u moves handed :=
  Brings.settle x control engine groups holding gap first last

/-- The two parts of the event in the words of the statement. -/
theorem Brought.conclude (x : s.Brought t u first raised others) {handed : Bool} (y : t.Then v u moves handed) :
    s.Effects v u (first ++ moves) raised others
    ∧ ∀ (P : Prop) [Decidable P], (P ↔ first ≠ [] ∨ handed = true) → s.Rechecks v u P raised := by
  obtain ⟨l, perm, b⟩ := x
  have both : s.Brings v _ _ _ _ := b.trans y
  refine ⟨⟨?_, ⟨_, both.produced, ?_⟩, ?_, both.interrupts⟩, fun P _ iff g => ?_⟩
  · rw [both.engine]
    simp only [Function.comp_apply, WalkEngine.moved, List.foldl_append, b.now]
  · refine (perm.append_right _).trans ?_
    rw [List.map_append]
    simp only [← Multiset.coe_eq_coe, ← Multiset.coe_add]
    unfold alarmRecord
    abel
  · rw [both.cause]
    simp only [Bool.or_eq_true, decide_eq_true_eq]
    congr 2
    apply if_congr _ rfl rfl
    simp only [List.mem_append]
    constructor
    · rintro ((⟨m, inside, left⟩ | alarms) | ⟨m, inside, left⟩)
      exacts [.inl ⟨m, .inl inside, left⟩, .inr alarms, .inl ⟨m, .inr inside, left⟩]
    · rintro (⟨m, inside | inside, left⟩ | alarms)
      exacts [.inl (.inl ⟨m, inside, left⟩), .inr ⟨m, inside, left⟩, .inl (.inr alarms)]
  · rw [both.groups]
    congr 1
    funext w
    have same : decide P = (decide (first ≠ []) || handed) := by
      rw [Bool.eq_iff_iff]
      simpa using iff
    rw [same]
    by_cases e : w = u <;> cases handed <;> simp [e]

end State

end Sys2Proof.Machine
end

section
/-! PROOF. What an uplink row of each kind makes of the uplink it is adopted for (R25 to R27). -/

namespace Sys2Proof.Machine

namespace State

variable {t : State} {u : Fin 32} {p : UplinkParams}

/-! ### The acts of a row -/

theorem ageFlaps_uplink_self : (t.ageFlaps u).uplink u = (t.uplink u).aged t.now := by
  unfold ageFlaps UplinkRecord.aged
  rw [modifyUplink_uplink_self, pruneFlaps_eq]
  rfl

theorem ageFlaps_uplink_other {v : Fin 32} (other : v ≠ u) : (t.ageFlaps u).uplink v = t.uplink v :=
  modifyUplink_uplink_other _ _ _ _ other

theorem Then.ageFlaps {s : State} {moves : List Move} {handed : Bool} (x : s.Then t u moves handed) :
    s.Then (t.ageFlaps u) u moves handed := x.settle rfl rfl rfl rfl rfl rfl rfl

/-- A change of the record before a change of state. -/
theorem Then.changeAfter (r : UplinkRecord) (new : UplinkState) (cause : Option DarkCause) :
    t.Then ((t.setUplink u r).changeState u new cause) u
      [{ left := r.state, entered := new, cause := causeAfter new cause }] true := by
  have set : t.Then (t.setUplink u r) u [] false := .quiet rfl rfl rfl rfl
  have whole := set.trans (.changeState (t := t.setUplink u r) new cause)
  rwa [setUplink_uplink_self] at whole

theorem changeAfter_uplink_self (r : UplinkRecord) (new : UplinkState) (cause : Option DarkCause) :
    ((t.setUplink u r).changeState u new cause).uplink u = { r with state := new, darkCause := causeAfter new cause } := by
  rw [changeState_uplink_self, setUplink_uplink_self]

theorem changeAfter_uplink_other (r : UplinkRecord) (new : UplinkState) (cause : Option DarkCause) {v : Fin 32}
    (other : v ≠ u) : ((t.setUplink u r).changeState u new cause).uplink v = t.uplink v := by
  rw [changeState_uplink_other _ _ _ _ _ other]
  exact modifyUplink_uplink_other t u v (fun _ => r) other

/-! ### EMPTY and disabled rows (R25, R27) -/

theorem adoptEmpty_stays (state : (t.uplink u).state = .unconfigured) (cause : (t.uplink u).darkCause = some .removed) :
    t.adoptEmpty u = t := if_pos ⟨state, cause⟩

theorem adoptEmpty_removes (other : (t.uplink u).state ≠ .unconfigured ∨ (t.uplink u).darkCause ≠ some .removed) :
    t.adoptEmpty u = (t.setUplink u { (t.uplink u).silenced with params := UplinkParams.default, flaps := [] }).changeState
      u .unconfigured (some .removed) := if_neg (by tauto)

theorem adoptDisabled_stays (state : (t.uplink u).state = .adminDown) (cause : (t.uplink u).darkCause = some .admin) :
    t.adoptDisabled u p = t.setUplink u ((t.uplink u).adopted p) := if_pos ⟨state, cause⟩

theorem adoptDisabled_disables (other : (t.uplink u).state ≠ .adminDown ∨ (t.uplink u).darkCause ≠ some .admin) :
    t.adoptDisabled u p = (t.setUplink u ((t.uplink u).adopted p).silenced).changeState u .adminDown (some .admin) :=
  if_neg (by tauto)

/-! ### Enabled rows (R26, R27, R49) -/

theorem adoptEnabled_enables (idle : (t.uplink u).state.probing = false) : t.adoptEnabled u p = t.enable u p :=
  if_pos (by simp [idle])

theorem adoptEnabled_repeers (probing : (t.uplink u).state.probing = true)
    (changed : p.peerIdentity ≠ (t.uplink u).params.peerIdentity ∨ p.peerUplink ≠ (t.uplink u).params.peerUplink) :
    t.adoptEnabled u p = t.repeer u p := by
  unfold adoptEnabled
  dsimp only
  rw [if_neg (by simp [probing]), if_pos changed]

theorem adoptEnabled_retunes (probing : (t.uplink u).state.probing = true)
    (identity : p.peerIdentity = (t.uplink u).params.peerIdentity) (uplink : p.peerUplink = (t.uplink u).params.peerUplink) :
    t.adoptEnabled u p = t.retune u p := by
  unfold adoptEnabled
  dsimp only
  rw [if_neg (by simp [probing]), if_neg (by simp [identity, uplink])]

theorem retune_then : t.Then (t.retune u p) u [] (decide (t.shadowed u ≠ (t.retune u p).shadowed u)) := by
  have tuned : t.Then (t.modifyUplink u fun r => r.takeRow p) u [] false := .quiet rfl rfl rfl rfl
  unfold retune
  by_cases same : t.shadowed u = (t.modifyUplink u fun r => r.takeRow p).shadowed u
  · rw [if_pos same, decide_eq_false (not_not.mpr same)]
    exact tuned
  · have differs : t.shadowed u ≠ ((t.modifyUplink u fun r => r.takeRow p).recheckUplinks (· == u)).shadowed u := same
    rw [if_neg same, decide_eq_true differs]
    exact tuned.trans .recheck

theorem retune_uplink_self : (t.retune u p).uplink u = (t.uplink u).adopted p := by
  have tuned : (t.modifyUplink u fun r => r.takeRow p).uplink u = (t.uplink u).adopted p := modifyUplink_uplink_self _ _ _
  unfold retune
  dsimp only
  split
  · exact tuned
  · exact tuned

theorem retune_uplink_other {v : Fin 32} (other : v ≠ u) : (t.retune u p).uplink v = t.uplink v := by
  have tuned : (t.modifyUplink u fun r => r.takeRow p).uplink v = t.uplink v := modifyUplink_uplink_other _ _ _ _ other
  unfold retune
  dsimp only
  split
  · exact tuned
  · exact tuned

theorem repeer_then : t.Then (t.repeer u p) u [{ left := (t.uplink u).state, entered := .proving, cause := some .reconfig }]
    true := Then.changeAfter ((t.uplink u).enterProof p) .proving (some .reconfig)

theorem repeer_uplink_self : (t.repeer u p).uplink u = ((t.uplink u).adopted p).reproved :=
  changeAfter_uplink_self ((t.uplink u).enterProof p) .proving (some .reconfig)

theorem repeer_uplink_other {v : Fin 32} (other : v ≠ u) : (t.repeer u p).uplink v = t.uplink v :=
  changeAfter_uplink_other _ _ _ other

/-! ### The first window and the entry into UP under TRUST (R4, R26) -/

/-- The uplink in its first window. -/
def proving (t : State) (u : Fin 32) (p : UplinkParams) : State := (t.repeer u p).firstWindow u

theorem proving_uplink_self : (t.proving u p).uplink u = { ((t.uplink u).adopted p).reproved with
    windowEnd := some (t.now + BitVec.ofNat 32 (100 * p.probeInterval))
    goodSeen := false, affirmingSeen := false, mismatchSeen := false
    txSequence := (t.uplink u).txSequence + if t.control.runState = .off then 0 else 1 } := by
  unfold proving firstWindow
  rw [emitProbe_uplink_self, modifyUplink_uplink_self, repeer_uplink_self, modifyUplink_control, repeer_runState]
  have now : (t.repeer u p).now = t.now := repeer_now t u p
  rw [now]
  rfl

theorem enable_eq : t.enable u p = if p.initialMode = .trust ∧ (t.uplink u).light = .present then
    (t.proving u p).changeState u .up none else t.proving u p := by
  have light : ((t.proving u p).uplink u).light = (t.uplink u).light := by
    rw [proving_uplink_self]
    rfl
  rw [← light]
  rfl

theorem proving_uplink_other {v : Fin 32} (other : v ≠ u) : (t.proving u p).uplink v = t.uplink v := by
  unfold proving firstWindow
  rw [emitProbe_uplink_other _ _ _ other, modifyUplink_uplink_other _ _ _ _ other, repeer_uplink_other other]

theorem proving_then : t.Then (t.proving u p) u [{ left := (t.uplink u).state, entered := .proving, cause := some .reconfig }]
    true := by
  refine (repeer_then (p := p)).settle ?_ ?_ ?_ ?_ ?_ ?_ ?_
  all_goals unfold proving
  · exact firstWindow_control _ _
  · exact firstWindow_engine _ _
  · exact firstWindow_groups _ _
  · exact congrArg (·.holding) (firstWindow_area _ _)
  · exact congrArg (·.gapCount) (firstWindow_area _ _)
  · exact congrArg (·.firstDrop) (firstWindow_area _ _)
  · exact congrArg (·.lastDrop) (firstWindow_area _ _)

/-- The first PROBE_OUT of an uplink in proof does not say that probes are seen, its quiet windows being 15 (R5). -/
theorem proving_port (limit : p.missLimit ≤ 15) : (t.proving u p).port = if t.control.runState = .off then t.port
    else t.port.probed { uplink := u, content := {
      identity := t.area.identity, uplink := BitVec.ofNat 8 u.val, seen := false, sequence := (t.uplink u).txSequence } } := by
  have identity : (t.repeer u p).area.identity = t.area.identity :=
    congrArg (fun layout => layout.2.1) (repeer_layout t u p)
  have record : ((t.repeer u p).modifyUplink u fun r => r.nextWindow (t.repeer u p).now).uplink u =
      (((t.uplink u).adopted p).reproved).nextWindow (t.repeer u p).now := by
    rw [modifyUplink_uplink_self, repeer_uplink_self]
  have content : ((t.repeer u p).modifyUplink u fun r => r.nextWindow (t.repeer u p).now).probeContent u =
      { identity := t.area.identity, uplink := BitVec.ofNat 8 u.val, seen := false, sequence := (t.uplink u).txSequence } := by
    unfold probeContent
    rw [record, modifyUplink_area, identity]
    have quiet : UplinkRecord.seenFlag ((((t.uplink u).adopted p).reproved).nextWindow (t.repeer u p).now) = false := by
      have late : ¬ 15 + 1 < p.missLimit := by omega
      change (decide (UplinkState.proving ≠ .quarantined) && decide (15 + 1 < p.missLimit)) = false
      rw [decide_eq_false late, Bool.and_false]
    rw [quiet]
    rfl
  unfold proving firstWindow
  rw [emitProbe_port, content, modifyUplink_control, repeer_runState, modifyUplink_port, repeer_port]

end State

end Sys2Proof.Machine
end

section
/-! PROOF. O48: a changed uplink row, handed over with the end of a drill (R22, R28). -/

namespace Sys2Proof.Machine

/-- The changes of state of a drill that a row ends. -/
def UplinkRecord.drillMoves (r : UplinkRecord) : List Move :=
  match r.drill with
  | none => []
  | some _ => [r.drillMove]

namespace State

variable {s : State} {u : Fin 32} {generation : Generation} {row : UplinkRow} {bytes : List Byte}

/-- The records of the end of a drill by a row (R28). -/
def drillEnded (s : State) (u : Fin 32) : List Entry :=
  match (s.uplink u).drill with
  | none => []
  | some d => s.ending d.slot .drillStart true .planChanged (drillResults d (s.walkOf u) ((s.uplink u).drillSound d))

/-- The state in which a row handed over is counted. -/
def counted (s : State) (u : Fin 32) : State := (s.checking (.uplink u)).countHandOver (.uplink u)

theorem counted_frame : (s.counted u).control = s.control ∧ (s.counted u).engine = s.engine
    ∧ (s.counted u).groups = s.groups ∧ (s.counted u).conduits = s.conduits ∧ (s.counted u).store = s.store
    ∧ (s.counted u).port = s.port ∧ (s.counted u).monitor = s.monitor := by
  unfold counted
  rw [countHandOver_control, countHandOver_engine, countHandOver_groups, countHandOver_conduits, countHandOver_store,
    countHandOver_port, countHandOver_monitor, checking_eq]
  exact ⟨rfl, rfl, rfl, rfl, rfl, rfl, rfl⟩

theorem countHandOver_gap (t : State) (row : RowId) : (t.countHandOver row).area.gapCount = t.area.gapCount
    ∧ (t.countHandOver row).area.firstDrop = t.area.firstDrop
    ∧ (t.countHandOver row).area.identity = t.area.identity := by
  cases row <;> exact ⟨rfl, rfl, rfl⟩

theorem counted_area : (s.counted u).area.holding = s.area.holding ∧ (s.counted u).area.gapCount = s.area.gapCount
    ∧ (s.counted u).area.firstDrop = s.area.firstDrop ∧ (s.counted u).area.lastDrop = s.area.lastDrop
    ∧ (s.counted u).area.slotHolds = s.area.slotHolds ∧ (s.counted u).area.identity = s.area.identity := by
  obtain ⟨holding, gap, first, last, holds⟩ := checking_journal (s := s) (row := .uplink u)
  obtain ⟨holding', last', holds', _⟩ := countHandOver_journal (s := s.checking (.uplink u)) (row := .uplink u)
  obtain ⟨gap', first', identity'⟩ := countHandOver_gap (s.checking (.uplink u)) (.uplink u)
  exact ⟨holding'.trans holding, gap'.trans gap, first'.trans first, last'.trans last, holds'.trans holds,
    identity'.trans rfl⟩

theorem counted_uplink (v : Fin 32) : (s.counted u).uplink v = s.uplink v :=
  congrArg (fun m : Monitor => m.uplinks.get v) counted_frame.2.2.2.2.2.2

/-- The state in which a row handed over is counted, its generation adopted, and ROW_ADOPTED produced. -/
def handedOver (s : State) (u : Fin 32) (kind : RowKind) (generation : Generation) : State :=
  ((s.counted u).modifyUplink u fun r => { r with generation }).produce (.rowAdopted (.uplink u) kind generation 0 0 0)

/-- The state after the end of any drill, in which the row acts. -/
def drilled (s : State) (u : Fin 32) (kind : RowKind) (generation : Generation) : State :=
  (s.handedOver u kind generation).endDrillForRow u

variable {kind : RowKind}

theorem handedOver_uplink_self : (s.handedOver u kind generation).uplink u = { s.uplink u with generation } := by
  unfold handedOver
  rw [produce_uplink, modifyUplink_uplink_self, counted_uplink]

theorem handedOver_uplink_other {v : Fin 32} (other : v ≠ u) : (s.handedOver u kind generation).uplink v = s.uplink v := by
  unfold handedOver
  rw [produce_uplink, modifyUplink_uplink_other _ _ _ _ other, counted_uplink]

theorem handedOver_masks (w : Fin 32) :
    ((s.handedOver u kind generation).uplink w).params.conduitMask = (s.uplink w).params.conduitMask := by
  by_cases same : w = u
  · rw [same, handedOver_uplink_self]
  · rw [handedOver_uplink_other same]

theorem handedOver_frame : (s.handedOver u kind generation).engine = s.engine
    ∧ (s.handedOver u kind generation).conduits = s.conduits ∧ (s.handedOver u kind generation).store = s.store
    ∧ (s.handedOver u kind generation).port = s.port ∧ (s.handedOver u kind generation).now = s.now
    ∧ (s.handedOver u kind generation).control.runState = s.control.runState
    ∧ (s.handedOver u kind generation).area.slotHolds = s.area.slotHolds
    ∧ (s.handedOver u kind generation).area.identity = s.area.identity := by
  have identity : (s.handedOver u kind generation).area.identity = (s.counted u).area.identity :=
    congrArg (fun layout => layout.2.1) (produce_layout _ _)
  obtain ⟨control, engine, _, conduits, store, port, _⟩ := counted_frame (s := s) (u := u)
  refine ⟨?_, ?_, ?_, ?_, ?_, ?_, ?_, identity.trans counted_area.2.2.2.2.2⟩
  · exact (produce_engine _ _).trans engine
  · exact (produce_conduits _ _).trans conduits
  · exact (produce_store _ _).trans store
  · exact (produce_port _ _).trans port
  · exact (produce_now _ _).trans (congrArg (·.now) control)
  · exact (produce_runState _ _).trans (congrArg (·.runState) control)
  · exact (produce_area_slotHolds _ _).trans counted_area.2.2.2.2.1

theorem handedOver_brought : s.Brought (s.handedOver u kind generation) u [] none
    [.rowAdopted (.uplink u) kind generation 0 0 0] := by
  obtain ⟨holding, gap, first, last, _⟩ := counted_area (s := s) (u := u)
  obtain ⟨control, engine, groups, conduits, _⟩ := counted_frame (s := s) (u := u)
  have adopted : s.Brought ((s.counted u).modifyUplink u fun r => { r with generation }) u [] none [] :=
    .quiet control engine groups holding gap first last
  refine adopted.then (.produce _) (fun w => ?_) conduits
  by_cases same : w = u
  · rw [same, modifyUplink_uplink_self, counted_uplink]
  · rw [modifyUplink_uplink_other _ _ _ _ same, counted_uplink]

/-- A drill is judged as without the row's generation. -/
theorem drillJudged_generation (r : UplinkRecord) :
    ({ r with generation } : UplinkRecord).drillJudged = { r.drillJudged with generation } := by
  unfold UplinkRecord.drillJudged
  dsimp only
  split
  · rfl
  · split <;> rfl

theorem drillMove_generation (r : UplinkRecord) : ({ r with generation } : UplinkRecord).drillMove = r.drillMove := by
  unfold UplinkRecord.drillMove
  rw [drillJudged_generation]

theorem handedOver_held (slot : Option (Fin 16)) : (s.handedOver u kind generation).held slot = s.held slot := by
  unfold held
  rw [handedOver_frame.2.2.2.2.2.2.1]

theorem handedOver_ending (slot : Option (Fin 16)) (kind' : OrderKind) (failed : Bool) (reason : OrderReason)
    (results : Results) : (s.handedOver u kind generation).ending slot kind' failed reason results =
      s.ending slot kind' failed reason results := by
  unfold ending
  rw [handedOver_held, handedOver_frame.2.2.2.2.2.1]

theorem handedOver_walkOf : (s.handedOver u kind generation).walkOf u = s.walkOf u := by
  unfold walkOf
  rw [handedOver_frame.1]

/-! ### The end of a drill (R22, R28) -/

theorem drilled_none (idle : (s.uplink u).drill = none) : s.drilled u kind generation = s.handedOver u kind generation := by
  have none : ((s.handedOver u kind generation).uplink u).drill = none := by rw [handedOver_uplink_self, ← idle]
  unfold drilled endDrillForRow
  rw [none]

theorem drilled_some {d : DrillRecord} (drill : (s.uplink u).drill = some d) : s.drilled u kind generation =
    (s.handedOver u kind generation).endDrill u d true .planChanged := by
  have some : ((s.handedOver u kind generation).uplink u).drill = some d := by rw [handedOver_uplink_self, ← drill]
  unfold drilled endDrillForRow
  rw [some]

theorem drilled_uplink_self : (s.drilled u kind generation).uplink u = { (s.uplink u).drillJudged with generation } := by
  cases drill : (s.uplink u).drill with
  | none =>
    rw [drilled_none drill, handedOver_uplink_self]
    unfold UplinkRecord.drillJudged
    rw [drill]
  | some d =>
    have some : ((s.handedOver u kind generation).uplink u).drill = some d := by rw [handedOver_uplink_self, ← drill]
    rw [drilled_some drill, endDrill_uplink_self _ _ _ _ _ some, handedOver_uplink_self, drillJudged_generation]

theorem drilled_uplink_other {v : Fin 32} (other : v ≠ u) : (s.drilled u kind generation).uplink v = s.uplink v := by
  cases drill : (s.uplink u).drill with
  | none => rw [drilled_none drill, handedOver_uplink_other other]
  | some d => rw [drilled_some drill, endDrill_uplink_other _ _ _ _ _ other, handedOver_uplink_other other]

theorem drilled_brought : s.Brought (s.drilled u kind generation) u (s.uplink u).drillMoves
    ((s.uplink u).drill.bind DrillRecord.raises)
    (.rowAdopted (.uplink u) kind generation 0 0 0 :: s.drillEnded u) := by
  unfold UplinkRecord.drillMoves drillEnded
  cases drill : (s.uplink u).drill with
  | none =>
    rw [drilled_none drill]
    exact handedOver_brought
  | some d =>
    have some : ((s.handedOver u kind generation).uplink u).drill = some d := by rw [handedOver_uplink_self, ← drill]
    have ended := Brought.endDrill (s.handedOver u kind generation) u d true .planChanged some
    rw [handedOver_ending, handedOver_walkOf, handedOver_uplink_self, drillMove_generation] at ended
    rw [drilled_some drill]
    exact handedOver_brought.then ended handedOver_masks handedOver_frame.2.1

theorem drilled_conduits : (s.drilled u kind generation).conduits =
    s.conduits.drillEnded (s.uplink u) u ((s.uplink u).drill.bind (·.finding)) s.now := by
  cases drill : (s.uplink u).drill with
  | none =>
    rw [drilled_none drill, handedOver_frame.2.1]
    rfl
  | some d =>
    rw [drilled_some drill, endDrill_conduits, handedOver_frame.2.1, handedOver_uplink_self,
      handedOver_frame.2.2.2.2.1]
    rfl

theorem drilled_completes {d : DrillRecord} (drill : (s.uplink u).drill = some d) :
    s.Completes (s.drilled u kind generation) d.slot .drillStart true .planChanged
      (drillResults d (s.walkOf u) ((s.uplink u).drillSound d)) := by
  have done := endDrill_completes (s.handedOver u kind generation) u d true .planChanged
  rw [handedOver_walkOf, handedOver_uplink_self] at done
  rw [drilled_some drill]
  exact done.from handedOver_frame.2.2.2.2.1 handedOver_frame.2.2.2.2.2.1 (handedOver_held _)

theorem drilled_frame : (s.drilled u kind generation).store = s.store ∧ (s.drilled u kind generation).port = s.port
    ∧ (s.drilled u kind generation).now = s.now
    ∧ (s.drilled u kind generation).control.runState = s.control.runState
    ∧ (s.drilled u kind generation).area.identity = s.area.identity := by
  obtain ⟨_, _, store, port, now, run, _, identity⟩ := handedOver_frame (s := s) (u := u) (kind := kind)
    (generation := generation)
  cases drill : (s.uplink u).drill with
  | none =>
    rw [drilled_none drill]
    exact ⟨store, port, now, run, identity⟩
  | some d =>
    rw [drilled_some drill]
    refine ⟨?_, ?_, ?_, ?_, ?_⟩
    · rw [endDrill_store, store]
    · rw [endDrill_port, port]
    · exact (endDrill_now _ _ _ _ _).trans now
    · rw [endDrill_runState, run]
    · exact (congrArg (fun layout => layout.2.1) (endDrill_layout _ _ _ _ _)).trans identity

/-- Without a drill the row's generation leaves whether the uplink is shadowed. -/
theorem drilled_shadowed (idle : (s.uplink u).drill = none) :
    (s.drilled u kind generation).shadowed u = s.shadowed u := by
  rw [drilled_none idle]
  unfold shadowed maskRaised alarm
  rw [handedOver_uplink_self, handedOver_frame.2.1]

/-- The results of the drill in the words of the statement (R23). -/
theorem drillResults_eq {d : DrillRecord} (drill : (s.uplink u).drill = some d) :
    drillResults d (s.walkOf u) ((s.uplink u).drillSound d) =
      { r1 := if (s.uplink u).drillJudged.state = .up then 3 else 4
        r2 := if (s.uplink u).drillJudged.state = .up then 0 else BitVec.ofNat 32 (causeCode d.finding)
        r3 := BitVec.ofNat 32 (match d.walkResult with
          | some w => w.1
          | none => match s.walkOf u with | some w => w.bucketsMoved | none => 0)
        r4 := match d.walkResult with | some w => w.2 | none => 0 } := by
  cases sound : (s.uplink u).drillSound d with
  | true =>
    rw [drillJudged_of_sound d drill sound]
    rfl
  | false =>
    rw [drillJudged_of_unsound d drill sound]
    rfl

end State

end Sys2Proof.Machine
end

section
/-! PROOF. O48: the four kinds of an uplink row, and the obligation. -/

namespace Sys2Proof.Machine

/-! ### The miss limit of a checked row (R27) -/

theorem good_of_firstBad {fields : List (Nat × Bool)} (none : firstBad fields = none) : ∀ f ∈ fields, f.2 = true := by
  induction fields with
  | nil => simp
  | cons f rest ih =>
    obtain ⟨offset, good⟩ := f
    cases good with
    | false => cases none
    | true =>
      have later : ∀ f ∈ rest, f.2 = true := ih none
      simpa using later

theorem checkUplinkRow_missLimit {bytes : List Byte} {row : UplinkRow} (good : checkUplinkRow bytes = .ok row)
    (enabled : row.kind = .enabled) : row.params.missLimit ≤ 15 := by
  cases check : areaCheck bytes with
  | false => simp [checkUplinkRow_badCheck check] at good
  | true =>
    by_cases empty : byteAt bytes 4 = 0
    · rw [checkUplinkRow_empty check empty] at good
      obtain rfl := Except.ok.inj good
      cases enabled
    by_cases other : 2 < byteAt bytes 4
    · simp [checkUplinkRow_badKind check other] at good
    rw [checkUplinkRow_fields check (by omega)] at good
    cases fields : firstBad (uplinkRowFields bytes) with
    | some offset =>
      rw [fields] at good
      cases good
    | none =>
      rw [fields] at good
      obtain rfl := Except.ok.inj good
      have inside : ranged (7, byteAt bytes 7, 2, 15) ∈ uplinkRowFields bytes := by
        rw [uplinkRowFields_eq]
        exact List.mem_map_of_mem (by simp)
      exact (ranged_good.mp (good_of_firstBad fields _ inside)).2

namespace State

variable {s : State} {u : Fin 32} {row : UplinkRow} {bytes : List Byte}

/-! ### The checks of an uplink row (R152, R153) -/

theorem checkRow_uplink_rejects (generation : Generation) {why : Rejection} (bad : checkUplinkRow bytes = .error why) :
    s.checkRow (.uplink u) generation bytes = s.rejectRow (.uplink u) generation why := by
  unfold checkRow
  simp only [bad]

theorem checkRow_uplink_passes (generation : Generation) (good : checkUplinkRow bytes = .ok row)
    (passes : s.passesOver = true) : s.checkRow (.uplink u) generation bytes = s := by
  unfold checkRow
  simp only [good, passes, if_true]

theorem checkRow_uplink_takes (generation : Generation) (good : checkUplinkRow bytes = .ok row)
    (adopts : s.passesOver = false) : s.checkRow (.uplink u) generation bytes =
      (s.countHandOver (.uplink u)).adoptUplinkRow u row generation := by
  unfold checkRow
  simp only [good, adopts, Bool.false_eq_true, if_false]

/-- The state in which the row has acted. -/
def adopted (s : State) (u : Fin 32) (row : UplinkRow) (generation : Generation) : State :=
  (s.drilled u row.kind generation).applyUplinkRow u row

theorem ChangedRowRead.adopted (read : s.ChangedRowRead (.uplink u) bytes) (good : checkUplinkRow bytes = .ok row)
    (adopts : s.passesOver = false) :
    s.endFlight.treatRow (.uplink u) bytes = s.adopted u row (headGeneration bytes) := by
  rw [read.treated, checkRow_uplink_takes (s := s.checking (.uplink u)) _ good (checking_passesOver.trans adopts)]
  rfl

/-! ### What every kind of row keeps -/

theorem adoptEmpty_other {t : State} {v : Fin 32} (other : v ≠ u) : (t.adoptEmpty u).uplink v = t.uplink v := by
  unfold adoptEmpty
  dsimp only
  split
  · rfl
  · exact changeAfter_uplink_other _ _ _ other

theorem adoptDisabled_other {t : State} {p : UplinkParams} {v : Fin 32} (other : v ≠ u) :
    (t.adoptDisabled u p).uplink v = t.uplink v := by
  unfold adoptDisabled
  dsimp only
  split
  · exact modifyUplink_uplink_other t u v (fun _ => (t.uplink u).adopted p) other
  · exact changeAfter_uplink_other _ _ _ other

theorem adoptEnabled_other {t : State} {p : UplinkParams} {v : Fin 32} (other : v ≠ u) :
    (t.adoptEnabled u p).uplink v = t.uplink v := by
  unfold adoptEnabled
  dsimp only
  split
  · rw [enable_eq]
    split
    · rw [changeState_uplink_other _ _ _ _ _ other, proving_uplink_other other]
    · exact proving_uplink_other other
  · split
    · exact repeer_uplink_other other
    · exact retune_uplink_other other

theorem applyUplinkRow_other {t : State} {v : Fin 32} (other : v ≠ u) :
    (t.applyUplinkRow u row).uplink v = t.uplink v := by
  unfold applyUplinkRow
  split
  · exact adoptEmpty_other other
  · rw [ageFlaps_uplink_other other, adoptDisabled_other other]
  · rw [ageFlaps_uplink_other other, adoptEnabled_other other]
  · rfl

theorem KeepsOrders.changeAfter {t : State} (r : UplinkRecord) (new : UplinkState) (cause : Option DarkCause) :
    t.KeepsOrders ((t.setUplink u r).changeState u new cause) :=
  (KeepsOrders.of_area (t := t.setUplink u r) rfl).trans (.changeState _ _ _ _)

theorem KeepsOrders.adoptEnabled {t : State} {p : UplinkParams} : t.KeepsOrders (t.adoptEnabled u p) := by
  have proof : t.KeepsOrders (t.repeer u p) := .changeAfter _ _ _
  have window : t.KeepsOrders (t.proving u p) := proof.trans (.of_area (firstWindow_area _ _))
  unfold State.adoptEnabled
  dsimp only
  split
  · rw [enable_eq]
    split
    · exact window.trans (.changeState _ _ _ _)
    · exact window
  · split
    · exact proof
    · exact .of_area (retune_area _ _ _)

theorem KeepsOrders.applyUplinkRow {t : State} : t.KeepsOrders (t.applyUplinkRow u row) := by
  unfold State.applyUplinkRow
  split
  · unfold State.adoptEmpty
    dsimp only
    split
    · exact .refl t
    · exact .changeAfter _ _ _
  · refine KeepsOrders.trans ?_ (.of_area (ageFlaps_area _ _))
    unfold State.adoptDisabled
    dsimp only
    split
    · exact .of_area rfl
    · exact .changeAfter _ _ _
  · exact KeepsOrders.adoptEnabled.trans (.of_area (ageFlaps_area _ _))
  · exact .refl t

/-- A row brings some changes of state and no more (R25 to R27). -/
theorem applyUplinkRow_then {t : State} : ∃ moves handed, t.Then (t.applyUplinkRow u row) u moves handed := by
  unfold applyUplinkRow
  split
  · unfold adoptEmpty
    dsimp only
    split
    · exact ⟨_, _, .quiet rfl rfl rfl rfl⟩
    · exact ⟨_, _, .changeAfter _ _ _⟩
  · unfold adoptDisabled
    dsimp only
    split
    · exact ⟨_, _, Then.ageFlaps (.quiet rfl rfl rfl rfl)⟩
    · exact ⟨_, _, Then.ageFlaps (.changeAfter _ _ _)⟩
  · unfold adoptEnabled
    dsimp only
    split
    · rw [enable_eq]
      split
      · exact ⟨_, _, Then.ageFlaps (proving_then.trans (.changeState _ _))⟩
      · exact ⟨_, _, Then.ageFlaps proving_then⟩
    · split
      · exact ⟨_, _, Then.ageFlaps repeer_then⟩
      · exact ⟨_, _, Then.ageFlaps retune_then⟩
  · exact ⟨_, _, .quiet rfl rfl rfl rfl⟩

/-! ### The event of a row handed over -/

theorem rowDone_then (read : s.ChangedRowRead (.uplink u) bytes) (good : checkUplinkRow bytes = .ok row)
    (adopts : s.passesOver = false) {moves : List Move} {handed : Bool}
    (y : (s.drilled u row.kind (headGeneration bytes)).Then (s.adopted u row (headGeneration bytes)) u moves handed) :
    (s.drilled u row.kind (headGeneration bytes)).Then (s.rowDone (.uplink u) bytes) u moves handed := by
  obtain ⟨_, engine, groups, _, _, _, control⟩ := rowDone_frame (s := s) (row := .uplink u) (bytes := bytes)
  obtain ⟨holding, gap, first, last, _⟩ := rowDone_journal (s := s) (row := .uplink u) (bytes := bytes)
  rw [read.adopted good adopts] at engine groups control holding gap first last
  exact y.settle control engine groups holding gap first last

theorem rowDone_shadowed (read : s.ChangedRowRead (.uplink u) bytes) (good : checkUplinkRow bytes = .ok row)
    (adopts : s.passesOver = false) :
    (s.rowDone (.uplink u) bytes).shadowed u = (s.adopted u row (headGeneration bytes)).shadowed u := by
  obtain ⟨_, _, _, monitor, conduits, _⟩ := rowDone_frame (s := s) (row := .uplink u) (bytes := bytes)
  unfold shadowed maskRaised alarm uplink
  rw [monitor, conduits, read.adopted good adopts]

/-- The two parts of the event: the end of any drill, and what the row brings. -/
theorem rowDone_brings (read : s.ChangedRowRead (.uplink u) bytes) (good : checkUplinkRow bytes = .ok row)
    (adopts : s.passesOver = false) {moves : List Move} {handed : Bool}
    (y : (s.drilled u row.kind (headGeneration bytes)).Then (s.adopted u row (headGeneration bytes)) u moves handed)
    (hands : (s.uplink u).drill = none → (handed = true ↔ moves ≠ []
      ∨ s.shadowed u ≠ (s.adopted u row (headGeneration bytes)).shadowed u)) : let t := s.rowDone (.uplink u) bytes
    let all := (s.uplink u).drillMoves ++ moves
    let raised := (s.uplink u).drill.bind DrillRecord.raises
    s.Effects t u all raised (.rowAdopted (.uplink u) row.kind (headGeneration bytes) 0 0 0 :: s.drillEnded u)
    ∧ ∀ [Decidable (all ≠ [] ∨ s.shadowed u ≠ t.shadowed u)],
        s.Rechecks t u (all ≠ [] ∨ s.shadowed u ≠ t.shadowed u) raised := by
  obtain ⟨effects, rechecks⟩ := drilled_brought.conclude (rowDone_then read good adopts y)
  refine ⟨effects, rechecks _ ?_⟩
  rw [rowDone_shadowed read good adopts]
  cases drill : (s.uplink u).drill with
  | none =>
    have first : (s.uplink u).drillMoves = [] := by simp [UplinkRecord.drillMoves, drill]
    rw [hands drill, first]
    simp
  | some d =>
    have first : (s.uplink u).drillMoves ≠ [] := by simp [UplinkRecord.drillMoves, drill]
    simp [first]

end State

end Sys2Proof.Machine
end

section
/-! PROOF. O48: the obligation. -/

namespace Sys2Proof.Machine

namespace State

variable {s : State} {u : Fin 32} {row : UplinkRow} {bytes : List Byte}

/-- What one kind of row makes of the uplink and of the port, and what it brings. -/
structure Adopts (s : State) (u : Fin 32) (row : UplinkRow) (bytes : List Byte) (record : UplinkRecord) (port : Port)
    (moves : List Move) : Prop where
  uplink : (s.rowDone (.uplink u) bytes).uplink u = record
  port : (s.rowDone (.uplink u) bytes).port = port
  effects : s.Effects (s.rowDone (.uplink u) bytes) u ((s.uplink u).drillMoves ++ moves)
    ((s.uplink u).drill.bind DrillRecord.raises)
    (.rowAdopted (.uplink u) row.kind (headGeneration bytes) 0 0 0 :: s.drillEnded u)
  rechecks : ∀ [Decidable ((s.uplink u).drillMoves ++ moves ≠ [] ∨ s.shadowed u ≠ (s.rowDone (.uplink u) bytes).shadowed u)],
    s.Rechecks (s.rowDone (.uplink u) bytes) u
      ((s.uplink u).drillMoves ++ moves ≠ [] ∨ s.shadowed u ≠ (s.rowDone (.uplink u) bytes).shadowed u)
      ((s.uplink u).drill.bind DrillRecord.raises)

/-- The state in which the row acts. -/
def acting (s : State) (u : Fin 32) (row : UplinkRow) (bytes : List Byte) : State :=
  s.drilled u row.kind (headGeneration bytes)

/-- What a kind of row does to the state after the end of any drill is what the whole event does. -/
theorem adopts_of_act (read : s.ChangedRowRead (.uplink u) bytes) (good : checkUplinkRow bytes = .ok row)
    (adopts : s.passesOver = false) {v : State} {record : UplinkRecord} {port : Port} {moves : List Move} {handed : Bool}
    (act : (s.acting u row bytes).applyUplinkRow u row = v) (y : (s.acting u row bytes).Then v u moves handed)
    (hands : (s.uplink u).drill = none → (handed = true ↔ moves ≠ [] ∨ s.shadowed u ≠ v.shadowed u))
    (uplink : v.uplink u = record) (port' : v.port = port) : s.Adopts u row bytes record port moves := by
  have same : s.adopted u row (headGeneration bytes) = v := act
  subst same
  obtain ⟨effects, rechecks⟩ := rowDone_brings read good adopts y hands
  obtain ⟨_, _, _, monitor, _, ports, _⟩ := rowDone_frame (s := s) (row := .uplink u) (bytes := bytes)
  rw [read.adopted good adopts] at monitor ports
  exact ⟨(congrArg (fun m : Monitor => m.uplinks.get u) monitor).trans uplink, ports.trans port', effects, rechecks⟩

/-- A change of state hands the uplink over. -/
theorem hands_of_moves {v : State} {m : Move} {moves : List Move} :
    (s.uplink u).drill = none → (true = true ↔ m :: moves ≠ [] ∨ s.shadowed u ≠ v.shadowed u) := by simp

theorem applyUplinkRow_empty {t : State} (kind : row.kind = .empty) : t.applyUplinkRow u row = t.adoptEmpty u := by
  unfold applyUplinkRow
  rw [kind]

theorem applyUplinkRow_disabled {t : State} (kind : row.kind = .disabled) :
    t.applyUplinkRow u row = (t.adoptDisabled u row.params).ageFlaps u := by
  unfold applyUplinkRow
  rw [kind]

theorem applyUplinkRow_enabled {t : State} (kind : row.kind = .enabled) :
    t.applyUplinkRow u row = (t.adoptEnabled u row.params).ageFlaps u := by
  unfold applyUplinkRow
  rw [kind]

theorem acting_port : (s.acting u row bytes).port = s.port := drilled_frame.2.1

theorem acting_now : (s.acting u row bytes).now = s.now := drilled_frame.2.2.1

theorem aged_adopted_state (r : UplinkRecord) (p : UplinkParams) (now : PartTime) :
    ((r.adopted p).aged now).state = r.state := rfl

theorem aged_changed (r : UplinkRecord) (state : UplinkState) (darkCause : Option DarkCause) (now : PartTime) :
    ({ r with state, darkCause } : UplinkRecord).aged now = { r.aged now with state, darkCause } := rfl

theorem causeAfter_up (cause : Option DarkCause) : causeAfter .up cause = none := rfl

theorem ageFlaps_shadowed {t : State} : (t.ageFlaps u).shadowed u = t.shadowed u := by
  unfold shadowed maskRaised alarm
  rw [ageFlaps_uplink_self, ageFlaps_conduits]
  rfl

/-- An uplink that is not UP is not shadowed. -/
theorem not_shadowed {t : State} (down : (t.uplink u).state ≠ .up) : t.shadowed u = false := by
  simp [shadowed, down]

section

variable (read : s.ChangedRowRead (.uplink u) bytes) (good : checkUplinkRow bytes = .ok row) (adopts : s.passesOver = false)

include read good adopts

theorem empty_stays (kind : row.kind = .empty) (state : ((s.acting u row bytes).uplink u).state = .unconfigured)
    (cause : ((s.acting u row bytes).uplink u).darkCause = some .removed) :
    s.Adopts u row bytes ((s.acting u row bytes).uplink u) s.port [] :=
  adopts_of_act read good adopts ((applyUplinkRow_empty kind).trans (adoptEmpty_stays state cause))
    (.quiet rfl rfl rfl rfl) (fun idle => by simp [acting, drilled_shadowed idle]) rfl acting_port

theorem empty_removes (kind : row.kind = .empty) (other : ((s.acting u row bytes).uplink u).state ≠ .unconfigured
      ∨ ((s.acting u row bytes).uplink u).darkCause ≠ some .removed) :
    s.Adopts u row bytes { ((s.acting u row bytes).uplink u).silenced with
        state := .unconfigured, darkCause := some .removed, params := UplinkParams.default, flaps := [] } s.port
      [{ left := ((s.acting u row bytes).uplink u).state, entered := .unconfigured, cause := some .removed }] :=
  adopts_of_act read good adopts ((applyUplinkRow_empty kind).trans (adoptEmpty_removes other)) (.changeAfter _ _ _)
    hands_of_moves (changeAfter_uplink_self _ _ _) ((changeState_port _ _ _ _).trans acting_port)

theorem disabled_stays (kind : row.kind = .disabled) (state : ((s.acting u row bytes).uplink u).state = .adminDown)
    (cause : ((s.acting u row bytes).uplink u).darkCause = some .admin) :
    s.Adopts u row bytes ((((s.acting u row bytes).uplink u).adopted row.params).aged s.now) s.port [] := by
  have act := (applyUplinkRow_disabled (t := s.acting u row bytes) kind).trans
    (congrArg (·.ageFlaps u) (adoptDisabled_stays state cause))
  have uplink : (((s.acting u row bytes).setUplink u (((s.acting u row bytes).uplink u).adopted row.params)).ageFlaps u).uplink
      u = (((s.acting u row bytes).uplink u).adopted row.params).aged s.now := by
    rw [ageFlaps_uplink_self, setUplink_uplink_self, ← acting_now (s := s) (u := u) (row := row) (bytes := bytes)]
    rfl
  refine adopts_of_act read good adopts (handed := false) act (.ageFlaps (.quiet rfl rfl rfl rfl)) (fun idle => ?_) uplink ?_
  · have before : (s.acting u row bytes).shadowed u = s.shadowed u := drilled_shadowed idle
    have down : (s.acting u row bytes).shadowed u = false := not_shadowed (by rw [state]; decide)
    rw [before] at down
    have downState : ((((s.acting u row bytes).uplink u).adopted row.params).aged s.now).state ≠ .up := by
      rw [aged_adopted_state, state]
      exact nofun
    rw [← uplink] at downState
    have after := not_shadowed downState
    rw [down, after]
    simp
  · exact (ageFlaps_port _ _).trans acting_port

theorem disabled_disables (kind : row.kind = .disabled) (other : ((s.acting u row bytes).uplink u).state ≠ .adminDown
      ∨ ((s.acting u row bytes).uplink u).darkCause ≠ some .admin) :
    s.Adopts u row bytes { ((((s.acting u row bytes).uplink u).adopted row.params).aged s.now).silenced with
        state := .adminDown, darkCause := some .admin } s.port
      [{ left := ((s.acting u row bytes).uplink u).state, entered := .adminDown, cause := some .admin }] := by
  have act := (applyUplinkRow_disabled (t := s.acting u row bytes) kind).trans
    (congrArg (·.ageFlaps u) (adoptDisabled_disables other))
  refine adopts_of_act read good adopts act (.ageFlaps (.changeAfter _ _ _)) hands_of_moves ?_ ?_
  · have now : (((s.acting u row bytes).setUplink u (((s.acting u row bytes).uplink u).adopted row.params).silenced).changeState u
        .adminDown (some .admin)).now = s.now := (changeState_now _ _ _ _).trans acting_now
    rw [ageFlaps_uplink_self, changeAfter_uplink_self, now]
    rfl
  · exact ((ageFlaps_port _ _).trans (changeState_port _ _ _ _)).trans acting_port

theorem enabled_retunes (kind : row.kind = .enabled)
    (probing : ((s.acting u row bytes).uplink u).state.probing = true)
    (identity : row.params.peerIdentity = ((s.acting u row bytes).uplink u).params.peerIdentity)
    (peer : row.params.peerUplink = ((s.acting u row bytes).uplink u).params.peerUplink) :
    s.Adopts u row bytes ((((s.acting u row bytes).uplink u).adopted row.params).aged s.now) s.port [] := by
  have act := (applyUplinkRow_enabled (t := s.acting u row bytes) kind).trans
    (congrArg (·.ageFlaps u) (adoptEnabled_retunes probing identity peer))
  refine adopts_of_act read good adopts act (.ageFlaps retune_then) (fun idle => ?_) ?_ ?_
  · have before : (s.acting u row bytes).shadowed u = s.shadowed u := drilled_shadowed idle
    have aged : (((s.acting u row bytes).retune u row.params).ageFlaps u).shadowed u =
        ((s.acting u row bytes).retune u row.params).shadowed u := ageFlaps_shadowed
    rw [aged, before]
    simp
  · have now : ((s.acting u row bytes).retune u row.params).now = s.now :=
      (congrArg (·.now) (retune_control _ _ _)).trans acting_now
    rw [ageFlaps_uplink_self, retune_uplink_self, now]
  · exact ((ageFlaps_port _ _).trans (retune_port _ _ _)).trans acting_port

theorem enabled_repeers (kind : row.kind = .enabled)
    (probing : ((s.acting u row bytes).uplink u).state.probing = true)
    (changed : row.params.peerIdentity ≠ ((s.acting u row bytes).uplink u).params.peerIdentity
      ∨ row.params.peerUplink ≠ ((s.acting u row bytes).uplink u).params.peerUplink) :
    s.Adopts u row bytes ((((s.acting u row bytes).uplink u).adopted row.params).aged s.now).reproved s.port
      [{ left := ((s.acting u row bytes).uplink u).state, entered := .proving, cause := some .reconfig }] := by
  have act := (applyUplinkRow_enabled (t := s.acting u row bytes) kind).trans
    (congrArg (·.ageFlaps u) (adoptEnabled_repeers probing changed))
  refine adopts_of_act read good adopts act (.ageFlaps repeer_then) hands_of_moves ?_ ?_
  · have now : ((s.acting u row bytes).repeer u row.params).now = s.now := (repeer_now _ _ _).trans acting_now
    rw [ageFlaps_uplink_self, repeer_uplink_self, now]
    rfl
  · exact ((ageFlaps_port _ _).trans (repeer_port _ _ _)).trans acting_port

/-- The record of an uplink in its first window (R4, R26). -/
def begunRecord (s : State) (u : Fin 32) (row : UplinkRow) (bytes : List Byte) : UplinkRecord :=
  { ((((s.acting u row bytes).uplink u).adopted row.params).aged s.now).reproved with
    windowEnd := some (s.now + BitVec.ofNat 32 (100 * row.params.probeInterval))
    goodSeen := false, affirmingSeen := false, mismatchSeen := false
    txSequence := ((s.acting u row bytes).uplink u).txSequence + if s.control.runState = .off then 0 else 1 }

/-- The port with the first PROBE_OUT of the uplink; none is emitted in OFF (R4, R6). -/
def begunPort (s : State) (u : Fin 32) (row : UplinkRow) (bytes : List Byte) : Port :=
  if s.control.runState = .off then s.port else s.port.probed { uplink := u, content := {
    identity := s.area.identity, uplink := BitVec.ofNat 8 u.val, seen := false
    sequence := ((s.acting u row bytes).uplink u).txSequence } }

omit read adopts in
theorem acting_proving_port (kind : row.kind = .enabled) :
    ((s.acting u row bytes).proving u row.params).port = s.begunPort u row bytes := by
  rw [proving_port (checkUplinkRow_missLimit good kind), acting_port]
  unfold begunPort
  have run : (s.acting u row bytes).control.runState = s.control.runState := drilled_frame.2.2.2.1
  have identity : (s.acting u row bytes).area.identity = s.area.identity := drilled_frame.2.2.2.2
  rw [run, identity]

omit read good adopts in
theorem acting_proving_record : (((s.acting u row bytes).proving u row.params).uplink u).aged s.now =
    s.begunRecord u row bytes := by
  have run : (s.acting u row bytes).control.runState = s.control.runState := drilled_frame.2.2.2.1
  rw [proving_uplink_self, run, acting_now]
  rfl

omit read good adopts in
theorem acting_proving_now : ((s.acting u row bytes).proving u row.params).now = s.now :=
  ((congrArg (·.now) (firstWindow_control _ _)).trans (repeer_now _ _ _)).trans acting_now

theorem enabled_proves (kind : row.kind = .enabled) (idle : ((s.acting u row bytes).uplink u).state.probing = false)
    (other : ¬(row.params.initialMode = .trust ∧ ((s.acting u row bytes).uplink u).light = .present)) :
    s.Adopts u row bytes (s.begunRecord u row bytes) (s.begunPort u row bytes)
      [{ left := ((s.acting u row bytes).uplink u).state, entered := .proving, cause := some .reconfig }] := by
  have act := (applyUplinkRow_enabled (t := s.acting u row bytes) kind).trans (congrArg (·.ageFlaps u)
    ((adoptEnabled_enables (p := row.params) idle).trans (enable_eq.trans (if_neg other))))
  refine adopts_of_act read good adopts act (.ageFlaps proving_then) hands_of_moves ?_ ?_
  · rw [ageFlaps_uplink_self, acting_proving_now, acting_proving_record]
  · exact (ageFlaps_port _ _).trans (acting_proving_port good kind)

/-- Under TRUST with light the uplink goes straight to UP (R26). -/
theorem enabled_trusts (kind : row.kind = .enabled) (idle : ((s.acting u row bytes).uplink u).state.probing = false)
    (trusted : row.params.initialMode = .trust ∧ ((s.acting u row bytes).uplink u).light = .present) :
    s.Adopts u row bytes { s.begunRecord u row bytes with state := .up, darkCause := none } (s.begunPort u row bytes)
      [{ left := ((s.acting u row bytes).uplink u).state, entered := .proving, cause := some .reconfig },
       { left := .proving, entered := .up, cause := none }] := by
  have act := (applyUplinkRow_enabled (t := s.acting u row bytes) kind).trans (congrArg (·.ageFlaps u)
    ((adoptEnabled_enables (p := row.params) idle).trans (enable_eq.trans (if_pos trusted))))
  have inProof : (((s.acting u row bytes).proving u row.params).uplink u).state = .proving := by
    rw [proving_uplink_self]
    rfl
  have enters := Then.changeState (t := (s.acting u row bytes).proving u row.params) (u := u) .up none
  rw [inProof] at enters
  refine adopts_of_act read good adopts act (.ageFlaps (proving_then.trans enters)) hands_of_moves ?_ ?_
  · have now : (((s.acting u row bytes).proving u row.params).changeState u .up none).now = s.now :=
      (changeState_now _ _ _ _).trans acting_proving_now
    rw [ageFlaps_uplink_self, changeState_uplink_self, now, aged_changed, acting_proving_record, causeAfter_up]
  · exact ((ageFlaps_port _ _).trans (changeState_port _ _ _ _)).trans (acting_proving_port good kind)

end

end State

end Sys2Proof.Machine
end

section
/-! PROOF. O48: the obligation assembled. -/

namespace Sys2Proof.Machine

/-- The end of a drill changes the state, its cause and the drill of a record only. -/
theorem drillJudged_keeps (r : UplinkRecord) : r.drillJudged.txSequence = r.txSequence ∧ r.drillJudged.light = r.light
    ∧ r.drillJudged.params = r.params := by
  unfold UplinkRecord.drillJudged
  split
  · exact ⟨rfl, rfl, rfl⟩
  · split <;> exact ⟨rfl, rfl, rfl⟩

namespace State

variable {s : State} {u : Fin 32} {row : UplinkRow} {bytes : List Byte}

/-- What the rejection of an uplink row leaves (R152). -/
theorem changedUplinkRow_rejected (read : s.ChangedRowRead (.uplink u) bytes) {why : Rejection}
    (bad : checkUplinkRow bytes = .error why) : let t := s.rowDone (.uplink u) bytes
    s.Counts t 0 1 ∧ t.rowMemory (.uplink u) = { tornCount := 0, lastRejected := some (headGeneration bytes) }
    ∧ s.Produced t [.rowRejected (.uplink u) why.reason (headGeneration bytes) (BitVec.ofNat 32 why.detail1)
        (BitVec.ofNat 32 why.detail2)] := by
  have treated := read.treated
  rw [checkRow_uplink_rejects (s := s.checking (.uplink u)) _ bad] at treated
  have rejected := rejectRow_sweep (s := s.checking (.uplink u)) (row := .uplink u) (headGeneration bytes) why
  rw [← treated] at rejected
  refine ⟨rowDone_counts rejected fun q => ⟨rfl, rfl, rfl⟩, ?_, ?_⟩
  · rw [rowDone_rowMemory, treated]
    exact (rowMemory_of_plan (produce_plan _ _) _).trans (rowMemory_setRowMemory_uplink u _)
  · obtain ⟨holding, gap, first, last, _⟩ := checking_journal (s := s) (row := .uplink u)
    have seen : s.Produced (s.checking (.uplink u)) [] := (Produced.refl s).of_eq holding gap first last
    have now : (s.checking (.uplink u)).now = s.now := congrArg (·.now) checking_eq
    have produced := seen.trans (rejectRow_produced (row := .uplink u) (headGeneration bytes) why) now
    rw [← treated] at produced
    obtain ⟨holding, gap, first, last, _⟩ := rowDone_journal (s := s) (row := .uplink u) (bytes := bytes)
    exact produced.of_eq holding gap first last

theorem changedUplinkRow_passed (read : s.ChangedRowRead (.uplink u) bytes) (good : checkUplinkRow bytes = .ok row)
    (passes : s.passesOver = true) : let t := s.rowDone (.uplink u) bytes
    t.area.holding = s.area.holding ∧ s.Counts t 0 0
    ∧ t.rowMemory (.uplink u) = { s.rowMemory (.uplink u) with tornCount := 0 } := by
  have treated := read.treated
  rw [checkRow_uplink_passes (s := s.checking (.uplink u)) _ good (checking_passesOver.trans passes)] at treated
  refine ⟨?_, rowDone_counts (f := id) ?_ fun q => ⟨rfl, rfl, rfl⟩, ?_⟩
  · rw [rowDone_journal.1, treated]
    exact checking_journal.1
  · rw [treated, Option.map_id]
    rfl
  · rw [rowDone_rowMemory, treated]
    exact rowMemory_setRowMemory_uplink (s := s.endFlight) u _

section

variable (read : s.ChangedRowRead (.uplink u) bytes) (good : checkUplinkRow bytes = .ok row) (adopts : s.passesOver = false)

include read good adopts

theorem changedUplinkRow_counts : s.Counts (s.rowDone (.uplink u) bytes) 1 0
    ∧ (s.rowDone (.uplink u) bytes).rowMemory (.uplink u) = RowMemory.reset := by
  have treated : s.endFlight.treatRow (.uplink u) bytes =
      ((s.checking (.uplink u)).countHandOver (.uplink u)).adoptUplinkRow u row (headGeneration bytes) :=
    read.adopted good adopts
  have plan := adoptUplinkRow_plan ((s.checking (.uplink u)).countHandOver (.uplink u)) u row (headGeneration bytes)
  refine ⟨rowDone_counts (f := fun q => { q with handedOver := q.handedOver + 1 }) ?_ fun q => ⟨rfl, rfl, rfl⟩, ?_⟩
  · rw [treated]
    exact (congrArg AreaInterface.sweep plan :).trans countHandOver_sweep
  · rw [rowDone_rowMemory, treated]
    exact (rowMemory_of_plan plan _).trans (rowMemory_setRowMemory_uplink u _)

theorem changedUplinkRow_other {v : Fin 32} (other : v ≠ u) : (s.rowDone (.uplink u) bytes).uplink v = s.uplink v := by
  obtain ⟨_, _, _, monitor, _⟩ := rowDone_frame (s := s) (row := .uplink u) (bytes := bytes)
  rw [read.adopted good adopts] at monitor
  have kept : (s.adopted u row (headGeneration bytes)).uplink v = s.uplink v :=
    (applyUplinkRow_other other).trans (drilled_uplink_other other)
  exact (congrArg (fun m : Monitor => m.uplinks.get v) monitor).trans kept

theorem changedUplinkRow_store : (s.rowDone (.uplink u) bytes).store = s.store
    ∧ (s.rowDone (.uplink u) bytes).conduits =
      s.conduits.drillEnded (s.uplink u) u ((s.uplink u).drill.bind (·.finding)) s.now := by
  obtain ⟨store, _, _, _, conduits, _⟩ := rowDone_frame (s := s) (row := .uplink u) (bytes := bytes)
  rw [read.adopted good adopts] at store conduits
  refine ⟨store.trans ((applyUplinkRow_store _ _ _).trans drilled_frame.1), conduits.trans ?_⟩
  exact (applyUplinkRow_conduits _ _ _).trans drilled_conduits

theorem changedUplinkRow_completes {d : DrillRecord} (drill : (s.uplink u).drill = some d) :
    s.Completes (s.rowDone (.uplink u) bytes) d.slot .drillStart true .planChanged
      (drillResults d (s.walkOf u) ((s.uplink u).drillSound d)) := by
  obtain ⟨moves, handed, acts⟩ := applyUplinkRow_then (u := u) (row := row)
    (t := s.drilled u row.kind (headGeneration bytes))
  obtain ⟨_, completions, slotHolds⟩ := KeepsOrders.applyUplinkRow (u := u) (row := row)
    (t := s.drilled u row.kind (headGeneration bytes))
  have done := (drilled_completes (kind := row.kind) (generation := headGeneration bytes) drill).keep completions slotHolds
    fun e reported => by
      rw [← drilled_frame (s := s) (u := u) (kind := row.kind) (generation := headGeneration bytes) |>.2.2.1] at reported ⊢
      exact reported.keep (Brings.produced acts)
  have journal := rowDone_journal (s := s) (row := .uplink u) (bytes := bytes)
  rw [read.adopted good adopts] at journal
  obtain ⟨holding, _, _, last, holds, completed⟩ := journal
  exact done.of_eq completed holding last holds

end

end State

open State in
/-- Settles O48: the row rejected, passed over, or handed over and acting by its kind. -/
theorem changedUplinkRowIsAdoptedOrRejected : Obligations.ChangedUplinkRowIsAdoptedOrRejected := by
  unfold Obligations.ChangedUplinkRowIsAdoptedOrRejected
  intro s bytes u size flight free generation r j whole differs fresh adopts counts raised brings
  have read : s.ChangedRowRead (.uplink u) bytes := ⟨size, flight, free, whole, differs, fresh⟩
  have executes := exec_rowRead size flight
  have handsOver : s.passesOver = false ↔ adopts := passesOver_iff
  cases checked : checkUplinkRow bytes with
  | error why =>
    obtain ⟨counted, memory, produced⟩ := changedUplinkRow_rejected read checked
    obtain ⟨monitor, groups, store, engine, port, conduits, _⟩ := rowDone_untouched (s := s) (row := .uplink u)
      (bytes := bytes) (by
        rw [read.treated, checkRow_uplink_rejects (s := s.checking (.uplink u)) _ checked]
        exact Untouched.seenChanged.trans (.rejectRow _ _))
    refine ⟨_, executes, fun v _ => congrArg (fun m : Monitor => m.uplinks.get v) monitor, store, fun why' same => ?_, nofun,
      nofun⟩
    obtain rfl : why = why' := Except.error.inj same
    exact ⟨monitor, conduits, groups, engine, port, counted, memory, produced⟩
  | ok row =>
    by_cases passes : s.passesOver = true
    · obtain ⟨holding, counted, memory⟩ := changedUplinkRow_passed read checked passes
      obtain ⟨monitor, groups, store, engine, port, conduits, _⟩ := rowDone_untouched (s := s) (row := .uplink u)
        (bytes := bytes) (by
          rw [read.treated, checkRow_uplink_passes (s := s.checking (.uplink u)) _ checked
            (checking_passesOver.trans passes)]
          exact .seenChanged)
      have not : ¬adopts := fun adopts => by simp [handsOver.mpr adopts] at passes
      exact ⟨_, executes, fun v _ => congrArg (fun m : Monitor => m.uplinks.get v) monitor, store, nofun,
        fun _ _ => .inr ⟨monitor, conduits, groups, engine, port, holding, counted, memory⟩, fun _ _ h => absurd h not⟩
    · have takes : s.passesOver = false := by simpa using passes
      obtain ⟨store, conduits⟩ := changedUplinkRow_store read checked takes
      obtain ⟨counted, memory⟩ := changedUplinkRow_counts read checked takes
      obtain ⟨sequence, light, params⟩ := drillJudged_keeps r
      have record : (s.acting u row bytes).uplink u = j := drilled_uplink_self
      have brought {record : UplinkRecord} {port : Port} {moves : List Move} {kind : RowKind}
          (a : s.Adopts u row bytes record port moves) (is : row.kind = kind) :
          brings (s.rowDone (.uplink u) bytes) kind moves := by
        subst is
        exact ⟨a.effects, a.rechecks⟩
      refine ⟨_, executes, fun v other => changedUplinkRow_other read checked takes other, store, nofun,
        fun _ _ => .inl (handsOver.mp takes), fun row' same _ => ?_⟩
      obtain rfl : row = row' := Except.ok.inj same
      refine ⟨counted, memory, conduits, fun d drill => ?_, fun kind state cause => ?_, fun kind other => ?_,
        fun kind state cause => ?_, fun kind other => ?_, fun kind probing identity peer => ?_,
        fun kind probing changed => ?_, fun kind idle => ?_⟩
      · have done := changedUplinkRow_completes read checked takes drill
        rw [drillResults_eq drill] at done
        exact done
      · have a := empty_stays read checked takes kind (by rwa [record]) (by rwa [record])
        rw [record] at a
        exact ⟨a.uplink, a.port, brought a kind⟩
      · have a := empty_removes read checked takes kind (by rwa [record])
        rw [record] at a
        exact ⟨a.uplink, a.port, brought a kind⟩
      · have a := disabled_stays read checked takes kind (by rwa [record]) (by rwa [record])
        rw [record] at a
        exact ⟨a.uplink, a.port, brought a kind⟩
      · have a := disabled_disables read checked takes kind (by rwa [record])
        rw [record] at a
        exact ⟨a.uplink, a.port, brought a kind⟩
      · have a := enabled_retunes read checked takes kind (by rwa [record])
          (by rw [record]; exact identity.trans (congrArg (·.peerIdentity) params.symm))
          (by rw [record]; exact peer.trans (congrArg (·.peerUplink) params.symm))
        rw [record] at a
        exact ⟨a.uplink, a.port, brought a kind⟩
      · have a := enabled_repeers read checked takes kind (by rwa [record])
          (by rw [record]; change _ ≠ r.drillJudged.params.peerIdentity ∨ _ ≠ r.drillJudged.params.peerUplink; rwa [params])
        rw [record] at a
        exact ⟨a.uplink, a.port, brought a kind⟩
      · intro trusted begun proof
        have same : s.begunRecord u row bytes = begun := by
          unfold begunRecord
          rw [record]
          have kept : j.txSequence = r.txSequence := sequence
          rw [kept]
        have port : s.begunPort u row bytes = if s.control.runState = .off then s.port else
            s.port.probed { uplink := u, content := {
              identity := s.area.identity, uplink := BitVec.ofNat 8 u.val, seen := false
              sequence := r.txSequence } } := by
          have kept : j.txSequence = r.txSequence := sequence
          unfold begunPort
          rw [record, kept]
        have lit : ((s.acting u row bytes).uplink u).light = r.light := by
          rw [record]
          exact light
        by_cases trusts : trusted
        · have a := enabled_trusts read checked takes kind (by rwa [record]) (by rwa [lit])
          rw [record, same] at a
          exact ⟨fun off => (a.port.trans port).trans (if_pos off), fun on => (a.port.trans port).trans (if_neg on),
            fun other => absurd trusts other, fun _ => ⟨a.uplink, brought a kind⟩⟩
        · have a := enabled_proves read checked takes kind (by rwa [record]) (by rwa [lit])
          rw [record, same] at a
          exact ⟨fun off => (a.port.trans port).trans (if_pos off), fun on => (a.port.trans port).trans (if_neg on),
            fun _ => ⟨a.uplink, brought a kind⟩, fun is => absurd is trusts⟩

end Sys2Proof.Machine
end
